-- ==== Sys2Proof/Word.lean ====
section
/-! DEFINITION. The widths the manual gives its numbers, as names. -/

namespace Sys2Proof

abbrev Byte := BitVec 8
abbrev Half := BitVec 16
abbrev Word := BitVec 32
abbrev Quad := BitVec 64

/-- The time base and every expiry time: microseconds, 48 bits, wrapping (R190). -/
abbrev Time := BitVec 48

/-- A physical address, 52 bits (R21, Table 0-4). -/
abbrev PAddr := BitVec 52

/-- A requester link, L0 to L3. -/
abbrev LinkId := Fin 4

/-- A set of links. Bit n names Ln, the numbering of CLASS_LINKS and NOTIFY_LINKS (R34, R169). -/
abbrev LinkSet := BitVec 4

/-- A chain channel, C0 or C1 (R116). -/
abbrev ChannelId := Fin 2

/-- A source ID (R33, R35). -/
abbrev SourceId := Half

/-- A domain number as carried in messages and records: 0 to 65535 (R89). -/
abbrev DomainNo := Half

/-- The policy epoch (R138). -/
abbrev Epoch := Word

/-- A set of notification statuses, in the bit order of Table 10-4 (R168). -/
abbrev StatusSet := BitVec 13

/-- The sixteen bytes of a tag record (R1, R135). -/
abbrev Image := Vector Byte 16

end Sys2Proof
end

