-- ==== Sys2Proof/Config.lean ====
section
/-! DEFINITION. The fixed quantities of the part (Table 0-4 and the rules named). The manual leaves no
value to an implementation and no result undefined, so there is no free value here. -/

namespace Sys2Proof.Config

/-- Fence table entries (R75). -/
def fenceEntries : Nat := 8

/-- Direct command queue entries (R92). -/
def directQueueMax : Nat := 16

/-- Quarantine request list entries (R152). -/
def quarantineMax : Nat := 4

/-- Sets of the Grant Directory (R70). -/
def directorySets : Nat := 4096

/-- Ways of each set (R70). -/
def directoryWays : Nat := 4

/-- Report storage places (R158). -/
def reportPlaces : Nat := 4096

/-- A class whose pass-over count has reached this is promoted (R16). -/
def passOverMax : Nat := 64

/-- Reply places of one outbound path (Table 11-4). -/
def replyPlaces : Nat := 32

/-- VERDICT places of one outbound path (Table 11-4). -/
def verdictPlaces : Nat := 64

/-- The announce timer's interval in µs (R174). -/
def announceInterval : Nat := 1000

/-- Records one TAG_SCAN examines at most (R19). -/
def scanSpan : Nat := 65536

/-- The number of domains (R106). -/
def domainCount : Nat := 1024

/-- Bytes of one tag record (R1). -/
def recordBytes : Nat := 16

end Sys2Proof.Config
end

