-- ==== Sys2Proof/Syntax.lean ====
section
/-! DEFINITION. The commands: one constructor of `Instr` for each row of spec/opcode_table.json, with the
operands the row's rule gives it. Frames are taken as delivered with the result of their decoding (R181). -/

namespace Sys2Proof

/-- Access kind of a CHECK (Table 4-1). -/
inductive AccessKind | read | write
  deriving DecidableEq, Repr

/-- Rights of a sharer (Table 1-1). -/
inductive Rights | read | readWrite
  deriving DecidableEq, Repr

/-- The ownership state of a record (Table 1-1), also as carried in a REBUILD's content (R104). -/
inductive RecordState | free | owned | shared | fenced | quarantined
  deriving DecidableEq, Repr

/-- The state a TAG_SCAN looks for (R19). -/
inductive WantedState | free | owned | shared | fenced | quarantined | unverifiable
  deriving DecidableEq, Repr

/-- How the first field of a tag command is read (Table 6-1). -/
inductive TagForm | index | address
  deriving DecidableEq, Repr

/-- The two report queues (R158). -/
inductive QueueId | q0 | q1
  deriving DecidableEq, Repr

/-- The three error counters of a link (R185). As a qualifier it is an enumerated field: a code without a meaning is a
decoding fault (R181), not a qualifier beyond its range (log entry 39). -/
inductive CounterType | frameCheck | malformed | unexpected
  deriving DecidableEq, Repr

/-- The two copies of the policy (R21, R33); an enumerated qualifier (log entry 39). -/
inductive Copy | shadow | active
  deriving DecidableEq, Repr

/-- The three pacer parameters (R149). -/
inductive PacerParam | x | a | b
  deriving DecidableEq, Repr

/-- The sources whose granules may fail OUT_OF_RANGE without a fence entry (R94). -/
inductive CommandSource
  | direct
  | chain (c : ChannelId)
  deriving DecidableEq, Repr

/-- The two kinds of tag a REFUSE can carry (R183). -/
inductive TagKind | check | management
  deriving DecidableEq, Repr

/-- A tag with its kind, as carried in a refused message (R183). -/
structure TagName where
  kind : TagKind
  tag  : Nat
  deriving DecidableEq, Repr

/-- Why a frame is rejected before it reaches the block that owns it (R181, stages 1 to 3): its frame check
fails; it does not decode, with the tag that can be read from it if any; or Table 11-2 marks its message
MALFORMED in the link's state (an ANNOUNCE, or any other message). -/
inductive FrameFault
  | frameCheck
  | undecodable (tag : Option TagName)
  | misplaced (isAnnounce : Bool)
  deriving DecidableEq, Repr

/-- The fields of an ANNOUNCE (R175). -/
structure AnnounceMsg where
  role       : Byte
  revision   : Byte
  maxOpen    : Byte
  capacity   : Half
  cacheEmpty : Byte
  sum        : Byte
  deriving DecidableEq, Repr

/-- The fields of a CHECK (Table 4-1, "from the CHECK"). -/
structure CheckMsg where
  tag         : Nat
  source      : SourceId
  address     : PAddr
  access      : AccessKind
  cacheWanted : Bool
  deriving DecidableEq, Repr

/-- What every management message carries: the link it arrives on, its management tag and source ID
(R40, R182). -/
structure MgmtHeader where
  link   : LinkId
  tag    : Nat
  source : SourceId
  deriving DecidableEq, Repr

/-- The granules a TAGCMD names (Table 6-1). -/
structure RangeArg where
  form  : TagForm
  first : Nat
  count : Nat
  deriving DecidableEq, Repr

/-- The content of a REBUILD (Table 6-1, R104). -/
structure RebuildContent where
  state          : RecordState
  owner          : DomainNo
  sharers        : List (DomainNo × Rights)
  platformAccess : Bool
  label          : Half
  deriving DecidableEq, Repr

/-- The arguments of CHAIN_START, as carried (R119). -/
structure ChainStartArg where
  channel     : Byte
  fetchLink   : Byte
  firstBlock  : Quad
  notifyAddr  : Option Quad
  notifyValue : Quad
  deriving DecidableEq, Repr

/-- The window fields as parameters (Table 2-1). -/
inductive WindowField | enable | base | size | granule | tagBase | mode
  deriving DecidableEq, Repr

/-- The classifier element fields as parameters (Table 3-1). -/
inductive ElementField | kind | first | second | links | action | domain | watch | enable
  deriving DecidableEq, Repr

/-- The non-match policy fields as parameters (R33). -/
inductive NonMatchField | action | domain
  deriving DecidableEq, Repr

/-- The parameter space (Table 12-2), each name with the qualifiers it needs as carried (R193); which
qualifiers are numbers and which are codes: log entry 39. -/
inductive Param
  | storeGeometry
  | window (f : WindowField) (w : Nat) (c : Copy)
  | classLength (c : Copy)
  | classElement (f : ElementField) (e : Nat) (c : Copy)
  | nonMatch (f : NonMatchField) (l : Nat) (c : Copy)
  | admission (l : Nat)
  | linkExpectRole (l : Nat)
  | linkMinRevision (l : Nat)
  | errorThreshold
  | errorMode (l : Nat)
  | faultMask (l : Nat)
  | errorCounter (l : Nat) (t : CounterType)
  | revokeTimeout
  | memoryTimeout
  | queueSize (q : QueueId)
  | queueMode (q : QueueId)
  | queueWatermark (q : QueueId)
  | notifyEnable
  | notifyLinks
  | pacer (p : PacerParam)
  | sweepEnable
  | pacerPhaseMode
  | deviceMode
  | leadLink
  | timeBase
  | tableValid
  | tableInitProgress
  | watchReport
  | openChecks (l : Nat)
  | oldEpochOpen
  | directoryInUse
  | directoryMisses
  | flushOutstanding (l : Nat)
  | fenceInUse
  | directQueueFill
  | domainEntry (d : Nat)
  | retireStatus
  | chainProgress (c : Nat)
  | policyEpoch
  | commitPhase
  | pacerState
  | sweepSlips
  | sweepPosition
  | sweepPasses
  | quarantineList
  | errorCapture
  | queueState (q : Nat)
  | domainViolation (d : Nat)
  | violationFirst
  | notifyStatus
  | linkState (l : Nat)
  deriving DecidableEq, Repr

/-- The commands of the part: the rows of spec/opcode_table.json, in the table's order. -/
inductive Instr
  /-- POWER_ON_RESET (R190); the strap is the level of the LEADSEL pins at its end (R189). -/
  | powerOnReset (strap : BitVec 2)
  /-- WARM_RESET (R190). -/
  | warmReset (strap : BitVec 2)
  /-- TIME_BASE_ADVANCE (R190). -/
  | timeBaseAdvance
  /-- PACER_TICK (R148). -/
  | pacerTick
  /-- SWEEP_CREDIT (R148): the tick in which the phase wraps. -/
  | sweepCredit
  /-- LINK_SIGNAL_APPEARS (R174). -/
  | linkSignalAppears (l : LinkId)
  /-- ALIGNMENT_COMPLETES (R174). -/
  | alignmentCompletes (l : LinkId)
  /-- LINK_SIGNAL_LOSS (R173). -/
  | linkSignalLoss (l : LinkId)
  /-- ANNOUNCE_TIMER_EXPIRY (R176). -/
  | announceTimerExpiry (l : LinkId)
  /-- REVOKE_TIMER_EXPIRY (R79) of the fence entry of a granule index. -/
  | revokeTimerExpiry (granule : Nat)
  /-- FLUSH_TIMER_EXPIRY (R86). -/
  | flushTimerExpiry (l : LinkId)
  /-- MEMORY_TIMER_EXPIRY (R118). -/
  | memoryTimerExpiry (c : ChannelId)
  /-- ANNOUNCE (R175). -/
  | announce (l : LinkId) (m : AnnounceMsg)
  /-- FRAME_REJECTED (R181). -/
  | frameRejected (l : LinkId) (why : FrameFault)
  /-- CHECK (R48). -/
  | check (l : LinkId) (m : CheckMsg)
  /-- DROP (R73). -/
  | drop (l : LinkId) (granule : Nat)
  /-- REVOKE_ACK (R78). -/
  | revokeAck (l : LinkId) (granule : Nat) (generation : Half)
  /-- FLUSH_ACK (R85). -/
  | flushAck (l : LinkId)
  /-- MEM_DATA (R120). -/
  | memData (l : LinkId) (tag : Byte) (data : Vector Byte 32)
  /-- MEM_DONE (R126). -/
  | memDone (l : LinkId) (tag : Byte)
  /-- TAGCMD ASSIGN (R98). -/
  | assign (h : MgmtHeader) (r : RangeArg) (d : DomainNo) (platformAccess : Bool) (label : Half)
  /-- TAGCMD RELEASE (R99). -/
  | release (h : MgmtHeader) (r : RangeArg) (d : DomainNo)
  /-- TAGCMD SHARE (R100). -/
  | share (h : MgmtHeader) (r : RangeArg) (d e : DomainNo) (rights : Rights)
  /-- TAGCMD UNSHARE (R101). -/
  | unshare (h : MgmtHeader) (r : RangeArg) (d e : DomainNo)
  /-- TAGCMD TRANSFER (R102). -/
  | transfer (h : MgmtHeader) (r : RangeArg) (d e : DomainNo)
  /-- TAGCMD SET_ATTR (R103). -/
  | setAttr (h : MgmtHeader) (r : RangeArg) (d : DomainNo) (platformAccess : Bool) (label : Half)
  /-- TAGCMD REBUILD (R104). -/
  | rebuild (h : MgmtHeader) (r : RangeArg) (content : RebuildContent)
  /-- CONTROL COMMIT (R139). -/
  | commit (h : MgmtHeader)
  /-- CONTROL TABLE_INIT (R12). -/
  | tableInit (h : MgmtHeader)
  /-- CONTROL START (R191). -/
  | start (h : MgmtHeader)
  /-- CONTROL DOMAIN_OPEN (R108). -/
  | domainOpen (h : MgmtHeader) (d : DomainNo)
  /-- CONTROL DOMAIN_RETIRE (R109). -/
  | domainRetire (h : MgmtHeader) (d : DomainNo)
  /-- CONTROL CHAIN_START (R119). -/
  | chainStart (h : MgmtHeader) (a : ChainStartArg)
  /-- CONTROL CHAIN_STOP (R128). -/
  | chainStop (h : MgmtHeader) (channel : Byte)
  /-- CONTROL CHAIN_RESUME (R129). -/
  | chainResume (h : MgmtHeader) (channel : Byte)
  /-- CONTROL CHAIN_CANCEL (R130). -/
  | chainCancel (h : MgmtHeader) (channel : Byte)
  /-- CONTROL CHAIN_STATUS (R133). -/
  | chainStatus (h : MgmtHeader) (channel : Byte)
  /-- CONTROL CAPTURE_CLEAR (R156). -/
  | captureClear (h : MgmtHeader)
  /-- CONTROL FLAGS_CLEAR (R167). -/
  | flagsClear (h : MgmtHeader) (first last : DomainNo)
  /-- CONTROL NOTIFY_CLEAR (R170). -/
  | notifyClear (h : MgmtHeader) (statuses : StatusSet)
  /-- LOG_READ (R164). -/
  | logRead (h : MgmtHeader) (q : QueueId) (position count : Nat)
  /-- LOG_ACK (R165). -/
  | logAck (h : MgmtHeader) (q : QueueId) (position : Nat)
  /-- TAG_READ (R18). -/
  | tagRead (h : MgmtHeader) (index count : Nat)
  /-- TAG_SCAN (R19). -/
  | tagScan (h : MgmtHeader) (first : Nat) (wanted : WantedState) (owner : Option DomainNo)
  /-- CFG_WRITE (R194). -/
  | cfgWrite (h : MgmtHeader) (p : Param) (value : Quad)
  /-- CFG_WRITE of STORE_GEOMETRY (R10). -/
  | storeGeometry (h : MgmtHeader) (value : Quad)
  /-- CFG_WRITE of a link's ADMISSION (R178). -/
  | admission (h : MgmtHeader) (l : Nat) (value : Quad)
  /-- CFG_WRITE of an ERROR_COUNTER (R186). -/
  | errorCounter (h : MgmtHeader) (l : Nat) (t : CounterType) (value : Quad)
  /-- CFG_WRITE of Q0_SIZE or Q1_SIZE (R166). -/
  | queueSizeWrite (h : MgmtHeader) (q : QueueId) (value : Quad)
  /-- CFG_WRITE of NOTIFY_ENABLE (R169). -/
  | notifyEnable (h : MgmtHeader) (value : Quad)
  /-- CFG_WRITE of PACER_X, PACER_A or PACER_B (R149). -/
  | pacerParameterWrite (h : MgmtHeader) (p : PacerParam) (value : Quad)
  /-- CFG_WRITE of SWEEP_ENABLE (R149). -/
  | sweepEnable (h : MgmtHeader) (value : Quad)
  /-- RECORD_READ_GRANT (R49). -/
  | recordReadGrant
  /-- VERDICT_ISSUE (R50) of the entry offered to a link. -/
  | verdictIssue (l : LinkId)
  /-- FENCE_ALLOCATION (R95). -/
  | fenceAllocation
  /-- GRANULE_OUT_OF_RANGE (R94) of a source's next offset. -/
  | granuleOutOfRange (src : CommandSource)
  /-- COMMAND_READ_GRANT (R76). -/
  | commandReadGrant
  /-- FENCE_WRITE_GRANT (R76). -/
  | fenceWriteGrant
  /-- DIRECTORY_CONSULTATION (R77) of the fence entry of a granule index. -/
  | directoryConsultation (granule : Nat)
  /-- FINAL_WRITE_GRANT (R81). -/
  | finalWriteGrant
  /-- SCANNING_READ_GRANT (R111). -/
  | scanningReadGrant
  /-- SWEEP_READ_PLACEMENT (R150). -/
  | sweepReadPlacement
  /-- SWEEP_READ_GRANT (R151). -/
  | sweepReadGrant
  /-- TABLE_INIT_WRITE_GRANT (R13). -/
  | tableInitWriteGrant
  /-- SOFTWARE_READ_GRANT (R17). -/
  | softwareReadGrant
  /-- OUTBOUND_MESSAGE_SENT (R184). -/
  | outboundMessageSent (l : LinkId)
  /-- CFG_READ (R193). -/
  | cfgRead (h : MgmtHeader) (p : Param)
  deriving DecidableEq, Repr

end Sys2Proof
end

