-- ==== Sys2Proof/WellFormed.lean ====
section
/-! DEFINITION. Which commands carry operands a frame can carry: the ranges of Table 6-1 that the operand
types do not already give. -/

namespace Sys2Proof

/-- Table 6-1: a count of 1 to 65,536; an INDEX-form first below 2^32, an ADDRESS-form first below 2^52. -/
def RangeArg.wellFormed (r : RangeArg) : Bool :=
  decide (1 ≤ r.count) && decide (r.count ≤ 65536) &&
    match r.form with
    | .index   => decide (r.first < 2 ^ 32)
    | .address => decide (r.first < 2 ^ 52)

/-- Table 6-1: a sharer list of 0 to 3 entries. -/
def RebuildContent.wellFormed (c : RebuildContent) : Bool :=
  decide (c.sharers.length ≤ 3)

/-- A command is well-formed when every operand lies in the range the manual gives its field. -/
def Instr.wellFormed : Instr → Bool
  | .assign _ r _ _ _ | .release _ r _ | .share _ r _ _ _ | .unshare _ r _ _ | .transfer _ r _ _
  | .setAttr _ r _ _ _ => r.wellFormed
  | .rebuild _ r c => r.wellFormed && c.wellFormed
  | .powerOnReset _ | .warmReset _ | .timeBaseAdvance | .pacerTick | .sweepCredit
  | .linkSignalAppears _ | .alignmentCompletes _ | .linkSignalLoss _ | .announceTimerExpiry _
  | .revokeTimerExpiry _ | .flushTimerExpiry _ | .memoryTimerExpiry _ | .announce _ _
  | .frameRejected _ _ | .check _ _ | .drop _ _ | .revokeAck _ _ _ | .flushAck _ | .memData _ _ _
  | .memDone _ _ | .commit _ | .tableInit _ | .start _ | .domainOpen _ _ | .domainRetire _ _
  | .chainStart _ _ | .chainStop _ _ | .chainResume _ _ | .chainCancel _ _ | .chainStatus _ _
  | .captureClear _ | .flagsClear _ _ _ | .notifyClear _ _ | .logRead _ _ _ _ | .logAck _ _ _
  | .tagRead _ _ _ | .tagScan _ _ _ _ | .cfgWrite _ _ _ | .storeGeometry _ _ | .admission _ _ _
  | .errorCounter _ _ _ _ | .queueSizeWrite _ _ _ | .notifyEnable _ _ | .pacerParameterWrite _ _ _
  | .sweepEnable _ _ | .recordReadGrant | .verdictIssue _ | .fenceAllocation
  | .granuleOutOfRange _ | .commandReadGrant | .fenceWriteGrant | .directoryConsultation _
  | .finalWriteGrant | .scanningReadGrant | .sweepReadPlacement | .sweepReadGrant
  | .tableInitWriteGrant | .softwareReadGrant | .outboundMessageSent _ | .cfgRead _ _ => true

end Sys2Proof
end

