-- ==== Sys2Proof/Decode.lean ====
section
/-! DEFINITION. The command a word spells by the opcode table's bits. No row of the table gives bits: the
manual leaves message codes and field encodings to the data sheet (R181), so no word spells a command. -/

namespace Sys2Proof

/-- The command spelled by the word `w` of `nbits` bits: none, for every word (log entry 20). -/
def decodeTableWord (_nbits _w : Nat) : Option Instr := none

end Sys2Proof
end

