-- ==== Sys2Proof/Machine/Types.lean ====
section
/-! DEFINITION. The data the part holds and the messages it sends: named fields as the manual's tables give
them. No behaviour stands here. -/

namespace Sys2Proof.Machine

/-! ### Tag records (chapter 1) -/

/-- The fenced_from values (Table 1-1, Table 7-5). -/
inductive FencedFrom | free | owned | shared | quarantined
  deriving DecidableEq, Repr

/-- The fields of a tag record (Table 1-1). The three sharer slots hold their 16-bit words (R135), since a
quarantined record keeps their bits as found (R1); the check byte is computed whenever a record is written
(R6). -/
structure TagRecord where
  state          : RecordState
  fencedFrom     : FencedFrom
  owner          : Half
  slot1          : Half
  slot2          : Half
  slot3          : Half
  generation     : Half
  platformAccess : Bool
  label          : Half
  deriving DecidableEq, Repr

/-- A record as a reader sees it (R7): verified, with its fields, or unverifiable, with its bytes. -/
inductive ReadRecord
  | verified (r : TagRecord)
  | unverifiable (img : Image)
  deriving DecidableEq, Repr

/-! ### Windows and classifier (chapters 2 and 3) -/

/-- Granule sizes (Table 2-1): shift 12 and shift 21. -/
inductive GranuleSize | kib4 | mib2
  deriving DecidableEq, Repr

/-- Window modes (Table 2-2). -/
inductive WindowMode | tagged | openAll | platformOnly | closed
  deriving DecidableEq, Repr

/-- A window of one copy (Table 2-1). -/
structure Window where
  enabled : Bool
  base    : PAddr
  size    : Nat
  granule : GranuleSize
  tagBase : Nat
  mode    : WindowMode
  deriving DecidableEq, Repr

/-- How an element's pattern is read (R35). -/
inductive ElementKind | exact | range | masked
  deriving DecidableEq, Repr

/-- An element's action (Table 3-1). -/
inductive ElementAction | domain | block
  deriving DecidableEq, Repr

/-- A classifier element (Table 3-1). -/
structure Element where
  kind    : ElementKind
  first   : Half
  second  : Half
  links   : LinkSet
  action  : ElementAction
  domain  : DomainNo
  watch   : Bool
  enabled : Bool
  deriving DecidableEq, Repr

/-- A non-match policy (R33): DENY, or DOMAIN; the stored domain is kept under either. -/
structure NonMatch where
  isDomain : Bool
  domain   : DomainNo
  deriving DecidableEq, Repr

/-- One copy of the policy: windows, classifier, list length, non-match policies (R21, R33). An element not
listed holds the values of Table 3-4. -/
structure PolicyCopy where
  windows  : Vector Window 16
  elements : List (Nat × Element)
  length   : Nat
  nonMatch : Vector NonMatch 4
  deriving DecidableEq, Repr

/-- A classification result (R38). -/
inductive ClassResult
  | domain (d : DomainNo)
  | block
  | unclassified
  deriving DecidableEq, Repr

/-- What gave the result (R36). -/
inductive DecidedBy
  | element (n : Nat)
  | nonMatch
  deriving DecidableEq, Repr

/-- A classification handed on: result, what decided, and the watched element when one decided (R36, R43). -/
structure Classification where
  result    : ClassResult
  decidedBy : DecidedBy
  watched   : Option Nat
  deriving DecidableEq, Repr

/-- The lookup result an open check keeps (R25, Table 4-1). -/
structure WindowHit where
  window  : Nat
  mode    : WindowMode
  base    : Nat
  granule : GranuleSize
  deriving DecidableEq, Repr

/-- Message of a watched match report (Table 3-3). -/
inductive WatchMessage | check | management
  deriving DecidableEq, Repr

/-- Placement of a watched match report (R44). -/
inductive Placement
  | none
  | q0 (position : Nat)
  | lost
  deriving DecidableEq, Repr

/-- The last watched match report (Table 3-3). -/
structure WatchReport where
  element   : Nat
  message   : WatchMessage
  link      : LinkId
  source    : SourceId
  domain    : Option DomainNo
  placement : Placement
  deriving DecidableEq, Repr

/-! ### The Verdict Engine (chapter 4) -/

/-- Denial reasons (Table 4-4). -/
inductive DenyReason
  | notAdmitted | linkHeld | notReady | unclassified | sourceBlocked | domainInactive | unmapped
  | closedRegion | platformRegion | notOwner | privateGranule | readOnly | fenced | integrity
  deriving DecidableEq, Repr

/-- The outcome of a check (Table 4-1). -/
inductive CheckOutcome
  | allowRead
  | allowReadWrite
  | deny (r : DenyReason)
  deriving DecidableEq, Repr

/-- The record an open check saw (Table 4-1). -/
inductive RecordSeen
  | verified (r : TagRecord)
  | unverifiable
  deriving DecidableEq, Repr

/-- Phases of an open check (Table 4-2). DECIDING holds the outcome, which is fixed on entering it. -/
inductive CheckPhase
  | waitRecord
  | deciding (o : CheckOutcome)
  deriving DecidableEq, Repr

/-- An open check entry (Table 4-1). `classified` gathers class result, decided by and watched element,
which are absent together. -/
structure OpenCheck where
  link        : LinkId
  tag         : Nat
  source      : SourceId
  address     : PAddr
  access      : AccessKind
  cacheWanted : Bool
  epoch       : Epoch
  phase       : CheckPhase
  classified  : Option Classification
  window      : Option WindowHit
  granule     : Option Nat
  seen        : Option RecordSeen
  stale       : Bool
  oldEpoch    : Bool
  deriving DecidableEq, Repr

/-! ### Directory, fence table, commands (chapters 5 and 6) -/

/-- A Grant Directory entry (R70). -/
structure DirEntry where
  granule : Nat
  holders : LinkSet
  deriving DecidableEq, Repr

/-- Step sources in the cyclic order of R95. -/
inductive StepSource
  | direct
  | chain (c : ChannelId)
  | retire
  | sweep
  deriving DecidableEq, Repr

/-- Step kinds with their arguments (Table 5-2; sections 6.4, 6.5, 9.3). -/
inductive StepKind
  | assign (d : DomainNo) (platformAccess : Bool) (label : Half)
  | release (d : DomainNo)
  | share (d e : DomainNo) (rights : Rights)
  | unshare (d e : DomainNo)
  | transfer (d e : DomainNo)
  | setAttr (d : DomainNo) (platformAccess : Bool) (label : Half)
  | rebuild (content : RebuildContent)
  | quarantine
  deriving DecidableEq, Repr

/-- Per-granule failure reasons, and BAD_ARGUMENT of a rejected command (Table 6-5, Table 7-8). -/
inductive FailReason
  | notFree | notOwned | wrongOwner | shareFull | alreadySharer | notSharer | domainState
  | granuleFenced | integrity | outOfRange | badArgument
  deriving DecidableEq, Repr

/-- Phases of a fence entry (Table 5-3). -/
inductive FencePhase | fencing | revoking | finishing
  deriving DecidableEq, Repr

/-- A fence entry (Table 5-2). -/
structure FenceEntry where
  granule    : Nat
  source     : StepSource
  kind       : StepKind
  phase      : FencePhase
  prior      : Option ReadRecord
  genRead    : Option Half
  consulted  : Bool
  pending    : LinkSet
  staleCount : Nat
  timer      : Option Time
  deriving DecidableEq, Repr

/-- Requests of the COMMAND class: which access of which granule's step (Table 1-5). -/
inductive StepAccess | read | fenceWrite | finalWrite
  deriving DecidableEq, Repr

structure CommandRequest where
  granule : Nat
  access  : StepAccess
  deriving DecidableEq, Repr

/-- A direct command queue entry (R92). `inSession` tells whether the session in which the command was taken
still lasts (R182; log entry 18). -/
structure DirectEntry where
  link        : LinkId
  tag         : Nat
  inSession   : Bool
  kind        : StepKind
  first       : Nat
  count       : Nat
  nextOffset  : Nat
  inFence     : Nat
  done        : Nat
  failed      : Nat
  firstFailed : Option (Nat × FailReason)
  deriving DecidableEq, Repr

/-- Domain states (R106). -/
inductive DomainState | absent | active | retiring
  deriving DecidableEq, Repr

/-- A domain table entry (R106). -/
structure DomainEntry where
  state : DomainState
  owned : Nat
  deriving DecidableEq, Repr

/-- The retire scanner (R110). `position` is a window number and granule offset, or none for END.
`setAside` tells that its last read was set aside until the fence entry of that index is freed (R111). -/
structure RetireScanner where
  running      : Bool
  domain       : DomainNo
  position     : Option (Nat × Nat)
  held         : Option (Nat × StepKind)
  setAside     : Option Nat
  stepsInFence : Nat
  deriving DecidableEq, Repr

/-! ### Chain channels (chapter 7) -/

/-- Channel states (Table 7-2). -/
inductive ChannelState | idle | fetching | executing | posting | stopped
  deriving DecidableEq, Repr

/-- A decoded command block (Table 7-6). -/
structure Block where
  kindCode   : Byte
  flags      : Byte
  countLess1 : Half
  domain     : Half
  second     : Half
  first      : Quad
  statusAddr : Quad
  nextAddr   : Quad
  deriving DecidableEq, Repr

/-- Termination causes (Table 7-3). -/
inductive ChainCause
  | normalEnd | stoppedByRequest | stoppedByBlock | stepErrorStop | cancelled | fetchTimeout
  | writeTimeout | badBlock | linkLost
  deriving DecidableEq, Repr

/-- A termination status that is not EMPTY (R132). -/
structure Termination where
  cause  : ChainCause
  block  : Quad
  offset : Nat
  deriving DecidableEq, Repr

/-- Kind of a memory request (Table 7-1). -/
inductive MemKind | read | write
  deriving DecidableEq, Repr

/-- The memory request outstanding (Table 7-1). -/
structure MemRequest where
  kind   : MemKind
  tag    : Byte
  expiry : Time
  deriving DecidableEq, Repr

/-- Which write of POSTING is outstanding (R126): none, the status record of a valid block, that of a bad
block (R122), or the notify word. -/
inductive PostStage | none | status | badStatus | notify
  deriving DecidableEq, Repr

/-- A chain channel (Table 7-1). Block held and block content are one field: `block`. -/
structure Channel where
  state         : ChannelState
  fetchLink     : LinkId
  notifyAddr    : Option Quad
  notifyValue   : Quad
  blockAddr     : Quad
  block         : Option Block
  rangeFirst    : Nat
  rangeCount    : Nat
  nextOffset    : Nat
  inFence       : Nat
  done          : Nat
  failed        : Nat
  firstFailed   : Option (Nat × FailReason)
  stopRequested : Bool
  errorStop     : Bool
  linkLost      : Bool
  memRequest    : Option MemRequest
  sequence      : Nat
  termination   : Option Termination
  posting       : PostStage
  deriving DecidableEq, Repr

/-! ### Tag Store Controller (chapter 1) -/

/-- Arbiter classes (Table 1-5). -/
inductive ArbClass | verdict | command | retire | software | sweep
  deriving DecidableEq, Repr

/-- The pass-over count of each class (R16). -/
structure PassOver where
  verdict  : Nat
  command  : Nat
  retire   : Nat
  software : Nat
  sweep    : Nat
  deriving DecidableEq, Repr

/-- Which request of the SOFTWARE class is offered next (R16). -/
inductive SoftTurn | initWrite | softwareRead
  deriving DecidableEq, Repr

/-- A VERIFIED entry of a TAG_DATA reply (R18). -/
structure TagView where
  state          : RecordState
  fencedFrom     : Option FencedFrom
  owner          : Half
  sharers        : List (DomainNo × Rights)
  generation     : Half
  platformAccess : Bool
  label          : Half
  check          : Byte
  deriving DecidableEq, Repr

/-- An entry of a TAG_DATA reply (R18). -/
inductive TagEntry
  | verified (v : TagView)
  | unverifiable (img : Image)
  deriving DecidableEq, Repr

/-- What a software request reads (R18, R19). `stop` is the index after the last one it may read. -/
inductive SoftKind
  | read (got : List TagEntry)
  | scan (wanted : WantedState) (owner : Option DomainNo)
  deriving DecidableEq, Repr

structure SoftRequest where
  link  : LinkId
  tag   : Nat
  first : Nat
  next  : Nat
  stop  : Nat
  kind  : SoftKind
  deriving DecidableEq, Repr

/-- A software read in the SOFTWARE class queue. `live` is no when its request was removed (R17). -/
structure SoftRead where
  granule : Nat
  live    : Bool
  deriving DecidableEq, Repr

/-- The Tag Store Controller's own state (Table 1-6, R15 to R17). -/
structure StoreState where
  geometry     : Option Nat
  tableValid   : Bool
  initRunning  : Bool
  initProgress : Nat
  verdictQ     : List (LinkId × Nat)
  commandQ     : List CommandRequest
  retireQ      : Option Nat
  sweepQ       : Option Nat
  softRead     : Option SoftRead
  softTurn     : SoftTurn
  passOver     : PassOver
  softQueue    : List SoftRequest
  deriving DecidableEq, Repr

/-! ### Integrity Sweep (chapter 9) -/

/-- Who found a failure (R156). -/
inductive FoundBy | verdict | command | retire | sweep
  deriving DecidableEq, Repr

/-- The failure the error capture holds (R156). -/
structure Capture where
  granule  : Nat
  foundBy  : FoundBy
  stored   : Byte
  computed : Byte
  deriving DecidableEq, Repr

/-- The Integrity Sweep's state (Table 9-2). The one sweep read stands in the SWEEP class queue. -/
structure SweepState where
  enable        : Bool
  pacerX        : Nat
  pacerA        : Nat
  pacerB        : Nat
  restart       : Bool
  phase         : Nat
  residue       : Nat
  creditPending : Bool
  slips         : Nat
  window        : Nat
  offset        : Nat
  passes        : Nat
  held          : Option Nat
  requests      : List Nat
  capture       : Option Capture
  overflow      : Nat
  deriving DecidableEq, Repr

/-! ### Report Unit (chapter 10) -/

/-- What a store into a full queue does (Table 10-1). -/
inductive QueueMode | blocking | overwrite
  deriving DecidableEq, Repr

/-- A report queue (Table 10-1): the records of its occupied span, oldest first, and the position of the
oldest. put, fill and full follow from them (R158). -/
structure ReportQueue (α : Type) where
  size      : Nat
  mode      : QueueMode
  watermark : Nat
  get       : Nat
  records   : List α
  lost      : Bool
  deriving DecidableEq, Repr

/-- Record state seen by a logged denial (R59). -/
inductive SeenState | free | owned | shared | quarantined | unverifiable
  deriving DecidableEq, Repr

/-- A Q0 denial record (Table 10-2). -/
structure DenialRecord where
  time      : Time
  link      : LinkId
  source    : SourceId
  domain    : Option DomainNo
  decidedBy : Option DecidedBy
  address   : PAddr
  access    : AccessKind
  reason    : DenyReason
  window    : Option Nat
  granule   : Option Nat
  stateSeen : Option SeenState
  ownerSeen : Option Half
  labelSeen : Option Half
  deriving DecidableEq, Repr

/-- Link fault causes (R180). -/
inductive FaultCause | revokeTimeout | flushTimeout | threshold | announceTimeout
  deriving DecidableEq, Repr

/-- Kinds of Q1 event record (Table 10-3). -/
inductive EventKind
  | commandFailure | integrity | linkFault | countResidue | authRefused | chainFault
  deriving DecidableEq, Repr

/-- Detail of an AUTH_REFUSED record (R40). -/
inductive AuthDetail | tenant | blocked | unclassified
  deriving DecidableEq, Repr

/-- Detail of a Q1 event record, by its kind (Table 10-3); for THRESHOLD it names the counter too (R180). -/
inductive EventDetail
  | failure (r : FailReason)
  | checks (stored computed : Byte)
  | fault (c : FaultCause) (counter : Option CounterType)
  | count (n : Nat)
  | auth (a : AuthDetail)
  | chain (c : ChainCause)
  deriving DecidableEq, Repr

/-- A Q1 event record (R160). -/
structure EventRecord where
  time    : Time
  kind    : EventKind
  link    : Option LinkId
  granule : Option Nat
  domain  : Option DomainNo
  detail  : EventDetail
  deriving DecidableEq, Repr

/-- A domain's violation flag and count (R167). -/
structure Violation where
  flag  : Bool
  count : Nat
  deriving DecidableEq, Repr

/-- The notification statuses (Table 10-4). -/
inductive Status
  | q0Watermark | q0Lost | q1Watermark | q1Lost | watchHit | chain0End | chain1End | commitDone
  | retireDone | tableInitDone | linkEvent | integrityError | ackRange
  deriving DecidableEq, Repr

/-- The Report Unit's state (Table 10-5). `notifyDue` is the cause set of the NOTIFY due at the end of the
event in progress; it is empty between events (log entry 14). -/
structure ReportState where
  q0          : ReportQueue DenialRecord
  q1          : ReportQueue EventRecord
  violations  : List (Nat × Violation)
  status      : StatusSet
  enable      : StatusSet
  notifyLinks : LinkSet
  notifyDue   : StatusSet
  deriving DecidableEq, Repr

/-! ### Modes, links and messages (chapters 8, 10, 11, 12) -/

/-- Device modes (R188). -/
inductive DeviceMode | startup | operating
  deriving DecidableEq, Repr

/-- Commit phases (R138). -/
inductive CommitPhase | idle | flushing
  deriving DecidableEq, Repr

/-- Link states (Table 11-1). -/
inductive LinkState | down | training | announcing | admitWait | active | held | faulted | refused
  deriving DecidableEq, Repr

/-- Roles an ANNOUNCE may state (R175). -/
inductive Role | socket | ioRoot
  deriving DecidableEq, Repr

/-- The recorded announced values (R175). -/
structure Announced where
  role     : Role
  revision : Nat
  maxOpen  : Nat
  capacity : Half
  deriving DecidableEq, Repr

/-- Results of an ANNOUNCE_REPLY (R175). -/
inductive AnnounceResult | accepted | badSum | mismatch | cacheNotEmpty
  deriving DecidableEq, Repr

/-- An error counter (R185). -/
structure Counter where
  value   : Nat
  reached : Bool
  deriving DecidableEq, Repr

/-- The three error counters of a link (R185). -/
structure Counters where
  frameCheck : Counter
  malformed  : Counter
  unexpected : Counter
  deriving DecidableEq, Repr

/-- A VERDICT (Table 4-5). -/
structure VerdictMsg where
  tag         : Nat
  outcome     : CheckOutcome
  cacheable   : Bool
  granuleBase : Option (Nat × GranuleSize)
  granule     : Option Nat
  generation  : Option Half
  epoch       : Epoch
  deriving DecidableEq, Repr

/-- REFUSE reasons (Table 11-3). -/
inductive RefuseReason
  | malformed | overLimit | notAdmitted | notPlatform | queueFull | noGeometry | outOfRange
  deriving DecidableEq, Repr

/-- Results of a TAGCMD_REPLY (Table 6-3). -/
inductive CommandResult | done | partialDone | rejected
  deriving DecidableEq, Repr

/-- A TAGCMD_REPLY (Table 6-3). -/
structure CommandReply where
  tag         : Nat
  result      : CommandResult
  done        : Nat
  failed      : Nat
  firstOffset : Option Nat
  firstReason : Option FailReason
  deriving DecidableEq, Repr

/-- Where a BAD_ELEMENT stands (R140, test 4). -/
inductive BadElement
  | element (n : Nat)
  | policy (l : LinkId)
  deriving DecidableEq, Repr

/-- Refusal reasons of CONTROL operations (R12, R108, R109, R119, R128 to R130, R133, R139, R140, R191),
with the detail of R140. -/
inductive ControlReason
  | badArgument | domainState | retireBusy | channelBusy | linkNotActive | channelIdle
  | channelNotStopped | commitBusy | epochLimit | overlap (i j : Nat) | range (w : Nat)
  | tagOverlap (i j : Nat) | badElement (b : BadElement) | notStartup | noGeometry | tableBusy
  | tableNotValid | noPolicy | noPlatformRoute
  deriving DecidableEq, Repr

/-- What a CONTROL_REPLY carries beside its tag. -/
inductive ControlOutcome
  | accepted
  | acceptedEpoch (e : Epoch)
  | refused (r : ControlReason)
  | chainStatus (st : ChannelState) (t : Option Termination)
  deriving DecidableEq, Repr

/-- Refusal reasons of CFG_READ and CFG_WRITE (R10, R193, R194). -/
inductive CfgReason | badAccess | badIndex | tableBusy | range
  deriving DecidableEq, Repr

/-- Outcome of a CFG_READ or CFG_WRITE (R193). -/
inductive CfgOutcome
  | done
  | refused (r : CfgReason)
  deriving DecidableEq, Repr

/-- What CHAIN_PROGRESS gives (R133): Table 7-1 but for block content and termination status. -/
structure ChainProgress where
  state         : ChannelState
  fetchLink     : LinkId
  notifyAddr    : Option Quad
  notifyValue   : Quad
  blockAddr     : Quad
  blockHeld     : Bool
  rangeFirst    : Nat
  rangeCount    : Nat
  nextOffset    : Nat
  inFence       : Nat
  done          : Nat
  failed        : Nat
  firstFailed   : Option (Nat × FailReason)
  stopRequested : Bool
  errorStop     : Bool
  linkLost      : Bool
  memRequest    : Option MemRequest
  sequence      : Nat
  deriving DecidableEq, Repr

/-- The value of a parameter (R193). Fields the owning rule codes by number are `num`. -/
inductive CfgValue
  | num (n : Nat)
  | flag (b : Bool)
  | optional (n : Option Nat)
  | mode (m : DeviceMode)
  | phase (p : CommitPhase) (links : LinkSet)
  | watch (w : Option WatchReport)
  | domain (d : DomainEntry)
  | violation (v : Violation)
  | retire (domain : Option DomainNo) (position : Option (Nat × Nat)) (steps : Nat)
  | chain (c : ChainProgress)
  | pacer (phase residue : Nat) (creditPending : Bool)
  | position (window offset : Nat)
  | granules (l : List Nat)
  | capture (c : Option Capture) (overflow : Nat)
  | queue (put get fill : Nat) (full lost : Bool)
  | counter (c : Counter)
  | link (st : LinkState) (a : Option Announced) (reply : Option AnnounceResult)
      (fault : Option FaultCause) (sessions : Nat)
  deriving DecidableEq, Repr

/-- A record as LOG_DATA carries it: the position and the fields (R164). -/
inductive LogRecord
  | denial (position : Nat) (r : DenialRecord)
  | event (position : Nat) (r : EventRecord)
  deriving DecidableEq, Repr

/-- Outcome carried by LOG_DATA for a LOG_ACK (R165); a LOG_READ has none. -/
inductive LogOutcome | none | acked | outOfSpan
  deriving DecidableEq, Repr

/-- A queue's state as LOG_DATA and QUEUE_STATE give it (R158, section 10.4). -/
structure QueueView where
  put  : Nat
  get  : Nat
  fill : Nat
  full : Bool
  lost : Bool
  deriving DecidableEq, Repr

/-- What TAG_DATA carries (R18, R19). -/
inductive TagData
  | records (first : Nat) (entries : List TagEntry)
  | found (index : Nat)
  | noneFound (next : Nat)
  deriving DecidableEq, Repr

/-- What a read of the head request brings: the request goes on, or its reply (R18, R19). -/
inductive SoftResult
  | goesOn (r : SoftRequest)
  | finished (d : TagData)
  deriving DecidableEq, Repr

/-- The messages the part sends on a link. -/
inductive OutMsg
  | announceReply (r : AnnounceResult) (maxOpen : Option Nat)
  | verdict (v : VerdictMsg)
  | refuse (t : TagName) (r : RefuseReason)
  | revoke (granule : Nat) (generation : Half)
  | flushAll
  | memRead (tag : Byte) (address : Quad)
  | memWrite (tag : Byte) (address : Quad) (data : List Byte)
  | notify (time : Time) (statuses causes : StatusSet)
  | commandReply (r : CommandReply)
  | controlReply (tag : Nat) (o : ControlOutcome)
  | cfgData (tag : Nat) (p : Param) (o : CfgOutcome) (v : Option CfgValue)
  | logData (tag : Nat) (q : QueueId) (o : LogOutcome) (v : QueueView) (rs : List LogRecord)
  | tagData (tag : Nat) (d : TagData)
  deriving DecidableEq, Repr

/-- A requester link with its RLI (Table 11-5, R184) and its flush state (R83). -/
structure Link where
  state            : LinkState
  announced        : Option Announced
  lastReply        : Option AnnounceResult
  lastFault        : Option FaultCause
  sessionCount     : Nat
  announceTimer    : Option Time
  flushOutstanding : Bool
  flushTimer       : Option Time
  counters         : Counters
  admission        : Bool
  expectRole       : Option Role
  minRevision      : Nat
  errorMode        : BitVec 3
  faultMask        : BitVec 3
  outbound         : List OutMsg
  held             : List Instr
  deriving DecidableEq, Repr

end Sys2Proof.Machine
end

