-- ==== Sys2Proof/Machine/State.lean ====
section
/-! DEFINITION. The state of the part, the reasons a step can stop, and the state after power-on reset. -/

namespace Sys2Proof.Machine

/-- The state of the part, block by block as Table 0-1 divides it, and the queue of waiting commands. -/
structure State where
  /-- Device mode (R188). -/
  mode : DeviceMode
  /-- Lead link number (R189). -/
  leadLink : LinkId
  /-- Time base (R190). -/
  timeBase : Time
  /-- The four requester links (chapter 11). -/
  links : Vector Link 4
  /-- ERROR_THRESHOLD (R186). -/
  errorThreshold : Nat
  /-- Shadow copy of the policy (R22, R34). -/
  shadow : PolicyCopy
  /-- Active copy of the policy (R25, R36). -/
  active : PolicyCopy
  /-- Last watched match report (R43). -/
  watchReport : Option WatchReport
  /-- Policy epoch (R138). -/
  epoch : Epoch
  /-- Commit phase (R138). -/
  phase : CommitPhase
  /-- Commit flush set (R138). -/
  flushSet : LinkSet
  /-- The tag DRAM: bytes by address, in the canonical form of `Memory.wf` (R1, R9). -/
  dram : List Host.Cell
  /-- Tag Store Controller (R9 to R17). -/
  store : StoreState
  /-- Open check table, each entry standing where it entered its phase (R47, R50). -/
  openChecks : List OpenCheck
  /-- Old-epoch count (R65). -/
  oldEpochCount : Nat
  /-- Grant Directory: occupied ways by number 4 × set + way (R70). -/
  directory : List (Nat × Option DirEntry)
  /-- DIRECTORY_MISSES (R74). -/
  directoryMisses : Nat
  /-- Fence table, in ascending granule index (R75; log entry 27). -/
  fence : List FenceEntry
  /-- REVOKE_TIMEOUT (R82). -/
  revokeTimeout : Nat
  /-- Direct command queue, head first (R92). -/
  directQueue : List DirectEntry
  /-- Source pointer (R95). -/
  sourcePtr : StepSource
  /-- Domain table: domains 1 to 1023 that are not ABSENT with count 0 (R106). -/
  domains : List (Nat × DomainEntry)
  /-- Retire scanner (R110). -/
  retire : RetireScanner
  /-- Chain channels C0 and C1 (R116). -/
  chains : Vector Channel 2
  /-- MEMORY_TIMEOUT (R118). -/
  memoryTimeout : Nat
  /-- Integrity Sweep (R148 to R156). -/
  sweep : SweepState
  /-- Report Unit (R158 to R170). -/
  reports : ReportState
  /-- Commands waiting, the first to be taken in front. -/
  pending : List Instr
  deriving DecidableEq, Repr

/-- Why a step can stop with a fault. The manual names no condition that stops the part. -/
inductive Fault
  /-- A granted record access names an index the store does not hold (R9: valid indices run from 0 to
  capacity − 1). Raised by the grants of record accesses. Safe: the model stops where the manual describes no
  record to access (log entry 16). -/
  | recordOutsideStore (granule : Nat)
  deriving DecidableEq, Repr

/-- Why a step can refuse a command. -/
inductive Refusal
  /-- A command that has no meaning yet. Raised by no arm of exec. Safe. -/
  | notModelled (mnemonic : String)
  deriving DecidableEq, Repr

/-- A counter after a zeroing (R174). -/
def Counter.zero : Counter := { value := 0, reached := false }

/-- The three counters after a zeroing (R174). -/
def Counters.zero : Counters :=
  { frameCheck := Counter.zero, malformed := Counter.zero, unexpected := Counter.zero }

/-- A link after power-on reset (Table 11-5, Table 5-4). -/
def Link.reset : Link :=
  { state := .down, announced := none, lastReply := none, lastFault := none, sessionCount := 0
    announceTimer := none, flushOutstanding := false, flushTimer := none, counters := Counters.zero
    admission := false, expectRole := none, minRevision := 1, errorMode := 0, faultMask := 0
    outbound := [], held := [] }

/-- A window after power-on reset (Table 2-4). -/
def Window.reset : Window :=
  { enabled := false, base := 0, size := 0, granule := .kib4, tagBase := 0, mode := .closed }

/-- A classifier element after power-on reset (Table 3-4). -/
def Element.reset : Element :=
  { kind := .exact, first := 0, second := 0, links := 0, action := .block, domain := 0
    watch := false, enabled := false }

/-- A non-match policy after power-on reset (Table 3-4). -/
def NonMatch.reset : NonMatch := { isDomain := false, domain := 0 }

/-- A policy copy after power-on reset (Tables 2-4 and 3-4). -/
def PolicyCopy.reset : PolicyCopy :=
  { windows := Vector.replicate 16 Window.reset, elements := [], length := 0
    nonMatch := Vector.replicate 4 NonMatch.reset }

/-- Table 1-6. -/
def StoreState.reset : StoreState :=
  { geometry := none, tableValid := false, initRunning := false, initProgress := 0, verdictQ := []
    commandQ := [], retireQ := none, sweepQ := none, softRead := none, softTurn := .softwareRead
    passOver := { verdict := 0, command := 0, retire := 0, software := 0, sweep := 0 }
    softQueue := [] }

/-- Table 6-6: IDLE. The other fields mean nothing while it is IDLE (log entry 26). -/
def RetireScanner.reset : RetireScanner :=
  { running := false, domain := 0, position := none, held := none, setAside := none
    stepsInFence := 0 }

/-- R134. -/
def Channel.reset : Channel :=
  { state := .idle, fetchLink := 0, notifyAddr := none, notifyValue := 0, blockAddr := 0
    block := none, rangeFirst := 0, rangeCount := 0, nextOffset := 0, inFence := 0, done := 0
    failed := 0, firstFailed := none, stopRequested := false, errorStop := false, linkLost := false
    memRequest := none, sequence := 0, termination := none, posting := .none }

/-- Table 9-2, power-on column. -/
def SweepState.reset : SweepState :=
  { enable := false, pacerX := 0, pacerA := 0, pacerB := 1, restart := false, phase := 0
    residue := 0, creditPending := false, slips := 0, window := 0, offset := 0, passes := 0
    held := none, requests := [], capture := none, overflow := 0 }

/-- Table 10-5, power-on column, for a lead link. -/
def ReportState.reset (lead : LinkId) : ReportState :=
  { q0 := { size := 3072, mode := .blocking, watermark := 0, get := 0, records := [], lost := false }
    q1 := { size := 1024, mode := .blocking, watermark := 0, get := 0, records := [], lost := false }
    violations := [], status := 0, enable := 0, notifyLinks := (1#4) <<< lead.val, notifyDue := 0 }

/-- The state after a power-on reset that reads the strap as `lead` (R190, Table 12-1), with an empty queue. -/
def State.powerOn (lead : LinkId) : State :=
  { mode := .startup, leadLink := lead, timeBase := 0, links := Vector.replicate 4 Link.reset
    errorThreshold := 255, shadow := PolicyCopy.reset, active := PolicyCopy.reset
    watchReport := none, epoch := 0, phase := .idle, flushSet := 0, dram := []
    store := StoreState.reset, openChecks := [], oldEpochCount := 0, directory := []
    directoryMisses := 0, fence := [], revokeTimeout := 64, directQueue := [], sourcePtr := .direct
    domains := [], retire := RetireScanner.reset, chains := Vector.replicate 2 Channel.reset
    memoryTimeout := 20, sweep := SweepState.reset, reports := ReportState.reset lead, pending := [] }

/-- The part right after power-on reset, its LEADSEL strap carrying 0 (log entry 2). -/
def State.reset : State := State.powerOn 0

end Sys2Proof.Machine
end

