-- ==== Sys2Proof/Machine/Memory.lean ====
section
/-! DEFINITION. Sparse tables in canonical form, and the tag DRAM as one of them. -/

namespace Sys2Proof.Machine

/-- The value of key `x` in a sparse table whose unlisted keys hold `dflt`. -/
def Table.get {α : Type} (dflt : α) : List (Nat × α) → Nat → α
  | [], _ => dflt
  | (k, v) :: rest, x => if k = x then v else Table.get dflt rest x

/-- The table with key `x` holding `v`; writing `dflt` removes the entry. -/
def Table.set {α : Type} [DecidableEq α] (dflt : α) : List (Nat × α) → Nat → α → List (Nat × α)
  | [], x, v => if v = dflt then [] else [(x, v)]
  | (k, w) :: rest, x, v =>
    if x < k then (if v = dflt then (k, w) :: rest else (x, v) :: (k, w) :: rest)
    else if x = k then (if v = dflt then rest else (x, v) :: rest)
    else (k, w) :: Table.set dflt rest x v

/-- The canonical form: keys strictly rising, no entry equal to what an unlisted key holds. -/
abbrev Table.wf {α : Type} (dflt : α) (t : List (Nat × α)) : Prop :=
  t.Pairwise (fun p q => p.1 < q.1) ∧ ∀ p ∈ t, p.2 ≠ dflt

/-- The table with `f` applied to every listed entry and the entries that become `dflt` removed. -/
def Table.mapListed {α : Type} [DecidableEq α] (dflt : α) (f : Nat → α → α) :
    List (Nat × α) → List (Nat × α)
  | [] => []
  | (k, v) :: rest =>
    if f k v = dflt then Table.mapListed dflt f rest else (k, f k v) :: Table.mapListed dflt f rest

/-- What a byte of tag DRAM reads as when nothing has written it since power-on. Table 1-6 calls the contents
indeterminate. DESIGN CHOICE, unsafe (log entry 1): 00H, so that such a record fails verification (R11). -/
def dramUnlisted : Byte := 0

/-- One byte of tag DRAM. -/
def Memory.read (m : List Host.Cell) (a : Nat) : Byte := Table.get dramUnlisted m a

/-- Write one byte of tag DRAM. -/
def Memory.write (m : List Host.Cell) (a : Nat) (b : Byte) : List Host.Cell :=
  Table.set dramUnlisted m a b

/-- The canonical form of the tag DRAM. -/
abbrev Memory.wf (m : List Host.Cell) : Prop := Table.wf dramUnlisted m

/-- Write bytes at rising addresses from `a`. -/
def Memory.writeBytes (m : List Host.Cell) (a : Nat) : List Byte → List Host.Cell
  | [] => m
  | b :: bs => Memory.writeBytes (Memory.write m a b) (a + 1) bs

/-- The first byte of record `i`: record `i` occupies bytes 16 × i to 16 × i + 15 (R9). -/
def recordBase (i : Nat) : Nat := Config.recordBytes * i

/-- All sixteen bytes of record `i` (R1). -/
def Memory.readImage (m : List Host.Cell) (i : Nat) : Image :=
  let b := recordBase i
  #v[Memory.read m b, Memory.read m (b + 1), Memory.read m (b + 2), Memory.read m (b + 3),
     Memory.read m (b + 4), Memory.read m (b + 5), Memory.read m (b + 6), Memory.read m (b + 7),
     Memory.read m (b + 8), Memory.read m (b + 9), Memory.read m (b + 10), Memory.read m (b + 11),
     Memory.read m (b + 12), Memory.read m (b + 13), Memory.read m (b + 14), Memory.read m (b + 15)]

/-- Replace record `i` whole (R1, R15). -/
def Memory.writeImage (m : List Host.Cell) (i : Nat) (img : Image) : List Host.Cell :=
  Memory.writeBytes m (recordBase i) img.toList

end Sys2Proof.Machine
end

