-- ==== Sys2Proof/Machine/Records.lean ====
section
/-! DEFINITION. The tag record: its byte image (R135), its check code (R6), its verification (R7), and what
each step kind tests of it and writes over it (sections 6.4, 6.5 and 9.3). -/

namespace Sys2Proof.Machine

/-- A 16-bit field from its low and high bytes (little-endian, section 0.6.1). -/
def halfOf (lo hi : Byte) : Half := hi ++ lo

def lowByte (h : Half) : Byte := h.setWidth 8

def highByte (h : Half) : Byte := (h >>> 8).setWidth 8

/-- State codes (Table 7-5). -/
def stateCode : RecordState → Byte
  | .free => 0 | .owned => 1 | .shared => 2 | .fenced => 3 | .quarantined => 4

/-- The state a code names; none for a code that fails the form test (Table 7-5). -/
def stateOfCode (b : Byte) : Option RecordState :=
  if b = 0 then some .free else if b = 1 then some .owned else if b = 2 then some .shared
  else if b = 3 then some .fenced else if b = 4 then some .quarantined else none

/-- fenced_from codes (Table 7-5). -/
def fencedFromCode : FencedFrom → Byte
  | .free => 0 | .owned => 1 | .shared => 2 | .quarantined => 4

/-- The fenced_from value in byte 1, bits 4 to 6; none for a code that fails the form test (Table 7-5). -/
def fencedFromOfFlags (b : Byte) : Option FencedFrom :=
  let c := (b >>> 4) &&& 7
  if c = 0 then some .free else if c = 1 then some .owned else if c = 2 then some .shared
  else if c = 4 then some .quarantined else none

/-- Byte 1: platform_access in bit 0, fenced_from in bits 4 to 6 (Table 7-4). -/
def flagByte (platformAccess : Bool) (f : FencedFrom) : Byte :=
  (if platformAccess then 1 else 0) ||| (fencedFromCode f <<< 4)

/-! ### Sharer slots (R3, R135) -/

def slotPresent (w : Half) : Bool := w.getLsbD 15

def slotDomain (w : Half) : DomainNo := w &&& 0x3FF#16

def slotRights (w : Half) : Rights := if w.getLsbD 14 then .readWrite else .read

/-- A present slot holding a domain and rights. -/
def slotOf (d : DomainNo) (r : Rights) : Half :=
  (d &&& 0x3FF#16) ||| 0x8000#16 ||| (match r with | .readWrite => 0x4000#16 | .read => 0#16)

/-- A slot as the part writes it: 0000H when empty, unused bits 0 when present (R1, R135). -/
def slotNormal (w : Half) : Half := if slotPresent w then w &&& 0xC3FF#16 else 0

/-- Slot `w` is present and names domain `d`. -/
def slotNames (d : DomainNo) (w : Half) : Bool := slotPresent w && slotDomain w == d

def TagRecord.slots (r : TagRecord) : List Half := [r.slot1, r.slot2, r.slot3]

/-- The sharer list in slot order (R3). -/
def TagRecord.sharers (r : TagRecord) : List (DomainNo × Rights) :=
  (r.slots.filter slotPresent).map fun w => (slotDomain w, slotRights w)

/-- Domain `d` stands in a present sharer slot. -/
def TagRecord.hasSharer (r : TagRecord) (d : DomainNo) : Bool := r.slots.any (slotNames d)

/-- The record's sharer slots keep their bits as found (R1): QUARANTINED, or FENCED from QUARANTINED. -/
def TagRecord.keepsSlots (r : TagRecord) : Bool :=
  match r.state with
  | .quarantined => true
  | .fenced => r.fencedFrom == .quarantined
  | .free | .owned | .shared => false

/-! ### Image, check code, verification -/

/-- The check of a record's first fifteen bytes (R6). -/
def checkByte (bytes : List Byte) : Byte := 255 - (bytes.take 15).foldl (· + ·) 0

/-- Bytes 0 to 14 of the image of a record (Table 7-4). -/
def recordBytes15 (r : TagRecord) : List Byte :=
  let slot (w : Half) : Half := if r.keepsSlots then w else slotNormal w
  let from_ : FencedFrom := match r.state with
    | .fenced => r.fencedFrom
    | .free | .owned | .shared | .quarantined => .free
  [stateCode r.state, flagByte r.platformAccess from_,
   lowByte r.owner, highByte r.owner,
   lowByte (slot r.slot1), highByte (slot r.slot1),
   lowByte (slot r.slot2), highByte (slot r.slot2),
   lowByte (slot r.slot3), highByte (slot r.slot3),
   lowByte r.generation, highByte r.generation,
   lowByte r.label, highByte r.label, 0]

/-- The image the part writes for a record, check computed afresh (R1, R6, R135). -/
def recordImage (r : TagRecord) : Image :=
  let b := recordBytes15 r
  #v[b.getD 0 0, b.getD 1 0, b.getD 2 0, b.getD 3 0, b.getD 4 0, b.getD 5 0, b.getD 6 0, b.getD 7 0,
     b.getD 8 0, b.getD 9 0, b.getD 10 0, b.getD 11 0, b.getD 12 0, b.getD 13 0, b.getD 14 0,
     checkByte b]

/-- Fields of an image in which fenced_from means nothing outside FENCED (Table 1-1); `st` and `f` are its
state and fenced_from. -/
def fieldsWith (img : Image) (st : RecordState) (f : FencedFrom) : TagRecord :=
  { state := st, fencedFrom := f
    owner := halfOf img[2] img[3]
    slot1 := halfOf img[4] img[5]
    slot2 := halfOf img[6] img[7]
    slot3 := halfOf img[8] img[9]
    generation := halfOf img[10] img[11]
    platformAccess := img[1].getLsbD 0
    label := halfOf img[12] img[13] }

/-- The sum test (R7, test 1). -/
def sumTest (img : Image) : Bool := img.toList.foldl (· + ·) 0 == (255 : Byte)

/-- The owner and sharer parts of the form test, for a record whose content is of state `st` (R7). -/
def ownerTest (r : TagRecord) (st : RecordState) : Bool :=
  decide (r.owner.toNat ≤ 1023) && (st != .free || r.owner == 0) &&
    (st == .shared || !r.slots.any slotPresent)

/-- The fields of an image that passes the form test (R7, test 2); none when it fails. -/
def formFields (img : Image) : Option TagRecord :=
  match stateOfCode img[0] with
  | none => none
  | some .quarantined => some (fieldsWith img .quarantined .free)
  | some .fenced =>
    match fencedFromOfFlags img[1] with
    | none => none
    | some .quarantined => some (fieldsWith img .fenced .quarantined)
    | some .free =>
      let r := fieldsWith img .fenced .free
      if ownerTest r .free then some r else none
    | some .owned =>
      let r := fieldsWith img .fenced .owned
      if ownerTest r .owned then some r else none
    | some .shared =>
      let r := fieldsWith img .fenced .shared
      if ownerTest r .shared then some r else none
  | some .free =>
    let r := fieldsWith img .free .free
    if ownerTest r .free then some r else none
  | some .owned =>
    let r := fieldsWith img .owned .free
    if ownerTest r .owned then some r else none
  | some .shared =>
    let r := fieldsWith img .shared .free
    if ownerTest r .shared then some r else none

/-- A record as a reader sees it: verified when it passes both tests of R7. -/
def verify (img : Image) : ReadRecord :=
  if sumTest img then
    match formFields img with
    | some r => .verified r
    | none => .unverifiable img
  else .unverifiable img

/-- Record `i` of the store as a grant sees it (R15). -/
def State.readRecord (s : State) (i : Nat) : ReadRecord := verify (Memory.readImage s.dram i)

/-- Replace record `i` by the image of `r` (R6, R15). -/
def State.writeRecord (s : State) (i : Nat) (r : TagRecord) : State :=
  { s with dram := Memory.writeImage s.dram i (recordImage r) }

/-- The fields of a record that failed verification, read as QUARANTINED (R8). -/
def foundFields (img : Image) : TagRecord := fieldsWith img .quarantined .free

/-- The fields a step starts from: those of a verified record, or those found (R8). -/
def ReadRecord.fields : ReadRecord → TagRecord
  | .verified r => r
  | .unverifiable img => foundFields img

/-- A FREE record as TABLE_INIT writes it (R13). -/
def freeRecord : TagRecord :=
  { state := .free, fencedFrom := .free, owner := 0, slot1 := 0, slot2 := 0, slot3 := 0
    generation := 0, platformAccess := false, label := 0 }

/-- The counted owner of a record, as a domain number (R106). -/
def TagRecord.countedOwner (r : TagRecord) : Option DomainNo :=
  match r.state with
  | .owned | .shared => some r.owner
  | .fenced =>
    match r.fencedFrom with
    | .owned | .shared => some r.owner
    | .free | .quarantined => none
  | .free | .quarantined => none

/-! ### Fence write and final write -/

/-- The fenced_from of a fence write over a record (R76, R105): its prior state; a record left FENCED keeps its
own. -/
def fenceFrom (r : TagRecord) : FencedFrom :=
  match r.state with
  | .free => .free | .owned => .owned | .shared => .shared | .quarantined => .quarantined
  | .fenced => r.fencedFrom

/-- The record a fence write leaves: FENCED, every other field kept (R2, R8, R76, R105, R154). -/
def fencedRecord (prior : ReadRecord) : TagRecord :=
  { prior.fields with state := .fenced, fencedFrom := fenceFrom prior.fields }

/-- A slot after UNSHARE of `e` (R101). -/
def slotWithout (e : DomainNo) (w : Half) : Half := if slotNames e w then 0 else w

/-- SHARE places the new sharer in the lowest-numbered empty slot (R3, R100). -/
def placeSharer (r : TagRecord) (w : Half) : TagRecord :=
  if !slotPresent r.slot1 then { r with slot1 := w }
  else if !slotPresent r.slot2 then { r with slot2 := w }
  else { r with slot3 := w }

/-- The slot word of the n-th sharer of a REBUILD's content, 0000H past its end (R105). -/
def contentSlot (c : RebuildContent) (n : Nat) : Half :=
  match c.sharers[n]? with
  | some (d, r) => slotOf d r
  | none => 0

/-- The state a REBUILD's well-formed content gives (R104). -/
def contentRecord (c : RebuildContent) (gen : Half) : TagRecord :=
  { state := c.state, fencedFrom := .free, owner := c.owner
    slot1 := contentSlot c 0, slot2 := contentSlot c 1, slot3 := contentSlot c 2
    generation := gen, platformAccess := c.platformAccess, label := c.label }

/-- The generation of a final write (R4, R81): the generation read plus 1 modulo 65,536, or 0 for a REBUILD
whose stored record was unverifiable. -/
def finalGeneration (k : StepKind) (prior : ReadRecord) : Half :=
  match k, prior with
  | .rebuild _, .unverifiable _ => 0
  | _, p => p.fields.generation + 1

/-- The record a final write leaves, by step kind (R98 to R105, R155). -/
def finalRecord (k : StepKind) (prior : ReadRecord) : TagRecord :=
  let p := prior.fields
  let g := finalGeneration k prior
  match k with
  | .assign d pa label =>
    { freeRecord with state := .owned, owner := d, generation := g, platformAccess := pa, label := label }
  | .release _ => { freeRecord with generation := g }
  | .share _ e rights =>
    placeSharer { p with state := .shared, fencedFrom := .free, generation := g } (slotOf e rights)
  | .unshare _ e =>
    let q := { p with
      fencedFrom := .free, generation := g
      slot1 := slotWithout e p.slot1, slot2 := slotWithout e p.slot2, slot3 := slotWithout e p.slot3 }
    if q.slots.any slotPresent then { q with state := .shared }
    else { q with state := .owned, slot1 := 0, slot2 := 0, slot3 := 0 }
  | .transfer _ e =>
    { p with
      state := .owned, fencedFrom := .free, owner := e, slot1 := 0, slot2 := 0, slot3 := 0
      generation := g }
  | .setAttr _ pa label =>
    { p with fencedFrom := .free, generation := g, platformAccess := pa, label := label }
  | .rebuild c => contentRecord c g
  | .quarantine => { p with state := .quarantined, fencedFrom := .free, generation := g }

/-! ### Replies and codes -/

/-- A VERIFIED entry of TAG_DATA (R18). -/
def tagView (r : TagRecord) (img : Image) : TagView :=
  { state := r.state
    fencedFrom := match r.state with
      | .fenced => some r.fencedFrom
      | .free | .owned | .shared | .quarantined => none
    owner := r.owner, sharers := r.sharers, generation := r.generation
    platformAccess := r.platformAccess, label := r.label, check := img[15] }

/-- The entry of TAG_DATA for record `i` as it stands (R18). -/
def State.tagEntry (s : State) (i : Nat) : TagEntry :=
  let img := Memory.readImage s.dram i
  match verify img with
  | .verified r => .verified (tagView r img)
  | .unverifiable b => .unverifiable b

/-- TAG_SCAN's match (R19). -/
def scanMatches (wanted : WantedState) (owner : Option DomainNo) (rec : ReadRecord) : Bool :=
  let ownerOk (r : TagRecord) : Bool := match owner with
    | none => true
    | some d => r.owner == d
  match wanted, rec with
  | .unverifiable, .unverifiable _ => true
  | .unverifiable, .verified _ => false
  | _, .unverifiable _ => false
  | .free, .verified r => r.state == .free && ownerOk r
  | .owned, .verified r => r.state == .owned && ownerOk r
  | .shared, .verified r => r.state == .shared && ownerOk r
  | .fenced, .verified r => r.state == .fenced && ownerOk r
  | .quarantined, .verified r => r.state == .quarantined && ownerOk r

/-- Failure reason codes (Table 7-8). -/
def reasonCode : FailReason → Byte
  | .notFree => 1 | .notOwned => 2 | .wrongOwner => 3 | .shareFull => 4 | .alreadySharer => 5
  | .notSharer => 6 | .domainState => 7 | .granuleFenced => 8 | .integrity => 9 | .outOfRange => 10
  | .badArgument => 11

/-- A number as four little-endian bytes. -/
def bytes4 (n : Nat) : List Byte :=
  [BitVec.ofNat 8 n, BitVec.ofNat 8 (n / 256), BitVec.ofNat 8 (n / 65536), BitVec.ofNat 8 (n / 16777216)]

/-- A 64-bit word as eight little-endian bytes. -/
def bytes8 (q : Quad) : List Byte := bytes4 (q.toNat % 4294967296) ++ bytes4 (q.toNat / 4294967296)

end Sys2Proof.Machine
end

