-- ==== Sys2Proof/Machine/Ops.lean ====
section
/-! DEFINITION. The named operations over the state's parts: accessors, the outbound path, timers, the
domain table, the Grant Directory, the fence table and the tag store arbiter. -/

namespace Sys2Proof.Machine

/-! ### Counters and sets -/

/-- A counter that stays at its largest value (section 0.6.2, saturating). -/
def satInc (top n : Nat) : Nat := if n < top then n + 1 else n

/-- A counter that goes from its largest value to 0 (section 0.6.2, wraps). -/
def wrapInc (size n : Nat) : Nat := (n + 1) % size

def LinkSet.has (ls : LinkSet) (l : LinkId) : Bool := ls.getLsbD l.val

def LinkSet.single (l : LinkId) : LinkSet := (1#4) <<< l.val

def LinkSet.add (ls : LinkSet) (l : LinkId) : LinkSet := ls ||| LinkSet.single l

def LinkSet.del (ls : LinkSet) (l : LinkId) : LinkSet := ls &&& ~~~(LinkSet.single l)

/-- The four links in ascending number. -/
def allLinks : List LinkId := [0, 1, 2, 3]

/-- The links of a set in ascending number. -/
def LinkSet.links (ls : LinkSet) : List LinkId := allLinks.filter (LinkSet.has ls)

/-! ### Accessors -/

def State.link (s : State) (l : LinkId) : Link := s.links[l]

def State.setLink (s : State) (l : LinkId) (k : Link) : State :=
  { s with links := s.links.set l.val k l.isLt }

def State.updLink (s : State) (l : LinkId) (f : Link → Link) : State := s.setLink l (f (s.link l))

def State.chan (s : State) (c : ChannelId) : Channel := s.chains[c]

def State.updChan (s : State) (c : ChannelId) (f : Channel → Channel) : State :=
  { s with chains := s.chains.set c.val (f (s.chan c)) c.isLt }

/-- The link is ACTIVE. -/
def State.isActive (s : State) (l : LinkId) : Bool := (s.link l).state == .active

/-- The store capacity in records: 2^g, and 0 while the geometry is UNSET (R9). -/
def State.capacity (s : State) : Nat :=
  match s.store.geometry with
  | none => 0
  | some g => 2 ^ g

/-- The entry of domain `d`. Domain 0 is always ACTIVE with owned count 0 (R106). -/
def State.domainEntry (s : State) (d : DomainNo) : DomainEntry :=
  if d = 0 then { state := .active, owned := 0 }
  else Table.get { state := .absent, owned := 0 } s.domains d.toNat

/-- Store the entry of domain `d`; domain 0 does not change (R106). -/
def State.setDomain (s : State) (d : DomainNo) (e : DomainEntry) : State :=
  if d = 0 then s
  else { s with domains := Table.set { state := .absent, owned := 0 } s.domains d.toNat e }

/-- Domain `d` is ACTIVE (R98, R100, R102, R104). -/
def State.domainActive (s : State) (d : DomainNo) : Bool := (s.domainEntry d).state == .active

/-! ### Time (R190) -/

/-- The expiry time of a timer started now with an interval of `n` µs, modulo 2^48. -/
def State.expiryAfter (s : State) (n : Nat) : Time := s.timeBase + BitVec.ofNat 48 n

/-- The time base has reached the expiry time of a running timer (log entry 5). -/
def State.reached (s : State) (t : Option Time) : Bool :=
  match t with
  | none => false
  | some e => decide ((s.timeBase - e).toNat < 2 ^ 47)

/-! ### The outbound path (R184) -/

/-- Hand a message to a link's outbound path. -/
def State.hand (s : State) (l : LinkId) (m : OutMsg) : State :=
  s.updLink l fun k => { k with outbound := k.outbound ++ [m] }

def OutMsg.isVerdict : OutMsg → Bool
  | .verdict _ => true
  | _ => false

def OutMsg.isNotify : OutMsg → Bool
  | .notify _ _ _ => true
  | _ => false

def OutMsg.isAnnounceReply : OutMsg → Bool
  | .announceReply _ _ => true
  | _ => false

/-- The message takes a place of the replies row of Table 11-4. -/
def OutMsg.isReply : OutMsg → Bool
  | .announceReply _ _ | .refuse _ _ | .commandReply _ | .controlReply _ _ | .cfgData _ _ _ _
  | .logData _ _ _ _ _ | .tagData _ _ => true
  | .verdict _ | .revoke _ _ | .flushAll | .memRead _ _ | .memWrite _ _ _ | .notify _ _ _ => false

/-- Management tag `t` of link `l` is outstanding: a TAGCMD of the present session waits or runs, or a
TAG_READ or TAG_SCAN is queued (R182). -/
def State.tagOutstanding (s : State) (l : LinkId) (t : Nat) : Bool :=
  s.directQueue.any (fun e => e.link == l && e.tag == t && e.inSession) ||
    s.store.softQueue.any (fun r => r.link == l && r.tag == t)

/-- The number of management requests of link `l` outstanding between events (R182). -/
def State.outstandingCount (s : State) (l : LinkId) : Nat :=
  s.directQueue.countP (fun e => e.link == l && e.inSession) +
    s.store.softQueue.countP (fun r => r.link == l)

/-- Reply places of link `l` in use: replies and REFUSEs not yet sent, and the places taken by outstanding
management requests (R184). -/
def State.replyPlacesUsed (s : State) (l : LinkId) : Nat :=
  (s.link l).outbound.countP OutMsg.isReply + s.outstandingCount l

/-- Open checks of link `l` (R69). -/
def State.openCount (s : State) (l : LinkId) : Nat := s.openChecks.countP (fun e => e.link == l)

/-- VERDICT places of link `l` in use: open checks and VERDICTs not yet sent (R184). -/
def State.verdictPlacesUsed (s : State) (l : LinkId) : Nat :=
  s.openCount l + (s.link l).outbound.countP OutMsg.isVerdict

/-! ### The Grant Directory (R70, R71) -/

/-- The way numbers of the set of a granule index, lowest first. -/
def dirWays (g : Nat) : List Nat :=
  let b := Config.directoryWays * (g % Config.directorySets)
  [b, b + 1, b + 2, b + 3]

/-- The entry in a way. -/
def State.dirWay (s : State) (w : Nat) : Option DirEntry := Table.get none s.directory w

/-- The way that holds the entry of a granule index. -/
def State.dirFind (s : State) (g : Nat) : Option Nat :=
  (dirWays g).find? fun w => match s.dirWay w with
    | some e => e.granule == g
    | none => false

/-- The holder set of a granule index: empty when the directory holds no entry for it. -/
def State.holders (s : State) (g : Nat) : LinkSet :=
  match s.dirFind g with
  | some w => match s.dirWay w with
    | some e => e.holders
    | none => 0
  | none => 0

def State.setWay (s : State) (w : Nat) (e : Option DirEntry) : State :=
  { s with directory := Table.set none s.directory w e }

/-- An entry with a holder set, or a free way when the set is empty (R70). -/
def dirEntryOf (g : Nat) (ls : LinkSet) : Option DirEntry :=
  if ls = 0 then none else some { granule := g, holders := ls }

/-- Record a grant of granule index `g` for link `l`; the Bool tells whether it is accepted (R71). -/
def State.recordGrant (s : State) (g : Nat) (l : LinkId) : State × Bool :=
  match s.dirFind g with
  | some w => (s.setWay w (dirEntryOf g (LinkSet.add (s.holders g) l)), true)
  | none =>
    match (dirWays g).find? fun w => (s.dirWay w).isNone with
    | some w => (s.setWay w (dirEntryOf g (LinkSet.single l)), true)
    | none => ({ s with directoryMisses := satInc 4294967295 s.directoryMisses }, false)

/-- Remove a link from one granule's holder set (R73). -/
def State.dropHolder (s : State) (g : Nat) (l : LinkId) : State :=
  match s.dirFind g with
  | some w => s.setWay w (dirEntryOf g (LinkSet.del (s.holders g) l))
  | none => s

/-- Free the entry of a granule index, whatever holders it has (R81). -/
def State.freeGranule (s : State) (g : Nat) : State :=
  match s.dirFind g with
  | some w => s.setWay w none
  | none => s

/-- Remove a link from every holder set (R85, R87). -/
def State.dropAllHolders (s : State) (l : LinkId) : State :=
  let without (_ : Nat) (e : Option DirEntry) : Option DirEntry :=
    e.bind fun d => dirEntryOf d.granule (LinkSet.del d.holders l)
  { s with directory := Table.mapListed none without s.directory }

/-! ### The fence table (R75) -/

/-- The fence entry that names a granule index. -/
def State.fenceOf (s : State) (g : Nat) : Option FenceEntry := s.fence.find? fun e => e.granule == g

/-- A fence entry names the granule index. -/
def State.fenced (s : State) (g : Nat) : Bool := (s.fenceOf g).isSome

/-- Change the entry that names a granule index. -/
def State.updFence (s : State) (g : Nat) (f : FenceEntry → FenceEntry) : State :=
  { s with fence := s.fence.map fun e => if e.granule = g then f e else e }

/-- Put an entry into a table kept in ascending granule index (log entry 27). -/
def insertFence (e : FenceEntry) : List FenceEntry → List FenceEntry
  | [] => [e]
  | x :: xs => if e.granule < x.granule then e :: x :: xs else x :: insertFence e xs

/-- Free the entry that names a granule index. A scanning read set aside for it is placed again (R111). -/
def State.freeFence (s : State) (g : Nat) : State :=
  let t := { s with fence := s.fence.filter fun e => e.granule != g }
  if t.retire.setAside = some g then
    { t with retire := { t.retire with setAside := none }, store := { t.store with retireQ := some g } }
  else t

/-- Remove a link from a fence entry's pending holder set; the revoke timer stops when the set becomes empty
(R78, R85, R87). -/
def FenceEntry.dropPending (e : FenceEntry) (l : LinkId) : FenceEntry :=
  if LinkSet.has e.pending l then
    let p := LinkSet.del e.pending l
    { e with pending := p, timer := if p = 0 then none else e.timer }
  else e

/-- One stale check of the granule has been issued or discarded (R64). -/
def State.lowerStale (s : State) (g : Option Nat) : State :=
  match g with
  | none => s
  | some i => s.updFence i fun e => { e with staleCount := e.staleCount - 1 }

/-- The drain of an entry is complete (R80). -/
def FenceEntry.drained (e : FenceEntry) : Bool :=
  e.phase == .revoking && e.consulted && e.pending == 0 && e.staleCount == 0

/-- Take every entry whose drain is complete to FINISHING and place its final write, in ascending granule
index (R80). -/
def State.completeDrains (s : State) : State :=
  { s with
    fence := s.fence.map fun e => if e.drained then { e with phase := .finishing } else e
    store := { s.store with
      commandQ := s.store.commandQ ++ (s.fence.filter FenceEntry.drained).map fun e =>
        { granule := e.granule, access := .finalWrite } } }

/-! ### The tag store arbiter (R14 to R16) -/

/-- The fixed priority, highest first (R16). -/
def arbOrder : List ArbClass := [.verdict, .command, .retire, .software, .sweep]

/-- The SOFTWARE request offered: when both wait, the one whose turn it is (R16). -/
def State.softOffer (s : State) : Option SoftTurn :=
  match s.store.initRunning, s.store.softRead with
  | false, none => none
  | true, none => some .initWrite
  | false, some _ => some .softwareRead
  | true, some _ => some s.store.softTurn

/-- A request of the class waits. -/
def State.classWaiting (s : State) : ArbClass → Bool
  | .verdict => !s.store.verdictQ.isEmpty
  | .command => !s.store.commandQ.isEmpty
  | .retire => s.store.retireQ.isSome
  | .software => s.softOffer.isSome
  | .sweep => s.store.sweepQ.isSome

/-- The class is held while TABLE_INIT runs (R14). -/
def State.classHeld (s : State) : ArbClass → Bool
  | .command | .retire | .sweep => s.store.initRunning
  | .verdict | .software => false

/-- The class is eligible and has a request waiting. -/
def State.classReady (s : State) (c : ArbClass) : Bool := s.classWaiting c && !s.classHeld c

def PassOver.count (p : PassOver) : ArbClass → Nat
  | .verdict => p.verdict
  | .command => p.command
  | .retire => p.retire
  | .software => p.software
  | .sweep => p.sweep

/-- The class the next grant goes to: the highest promoted class, else the highest ready class (R16). -/
def State.arbPick (s : State) : Option ArbClass :=
  let ready := arbOrder.filter s.classReady
  match ready.find? fun c => decide (Config.passOverMax ≤ s.store.passOver.count c) with
  | some c => some c
  | none => ready.head?

/-- The pass-over count of class `d` after a grant to class `c` (R16). -/
def State.passOverAfter (s : State) (c d : ArbClass) : Nat :=
  let n := s.store.passOver.count d
  if d = c then 0 else if s.classReady d then satInc Config.passOverMax n else n

/-- The pass-over counts after a grant to class `c`. -/
def State.countGrant (s : State) (c : ArbClass) : State :=
  { s with store := { s.store with passOver :=
    { verdict := s.passOverAfter c .verdict, command := s.passOverAfter c .command
      retire := s.passOverAfter c .retire, software := s.passOverAfter c .software
      sweep := s.passOverAfter c .sweep } } }

/-- A grant of the store port. When the arbiter's choice is class `c`, its counts are kept and `f` takes the
granted request; otherwise the grant is not due and nothing happens (log entry 4). -/
def State.onGrant (s : State) (c : ArbClass) (f : State → Host.Outcome State Fault Refusal) :
    Host.Outcome State Fault Refusal :=
  if s.arbPick = some c then f (s.countGrant c) else .next s

/-- An access to record `i`: it exists when `i` is below the capacity (R9; log entry 16). -/
def State.onRecord (s : State) (i : Nat) (k : State) : Host.Outcome State Fault Refusal :=
  if i < s.capacity then .next k else .fault (.recordOutsideStore i)

/-- Place a request at the tail of the COMMAND class queue. -/
def State.placeCommand (s : State) (g : Nat) (a : StepAccess) : State :=
  { s with store := { s.store with commandQ := s.store.commandQ ++ [{ granule := g, access := a }] } }

/-- Place the read of the head software request, unless one is already queued (R17). -/
def State.placeSoftRead (s : State) : State :=
  match s.store.softRead, s.store.softQueue with
  | none, r :: _ => { s with store := { s.store with softRead := some { granule := r.next, live := true } } }
  | _, _ => s

end Sys2Proof.Machine
end

