-- ==== Sys2Proof/Machine/Flags.lean ====
section
/-! DEFINITION. Flags and reports: the notification statuses and NOTIFY, the report queues with their
watermark and lost flags, violation flags, the watched match report, the quarantine requests and the error
capture. -/

namespace Sys2Proof.Machine

/-! ### Notification statuses (R168 to R170) -/

/-- The bit of a status (Table 10-4). -/
def Status.bit : Status → Nat
  | .q0Watermark => 0 | .q0Lost => 1 | .q1Watermark => 2 | .q1Lost => 3 | .watchHit => 4
  | .chain0End => 5 | .chain1End => 6 | .commitDone => 7 | .retireDone => 8 | .tableInitDone => 9
  | .linkEvent => 10 | .integrityError => 11 | .ackRange => 12

def Status.mask (st : Status) : StatusSet := (1#13) <<< st.bit

def StatusSet.has (ss : StatusSet) (st : Status) : Bool := ss.getLsbD st.bit

/-- Raise a status: a clear one becomes set, and counts for this event's NOTIFY when it is enabled (R168,
R169); a set one stays set. -/
def State.raise (s : State) (st : Status) : State :=
  if StatusSet.has s.reports.status st then s
  else { s with reports := { s.reports with
    status := s.reports.status ||| st.mask
    notifyDue := s.reports.notifyDue ||| (st.mask &&& s.reports.enable) } }

/-- The cause set of a NOTIFY of the path that is not yet sent. -/
def pendingCauses : List OutMsg → StatusSet
  | [] => 0
  | .notify _ _ c :: rest => c ||| pendingCauses rest
  | _ :: rest => pendingCauses rest

/-- Hand a NOTIFY to a path: an earlier one not yet sent is removed and its cause set joined (R184). -/
def handNotify (out : List OutMsg) (time : Time) (statuses causes : StatusSet) : List OutMsg :=
  out.filter (fun m => !m.isNotify) ++ [.notify time statuses (pendingCauses out ||| causes)]

/-- Hand a NOTIFY to a link of the notify link set that is ACTIVE (R169). -/
def State.notifyLink (s : State) (l : LinkId) : State :=
  if LinkSet.has s.reports.notifyLinks l && s.isActive l then
    s.updLink l fun k => { k with
      outbound := handNotify k.outbound s.timeBase s.reports.status s.reports.notifyDue }
  else s

/-- The end of an event: the NOTIFY due, if any, is handed to the notify links after the event's other
messages (R169). A CFG_WRITE of NOTIFY_LINKS in whose own event a NOTIFY falls due sends it to the set it wrote
(DEDUCED, log entry 38); ACTIVE is judged here too (log entry 14), so a link that the event itself made ACTIVE, by
ADMISSION or START, gets the NOTIFY of a WATCH_HIT that rose earlier in the event (DEDUCED, log entry 47). -/
def State.closeEvent (s : State) : State :=
  if s.reports.notifyDue = 0 then s
  else
    let t := allLinks.foldl State.notifyLink s
    { t with reports := { t.reports with notifyDue := 0 } }

/-! ### Report queues (R158, R161 to R163) -/

def ReportQueue.fill {α : Type} (q : ReportQueue α) : Nat := q.records.length

/-- put always equals get + fill modulo size; in a queue of size 0 it stays 0 (R158). -/
def ReportQueue.put {α : Type} (q : ReportQueue α) : Nat :=
  if q.size = 0 then 0 else (q.get + q.fill) % q.size

def ReportQueue.full {α : Type} (q : ReportQueue α) : Bool := q.fill == q.size

def ReportQueue.view {α : Type} (q : ReportQueue α) : QueueView :=
  { put := q.put, get := q.get, fill := q.fill, full := q.full, lost := q.lost }

/-- Store a record or lose it; the position it went into, none when it is lost (R161). -/
def ReportQueue.push {α : Type} (q : ReportQueue α) (r : α) : ReportQueue α × Option Nat :=
  if q.fill < q.size then ({ q with records := q.records ++ [r] }, some q.put)
  else if q.size = 0 then ({ q with lost := true }, none)
  else match q.mode with
    | .blocking => ({ q with lost := true }, none)
    | .overwrite =>
      ({ q with records := q.records.tail ++ [r], get := (q.get + 1) % q.size }, some q.put)

/-- A store now takes the fill from watermark − 1 to the watermark, which is from 1 to the size (R162). -/
def ReportQueue.rises {α : Type} (q : ReportQueue α) : Bool :=
  decide (q.fill < q.size) && q.fill + 1 == q.watermark

/-- Store an event record in Q1 or lose it (R161 to R163). -/
def State.storeEvent (s : State) (r : EventRecord) : State :=
  let p := s.reports.q1.push r
  let t := { s with reports := { s.reports with q1 := p.1 } }
  match p.2 with
  | none => t.raise .q1Lost
  | some _ => if s.reports.q1.rises then t.raise .q1Watermark else t

/-- An event record at this event's time (R160). -/
def State.report (s : State) (kind : EventKind) (link : Option LinkId) (granule : Option Nat)
    (domain : Option DomainNo) (detail : EventDetail) : State :=
  s.storeEvent { time := s.timeBase, kind := kind, link := link, granule := granule, domain := domain
                 detail := detail }

/-- A domain's violation flag and count (R167). -/
def State.violation (s : State) (d : Nat) : Violation :=
  Table.get { flag := false, count := 0 } s.reports.violations d

def State.setViolation (s : State) (d : Nat) (v : Violation) : State :=
  { s with reports := { s.reports with
    violations := Table.set { flag := false, count := 0 } s.reports.violations d v } }

/-- A denial record naming a domain is stored or lost: the flag is set and the count advances (R167). -/
def State.countViolation (s : State) (d : Option DomainNo) : State :=
  match d with
  | none => s
  | some d => s.setViolation d.toNat
      { flag := true, count := satInc 65535 (s.violation d.toNat).count }

/-- Where a denial record goes, or LOST (R44, R161). -/
def State.denialPlacement (s : State) (r : DenialRecord) : Placement :=
  match (s.reports.q0.push r).2 with
  | none => .lost
  | some p => .q0 p

/-- Store a denial record in Q0 or lose it, and count it against its domain (R161 to R163, R167). -/
def State.storeDenial (s : State) (r : DenialRecord) : State :=
  let p := s.reports.q0.push r
  let t := ({ s with reports := { s.reports with q0 := p.1 } }).countViolation r.domain
  match p.2 with
  | none => t.raise .q0Lost
  | some _ => if s.reports.q0.rises then t.raise .q0Watermark else t

/-- Write the last watched match report and raise WATCH_HIT (R43). -/
def State.writeWatch (s : State) (w : WatchReport) : State :=
  ({ s with watchReport := some w }).raise .watchHit

/-! ### Quarantine requests and the error capture (R8, R152, R156) -/

/-- File a quarantine request, or drop it (R152). -/
def State.fileRequest (s : State) (g : Nat) : State :=
  if s.sweep.requests.contains g || s.sweep.held == some g then s
  else if Config.quarantineMax ≤ s.sweep.requests.length then s
  else { s with sweep := { s.sweep with requests := s.sweep.requests ++ [g] } }

/-- Give a failure to the error capture (R156). -/
def State.capture (s : State) (g : Nat) (by_ : FoundBy) (img : Image) : State :=
  let failure : Capture :=
    { granule := g, foundBy := by_, stored := img[15], computed := checkByte img.toList }
  match s.sweep.capture with
  | none => { s with sweep := { s.sweep with capture := some failure } }
  | some _ => { s with sweep := { s.sweep with overflow := satInc 255 s.sweep.overflow } }

/-- What a reader does that found a record unverifiable: file a request and give the failure to the capture
(Table 1-3). -/
def State.foundFailure (s : State) (g : Nat) (by_ : FoundBy) (img : Image) : State :=
  (s.fileRequest g).capture g by_ img

end Sys2Proof.Machine
end

