-- ==== Sys2Proof/Machine/Operands.lean ====
section
/-! DEFINITION. How the operands of commands are read: window lookup and index arithmetic (chapter 2), source
classification (chapter 3), the conversion of ranges (R30), argument tests (R91), command blocks (R136). -/

namespace Sys2Proof.Machine

/-! ### Windows (R21 to R26) -/

def GranuleSize.shift : GranuleSize → Nat
  | .kib4 => 12
  | .mib2 => 21

/-- The effective base: bits below the shift taken as 0 (R23). -/
def Window.effBase (w : Window) : Nat := w.base.toNat / 2 ^ w.granule.shift * 2 ^ w.granule.shift

/-- The effective size: the stored size cut to the granules that fit below 2^52 (R23). -/
def Window.effSize (w : Window) : Nat := min w.size ((2 ^ 52 - w.effBase) / 2 ^ w.granule.shift)

/-- The window takes part in lookup and walks (R21). -/
def Window.inUse (w : Window) : Bool := w.enabled && decide (1 ≤ w.effSize)

/-- The address after the last one of the range (R23). -/
def Window.limit (w : Window) : Nat := w.effBase + w.effSize * 2 ^ w.granule.shift

/-- The window is in use and its range holds the address. -/
def Window.holds (w : Window) (a : Nat) : Bool :=
  w.inUse && decide (w.effBase ≤ a) && decide (a < w.limit)

/-- TAGGED and in use. -/
def Window.walks (w : Window) : Bool := w.inUse && w.mode == .tagged

/-- Granule offset of an address of the range (R26). -/
def Window.offsetOf (w : Window) (a : Nat) : Nat := (a - w.effBase) / 2 ^ w.granule.shift

/-- Granule base of an address of the range (R26). -/
def Window.baseOf (w : Window) (a : Nat) : Nat :=
  w.effBase + (a - w.effBase) / 2 ^ w.granule.shift * 2 ^ w.granule.shift

/-- Granule index of an address of the range (R26). -/
def Window.indexOf (w : Window) (a : Nat) : Nat := w.tagBase + w.offsetOf a

/-- Windows with their numbers, from number `n` on. -/
def numbered {α : Type} : Nat → List α → List (Nat × α)
  | _, [] => []
  | n, x :: xs => (n, x) :: numbered (n + 1) xs

/-- The windows of a copy with their numbers, ascending. -/
def PolicyCopy.windowList (p : PolicyCopy) : List (Nat × Window) := numbered 0 p.windows.toList

/-- The window of a copy with a number; out of range, one that is not in use. -/
def PolicyCopy.window (p : PolicyCopy) (n : Nat) : Window := p.windows.toList.getD n Window.reset

/-- The lookup of an address (R25): the window in use whose range holds it. -/
def PolicyCopy.lookup (p : PolicyCopy) (a : Nat) : Option (Nat × Window) :=
  p.windowList.find? fun x => x.2.holds a

/-- What an open check keeps of a lookup (R25). -/
def lookupHit (n : Nat) (w : Window) (a : Nat) : WindowHit :=
  { window := n, mode := w.mode, base := w.baseOf a, granule := w.granule }

/-- The first granule of the first TAGGED window in use with a number of at least `n` (R29). -/
def PolicyCopy.firstTagged (p : PolicyCopy) (n : Nat) : Option (Nat × Nat) :=
  match p.windowList.find? fun x => decide (n ≤ x.1) && x.2.walks with
  | some x => some (x.1, 0)
  | none => none

/-- The next position of the tagged index sequence; none past its end (R29). -/
def PolicyCopy.nextPosition (p : PolicyCopy) (w off : Nat) : Option (Nat × Nat) :=
  if (p.window w).walks && decide (off + 1 < (p.window w).effSize) then some (w, off + 1)
  else p.firstTagged (w + 1)

/-- The granule index of a position. -/
def PolicyCopy.positionIndex (p : PolicyCopy) (w off : Nat) : Nat := (p.window w).tagBase + off

/-- The position stands in a tag range of the copy (R150). -/
def PolicyCopy.positionStands (p : PolicyCopy) (w off : Nat) : Bool :=
  (p.window w).walks && decide (off < (p.window w).effSize)

/-- The first granule index of an ADDRESS-form range that converts (R30). -/
def PolicyCopy.convert (p : PolicyCopy) (a n : Nat) : Option Nat :=
  match p.lookup a with
  | none => none
  | some (_, w) =>
    if w.mode = .tagged ∧ w.offsetOf a + n ≤ w.effSize then some (w.indexOf a) else none

/-- The first granule index of a command's range, in either form (R30, R90). -/
def PolicyCopy.rangeFirst (p : PolicyCopy) (form : TagForm) (first count : Nat) : Option Nat :=
  match form with
  | .index => some first
  | .address => p.convert first count

/-! ### Commit validation (R42, R140) -/

/-- Two windows in use share an address. -/
def rangesMeet (v w : Window) : Bool := decide (v.effBase < w.limit) && decide (w.effBase < v.limit)

/-- Two TAGGED windows in use share an index. -/
def tagRangesMeet (v w : Window) : Bool :=
  decide (v.tagBase < w.tagBase + w.effSize) && decide (w.tagBase < v.tagBase + v.effSize)

/-- The first pair (i, j), i below j, that a test joins, in ascending i and then ascending j (R140). -/
def firstPair (bad : Window → Window → Bool) : List (Nat × Window) → Option (Nat × Nat)
  | [] => none
  | (i, w) :: rest =>
    match rest.find? fun x => bad w x.2 with
    | some x => some (i, x.1)
    | none => firstPair bad rest

/-- A TAGGED window in use whose last tag index is at or above a capacity (R10, R140 test 2). -/
def Window.beyond (w : Window) (capacity : Nat) : Bool :=
  w.walks && decide (capacity < w.tagBase + w.effSize)

/-- A classifier element of a copy (R33). -/
def PolicyCopy.element (p : PolicyCopy) (n : Nat) : Element := Table.get Element.reset p.elements n

/-- The element fails the test of R42. -/
def Element.bad (e : Element) : Bool :=
  e.enabled && e.action == .domain && decide (1023 < e.domain.toNat)

/-- The non-match policy fails the test of R42. -/
def NonMatch.bad (n : NonMatch) : Bool := n.isDomain && decide (1023 < n.domain.toNat)

/-- The first element or policy that fails the test of R42, in the order of R140. -/
def PolicyCopy.badElement (p : PolicyCopy) : Option BadElement :=
  match (List.range p.length).find? fun n => (p.element n).bad with
  | some n => some (.element n)
  | none =>
    match allLinks.find? fun l => (p.nonMatch[l]).bad with
    | some l => some (.policy l)
    | none => none

/-- The four validation tests of R140 under a capacity; none when all pass. -/
def PolicyCopy.validate (p : PolicyCopy) (capacity : Nat) : Option ControlReason :=
  match firstPair rangesMeet (p.windowList.filter fun x => x.2.inUse) with
  | some (i, j) => some (.overlap i j)
  | none =>
    match p.windowList.find? fun x => x.2.beyond capacity with
    | some x => some (.range x.1)
    | none =>
      match firstPair tagRangesMeet (p.windowList.filter fun x => x.2.walks) with
      | some (i, j) => some (.tagOverlap i j)
      | none => p.badElement.map ControlReason.badElement

/-! ### Classification (R35 to R38) -/

/-- An element's pattern accepts a source ID (R35). -/
def Element.accepts (e : Element) (src : SourceId) : Bool :=
  match e.kind with
  | .exact => src == e.first || src == e.second
  | .range => decide (e.first.toNat ≤ src.toNat) && decide (src.toNat ≤ e.second.toNat)
  | .masked => src &&& e.second == e.first &&& e.second

/-- An element matches a pair (R35). -/
def Element.matchesPair (e : Element) (l : LinkId) (src : SourceId) : Bool :=
  e.enabled && LinkSet.has e.links l && e.accepts src

/-- The number of the first element that matches, below the list length (R36). -/
def PolicyCopy.deciding (p : PolicyCopy) (l : LinkId) (src : SourceId) : Option Nat :=
  (List.range p.length).find? fun n => (p.element n).matchesPair l src

/-- The classification of a pair (R36, R37). -/
def PolicyCopy.classify (p : PolicyCopy) (l : LinkId) (src : SourceId) : Classification :=
  match p.deciding l src with
  | some n =>
    let e := p.element n
    { result := match e.action with
        | .domain => .domain e.domain
        | .block => .block
      decidedBy := .element n
      watched := if e.watch then some n else none }
  | none =>
    let m := p.nonMatch[l]
    { result := if m.isDomain then .domain m.domain else .unclassified
      decidedBy := .nonMatch, watched := none }

/-- The domain of a result, absent for BLOCK and unclassified. -/
def ClassResult.domain? : ClassResult → Option DomainNo
  | .domain d => some d
  | .block | .unclassified => none

/-! ### Tag command arguments (R91, R104) -/

/-- A domain field that must lie in 1 to 1023. -/
def tenant (d : DomainNo) : Bool := decide (d.toNat ≤ 1023) && d != 0

/-- No domain appears twice. -/
def distinctSharers : List (DomainNo × Rights) → Bool
  | [] => true
  | (d, _) :: rest => !rest.any (fun x => x.1 == d) && distinctSharers rest

/-- The content of a REBUILD is well-formed (R104). -/
def contentWellMade (c : RebuildContent) : Bool :=
  match c.state with
  | .free => c.owner == 0 && c.sharers.isEmpty
  | .owned => tenant c.owner && c.sharers.isEmpty
  | .shared =>
    tenant c.owner && !c.sharers.isEmpty && decide (c.sharers.length ≤ 3) &&
      c.sharers.all (fun x => tenant x.1 && x.1 != c.owner) && distinctSharers c.sharers
  | .fenced | .quarantined => false

/-- The argument tests of R91. -/
def StepKind.argsOk : StepKind → Bool
  | .assign d _ _ | .release d | .setAttr d _ _ => tenant d
  | .share d e _ | .unshare d e => tenant d && tenant e && e != d
  | .transfer d e => tenant d && tenant e
  | .rebuild c => contentWellMade c
  | .quarantine => true

/-- Domain d of a command, absent for REBUILD (Table 10-3). -/
def StepKind.domainD : StepKind → Option DomainNo
  | .assign d _ _ | .release d | .share d _ _ | .unshare d _ | .transfer d _ | .setAttr d _ _ => some d
  | .rebuild _ | .quarantine => none

/-! ### Command blocks (R136) -/

def quadOf (b : List Byte) : Quad :=
  b.foldr (fun x acc => (acc <<< 8) ||| x.setWidth 64) 0

/-- The 32 bytes of a fetch decoded as a command block (Table 7-6). -/
def blockOf (v : Vector Byte 32) : Block :=
  { kindCode := v[0], flags := v[1], countLess1 := halfOf v[2] v[3], domain := halfOf v[4] v[5]
    second := halfOf v[6] v[7], first := quadOf (v.toList.drop 8 |>.take 8)
    statusAddr := quadOf (v.toList.drop 16 |>.take 8), nextAddr := quadOf (v.toList.drop 24 |>.take 8) }

def Block.stopAfter (b : Block) : Bool := b.flags.getLsbD 0
def Block.postStatus (b : Block) : Bool := b.flags.getLsbD 1
def Block.notify (b : Block) : Bool := b.flags.getLsbD 2
def Block.stopOnError (b : Block) : Bool := b.flags.getLsbD 3
def Block.addressForm (b : Block) : Bool := b.flags.getLsbD 4
def Block.platformAccess (b : Block) : Bool := b.flags.getLsbD 5

def Block.count (b : Block) : Nat := b.countLess1.toNat + 1

/-- Second domain e: bits 0 to 14 of bytes 6 and 7 (R136). -/
def Block.domainE (b : Block) : DomainNo := b.second &&& 0x7FFF#16

/-- Rights: bit 15 of bytes 6 and 7 (R136). -/
def Block.rights (b : Block) : Rights := if b.second.getLsbD 15 then .readWrite else .read

/-- The step kind a block's kind code names (Table 7-6); none for any other code (R121 test 1). -/
def Block.step (b : Block) : Option StepKind :=
  if b.kindCode = 1 then some (.assign b.domain b.platformAccess b.second)
  else if b.kindCode = 2 then some (.release b.domain)
  else if b.kindCode = 3 then some (.share b.domain b.domainE b.rights)
  else if b.kindCode = 4 then some (.unshare b.domain b.domainE)
  else if b.kindCode = 5 then some (.transfer b.domain b.domainE)
  else if b.kindCode = 6 then some (.setAttr b.domain b.platformAccess b.second)
  else none

/-- An address that is a multiple of `n` below 2^52. -/
def alignedAddr (n : Nat) (a : Quad) : Bool := decide (a.toNat % n = 0) && decide (a.toNat < 2 ^ 52)

/-- The block's arguments and status address pass tests 1 to 3 of R121. -/
def Block.firstTestsOk (b : Block) : Bool :=
  match b.step with
  | none => false
  | some k => k.argsOk && (!b.postStatus || alignedAddr 16 b.statusAddr)

/-- The validation of a fetched block (R121): its first granule index, or the reason of the first test not
met. -/
def Block.validate (b : Block) (p : PolicyCopy) : Except FailReason Nat :=
  if b.firstTestsOk && alignedAddr 32 b.nextAddr then
    match p.rangeFirst (if b.addressForm then .address else .index) b.first.toNat b.count with
    | some i => .ok i
    | none => .error .outOfRange
  else .error .badArgument

/-- A bad block whose status record is posted: POST_STATUS is set and tests 1 to 3 were passed (R122; log
entry 29). -/
def Block.postsWhenBad (b : Block) : Bool := b.postStatus && b.firstTestsOk

end Sys2Proof.Machine
end

