-- ==== Sys2Proof/Machine/Chains.lean ====
section
/-! DEFINITION. The chain channels' shared operations: memory requests, coming to rest, executing, completing
and posting a block, and the loss of the fetch link (chapter 7). -/

namespace Sys2Proof.Machine

/-! ### Memory requests (R117, R118) -/

/-- Form a channel's next memory tag, hand the request to its fetch link and start the memory timer. -/
def State.sendMem (s : State) (c : ChannelId) (kind : MemKind) (msg : Byte → OutMsg) : State :=
  let tag : Byte := BitVec.ofNat 8 (128 * c.val + (s.chan c).sequence)
  let request : MemRequest := { kind := kind, tag := tag, expiry := s.expiryAfter s.memoryTimeout }
  (s.hand (s.chan c).fetchLink (msg tag)).updChan c fun k =>
    { k with memRequest := some request, sequence := wrapInc 128 k.sequence }

/-- Enter FETCHING at the block address (R120). -/
def State.fetchBlock (s : State) (c : ChannelId) : State :=
  let t := s.updChan c fun k => { k with state := .fetching, posting := .none }
  t.sendMem c .read fun tag => .memRead tag (t.chan c).blockAddr

/-- Hand a write of POSTING (R126). -/
def State.postWrite (s : State) (c : ChannelId) (stage : PostStage) (address : Quad)
    (data : List Byte) : State :=
  (s.updChan c fun k => { k with state := .posting, posting := stage }).sendMem c .write
    fun tag => .memWrite tag address data

/-! ### Coming to rest (R132) -/

/-- CHAIN0_END or CHAIN1_END. -/
def chainEnd (c : ChannelId) : Status := if c = 0 then .chain0End else .chain1End

/-- The cause stores a Q1 CHAIN_FAULT record (R132). -/
def ChainCause.isFault : ChainCause → Bool
  | .fetchTimeout | .writeTimeout | .linkLost | .badBlock => true
  | .normalEnd | .stoppedByRequest | .stoppedByBlock | .stepErrorStop | .cancelled => false

/-- The channel at rest in a state with a cause, at its block address and a granule offset. -/
def Channel.atRest (k : Channel) (st : ChannelState) (cause : ChainCause) (offset : Nat) : Channel :=
  { k with
    state := st, stopRequested := false, errorStop := false, linkLost := false, memRequest := none
    posting := .none
    termination := some { cause := cause, block := k.blockAddr, offset := offset } }

/-- Enter IDLE or STOPPED: termination status, CHAINn_END, and a CHAIN_FAULT record for its causes. -/
def State.restChannel (s : State) (c : ChannelId) (st : ChannelState) (cause : ChainCause)
    (offset : Nat) : State :=
  let t := (s.updChan c fun k => k.atRest st cause offset).raise (chainEnd c)
  if cause.isFault then
    t.report .chainFault (some (s.chan c).fetchLink) none none (.chain cause)
  else t

/-- The offset reached of LINK_LOST and of a stop: the next offset when a block is held, otherwise 0. -/
def Channel.offsetReached (k : Channel) : Nat := if k.block.isSome then k.nextOffset else 0

/-! ### Posting (R126, R127, R137) -/

/-- The status record image (Table 7-7). -/
def statusBytes (result : Byte) (c : ChannelId) (done failed : Nat)
    (first : Option (Nat × FailReason)) : List Byte :=
  let reason : Byte := match first with
    | some (_, r) => reasonCode r
    | none => 0
  let offset : Nat := match first with
    | some (o, _) => o
    | none => 4294967295
  [result, reason, BitVec.ofNat 8 c.val, 0] ++ bytes4 done ++ bytes4 failed ++ bytes4 offset

/-- The status record of a completed block: DONE or PARTIAL with its counts (R124, R137). -/
def Channel.statusRecord (k : Channel) (c : ChannelId) : List Byte :=
  statusBytes (if k.failed = 0 then 0 else 1) c k.done k.failed k.firstFailed

/-- The status record of a bad block: REJECTED, no counts, no failed offset (R122, R137). -/
def rejectedRecord (c : ChannelId) (r : FailReason) : List Byte :=
  [2, reasonCode r, BitVec.ofNat 8 c.val, 0] ++ bytes4 0 ++ bytes4 0 ++ bytes4 4294967295

/-- A valid block leaves POSTING (R127). -/
def State.leavePosting (s : State) (c : ChannelId) (b : Block) : State :=
  if b.nextAddr = 0 then s.restChannel c .idle .normalEnd (s.chan c).rangeCount
  else
    let t := s.updChan c fun k => { k with blockAddr := b.nextAddr, block := none }
    if (s.chan c).errorStop then t.restChannel c .stopped .stepErrorStop 0
    else if (s.chan c).stopRequested then t.restChannel c .stopped .stoppedByRequest 0
    else if b.stopAfter then t.restChannel c .stopped .stoppedByBlock 0
    else t.fetchBlock c

/-- The second write of POSTING, when it is due (R126, item 2). -/
def State.postNotify (s : State) (c : ChannelId) (b : Block) : State :=
  match (s.chan c).notifyAddr with
  | some a =>
    if b.notify || b.nextAddr == 0 then s.postWrite c .notify a (bytes8 (s.chan c).notifyValue)
    else s.leavePosting c b
  | none => s.leavePosting c b

/-- A valid block enters POSTING (R126). -/
def State.enterPosting (s : State) (c : ChannelId) (b : Block) : State :=
  if b.postStatus then s.postWrite c .status b.statusAddr ((s.chan c).statusRecord c)
  else (s.updChan c fun k => { k with state := .posting }).postNotify c b

/-! ### Executing (R123 to R125, R131) -/

/-- The COMMAND_FAILURE record of a completed block with failures (R124). -/
def State.blockFailure (s : State) (c : ChannelId) (b : Block) : State :=
  match (s.chan c).firstFailed with
  | some (o, r) =>
    s.report .commandFailure (some (s.chan c).fetchLink) (some ((s.chan c).rangeFirst + o))
      (some b.domain) (.failure r)
  | none => s

/-- An EXECUTING channel with no step in a fence entry: its block completes, or it comes to rest for a loss of
its link, an error stop or a stop, in that order (R124, R125, R131). Otherwise it goes on. -/
def State.settleChannel (s : State) (c : ChannelId) : State :=
  let k := s.chan c
  match k.state, k.block with
  | .executing, some b =>
    if k.inFence ≠ 0 then s
    else if k.nextOffset = k.rangeCount then
      let t := s.blockFailure c b
      if k.linkLost then t.restChannel c .idle .linkLost k.nextOffset else t.enterPosting c b
    else if k.linkLost then s.restChannel c .idle .linkLost k.nextOffset
    else if k.errorStop then s.restChannel c .stopped .stepErrorStop k.nextOffset
    else if k.stopRequested then s.restChannel c .stopped .stoppedByRequest k.nextOffset
    else s
  | _, _ => s

/-- The lowest failed offset and its reason after a failure (R93, R123). -/
def lowestFailure (held : Option (Nat × FailReason)) (offset : Nat) (r : FailReason) :
    Option (Nat × FailReason) :=
  match held with
  | none => some (offset, r)
  | some (o, q) => if offset < o then some (offset, r) else some (o, q)

/-- Count a result for the held block; a failure under STOP_ON_ERROR sets error stop (R123, R125). -/
def Channel.countResult (k : Channel) (offset : Nat) : Option FailReason → Channel
  | none => { k with done := k.done + 1 }
  | some r =>
    let stop := k.state == .executing && k.block.any Block.stopOnError
    { k with
      failed := k.failed + 1, firstFailed := lowestFailure k.firstFailed offset r
      errorStop := k.errorStop || stop }

/-- The channel's fetch link leaves ACTIVE (R131). In IDLE nothing changes (log entry 32). -/
def State.chainLinkLost (s : State) (c : ChannelId) : State :=
  let k := s.chan c
  match k.state with
  | .idle => s
  | .fetching | .posting | .stopped => s.restChannel c .idle .linkLost k.offsetReached
  | .executing => (s.updChan c fun k => { k with linkLost := true }).settleChannel c

/-- The channels whose fetch link is `l` act on its leaving ACTIVE (R131). -/
def State.chainsLinkLost (s : State) (l : LinkId) : State :=
  let step (t : State) (c : ChannelId) : State :=
    if (t.chan c).fetchLink = l then t.chainLinkLost c else t
  [(0 : ChannelId), 1].foldl step s

/-! ### Taking a fetched block (R121, R122) -/

/-- A validated block is taken (R121). -/
def Channel.takeValid (k : Channel) (b : Block) (first : Nat) : Channel :=
  { k with
    block := some b, rangeFirst := first, rangeCount := b.count, nextOffset := 0
    done := 0, failed := 0, firstFailed := none }

/-- The 32 bytes of a fetch are decoded and validated (R120 to R122). A MEM_READ that the path has not sent when its
MEM_DATA is taken stays in it and is sent in its turn (DEDUCED, log entry 43). A bad block is not taken, so the channel
keeps the block counts of the block before it, which CHAIN_PROGRESS goes on showing; REJECTED with done and failed counts
of 0, no offset and its reason stands in the status record alone (DEDUCED, log entry 48). -/
def State.takeBlock (s : State) (c : ChannelId) (data : Vector Byte 32) : State :=
  let b := blockOf data
  let t := s.updChan c fun k => { k with memRequest := none }
  match b.validate s.active with
  | .ok first =>
    let u := t.updChan c fun k => k.takeValid b first
    if (s.chan c).stopRequested then u.restChannel c .stopped .stoppedByRequest 0
    else u.updChan c fun k => { k with state := .executing }
  | .error r =>
    if b.postsWhenBad then t.postWrite c .badStatus b.statusAddr (rejectedRecord c r)
    else t.restChannel c .idle .badBlock 0

/-- The MEM_DONE of a posting write is taken (R126, R122). A MEM_WRITE that the path has not sent by then stays in it and
is sent in its turn, before the next request of the channel (DEDUCED, log entry 43). -/
def State.takeDone (s : State) (c : ChannelId) : State :=
  let t := s.updChan c fun k => { k with memRequest := none }
  match (s.chan c).posting, (s.chan c).block with
  | .badStatus, _ => t.restChannel c .idle .badBlock 0
  | .status, some b => t.postNotify c b
  | .notify, some b => t.leavePosting c b
  | _, _ => t

/-- The channel whose outstanding request a response answers (R117). R117 asks for the request to be outstanding, which
it is from its handing on, not for it to have been sent (log entry 43). -/
def State.answered (s : State) (l : LinkId) (kind : MemKind) (tag : Byte) : Option ChannelId :=
  [(0 : ChannelId), 1].find? fun c =>
    (s.chan c).fetchLink == l &&
      match (s.chan c).memRequest with
      | some m => m.kind == kind && m.tag == tag
      | none => false

/-- The memory timer of a channel expires (R120, R126). A MEM_READ or MEM_WRITE that the path has not sent by then
stays in it and is sent in its turn (DEDUCED, log entry 43). -/
def State.memoryTimeoutOf (s : State) (c : ChannelId) : State :=
  match (s.chan c).state with
  | .fetching => s.restChannel c .idle .fetchTimeout 0
  | .posting =>
    s.restChannel c .idle .writeTimeout
      (if (s.chan c).posting == .badStatus then 0 else (s.chan c).rangeCount)
  | .idle | .executing | .stopped => s

end Sys2Proof.Machine
end

