-- ==== Sys2Proof/Machine/Links.lean ====
section
/-! DEFINITION. What happens to a link's state in every block: flushes (R83), the loss of a link (R87, R67,
R17, R131, R143), faults (R180), error counters (R185), holding (R179), and the drains and the commit flush
that such events complete (R80, R144). -/

namespace Sys2Proof.Machine

/-! ### Flush and commit completion -/

/-- A flush becomes due for a link (R83). With the flag clear, FLUSH_ALL goes to the tail of the path, also behind one
still unsent whose FLUSH_ACK was already taken (DEDUCED, log entry 45). -/
def State.flushDue (s : State) (l : LinkId) : State :=
  if (s.link l).flushOutstanding then s
  else s.updLink l fun k =>
    { k with
      outbound := k.outbound ++ [.flushAll], flushOutstanding := true
      flushTimer := some (s.expiryAfter s.revokeTimeout) }

/-- The commit flush is complete when the phase is FLUSHING, the set is empty and no old-epoch check is open
(R144). -/
def State.completeCommit (s : State) : State :=
  if s.phase = .flushing ∧ s.flushSet = 0 ∧ s.oldEpochCount = 0 then
    ({ s with phase := .idle }).raise .commitDone
  else s

/-- The drains and the commit flush that this event completed (R80, R144). -/
def State.settle (s : State) : State := s.completeDrains.completeCommit

/-! ### The loss of a link -/

/-- Discard the open checks of a link (R67, R64, R65). -/
def State.discardChecks (s : State) (l : LinkId) : State :=
  let gone := s.openChecks.filter fun e => e.link == l
  let stale := gone.filter OpenCheck.stale
  let t := { s with
    openChecks := s.openChecks.filter fun e => e.link != l
    oldEpochCount := s.oldEpochCount - gone.countP OpenCheck.oldEpoch
    store := { s.store with verdictQ := s.store.verdictQ.filter fun r => r.1 != l } }
  stale.foldl (fun u e => u.lowerStale e.granule) t

/-- A read whose request was removed (R17). -/
def SoftRead.killed (r : SoftRead) : SoftRead := { r with live := false }

/-- Remove the software requests of a link. A read of a removed head stays queued and its result is discarded;
otherwise the new head's read is placed (R17; log entry 17). -/
def State.dropSoftware (s : State) (l : LinkId) : State :=
  let headGone : Bool := s.store.softQueue.head?.any fun r => r.link == l
  let t := { s with store := { s.store with
    softQueue := s.store.softQueue.filter fun r => r.link != l
    softRead := if headGone then s.store.softRead.map SoftRead.killed else s.store.softRead } }
  t.placeSoftRead

/-- The end of a link's session: its tags are freed, its unsent messages other than `kept` are lost, its
announce timer stops (R173, R182, R184). -/
def State.endSession (s : State) (l : LinkId) (kept : List OutMsg) : State :=
  let mark (e : DirectEntry) : DirectEntry := if e.link = l then { e with inSession := false } else e
  let t := { s with directQueue := s.directQueue.map mark }
  t.updLink l fun k => { k with outbound := kept, held := [], announceTimer := none }

/-- Remove a link from every holder set, every pending holder set and the commit flush set, and clear its flush
(R85, R87, R143). -/
def State.withdrawLink (s : State) (l : LinkId) : State :=
  let t := s.dropAllHolders l
  let u := { t with
    fence := t.fence.map fun (e : FenceEntry) => e.dropPending l
    flushSet := LinkSet.del t.flushSet l }
  u.updLink l fun k => { k with flushOutstanding := false, flushTimer := none }

/-- Everything the loss of a link does beside its new state (R173, R180). -/
def State.linkLeaves (s : State) (l : LinkId) (kept : List OutMsg) : State :=
  ((((s.withdrawLink l).discardChecks l).dropSoftware l).chainsLinkLost l).endSession l kept

/-- A session is in progress (R182). -/
def LinkState.inSession : LinkState → Bool
  | .announcing | .admitWait | .active | .held => true
  | .down | .training | .faulted | .refused => false

/-- A link is faulted: FAULTED with the cause, the effects of a loss, a Q1 LINK_FAULT record and LINK_EVENT
(R180; log entry 13). A fault is not repeated. -/
def State.faultCore (s : State) (l : LinkId) (cause : FaultCause) (counter : Option CounterType)
    (granule : Option Nat) : State :=
  if (s.link l).state.inSession then
    let t := s.updLink l fun k => { k with state := .faulted, lastFault := some cause }
    ((t.linkLeaves l []).report .linkFault (some l) granule none (.fault cause counter)).raise
      .linkEvent
  else s

/-- A single fault with what it completes. -/
def State.faultLink (s : State) (l : LinkId) (cause : FaultCause) (counter : Option CounterType) : State :=
  (s.faultCore l cause counter none).settle

/-- The refusing ANNOUNCE_REPLY is handed and the link goes to REFUSED (R175, R184; log entry 10). -/
def State.refuseLink (s : State) (l : LinkId) (r : AnnounceResult) : State :=
  let t := s.updLink l fun k => { k with state := .refused, lastReply := some r }
  (t.linkLeaves l [.announceReply r none]).settle

/-- A link goes from ACTIVE to HELD (R179). -/
def State.holdLink (s : State) (l : LinkId) : State :=
  ((s.updLink l fun k => { k with state := .held }).flushDue l).chainsLinkLost l

/-! ### Error counters (R185) -/

/-- The bit of a counter type in ERROR_MODE and FAULT_MASK (R186). -/
def counterBit : CounterType → Nat
  | .frameCheck => 0 | .malformed => 1 | .unexpected => 2

def Counters.get (c : Counters) : CounterType → Counter
  | .frameCheck => c.frameCheck
  | .malformed => c.malformed
  | .unexpected => c.unexpected

def Counters.set (c : Counters) (t : CounterType) (v : Counter) : Counters :=
  match t with
  | .frameCheck => { c with frameCheck := v }
  | .malformed => { c with malformed := v }
  | .unexpected => { c with unexpected := v }

/-- The value after an advance: from 255 HOLD stays, WRAP goes to 0. -/
def counterNext (wrap : Bool) (n : Nat) : Nat := if n < 255 then n + 1 else if wrap then 0 else n

/-- Advance a counter of a link; at a reach set its flag, raise LINK_EVENT, and fault the link when the
counter's type is in the fault mask (R185). -/
def State.countError (s : State) (l : LinkId) (ty : CounterType) : State :=
  let k := s.link l
  let old := (k.counters.get ty).value
  let new := counterNext (k.errorMode.getLsbD (counterBit ty)) old
  let reach := new ≠ old ∧ new = s.errorThreshold
  let c : Counter := { value := new, reached := decide reach || (k.counters.get ty).reached }
  let t := s.updLink l fun k => { k with counters := k.counters.set ty c }
  if reach then
    let u := t.raise .linkEvent
    if k.faultMask.getLsbD (counterBit ty) then u.faultLink l .threshold (some ty) else u
  else t

/-! ### Refusals and the stages of a frame (R181 to R184) -/

/-- Hand a REFUSE (R183). -/
def State.refuse (s : State) (l : LinkId) (kind : TagKind) (tag : Nat) (r : RefuseReason) : State :=
  s.hand l (.refuse { kind := kind, tag := tag } r)

/-- A REFUSE of the tag tests, then the MALFORMED counter (R182). -/
def State.refuseTag (s : State) (l : LinkId) (kind : TagKind) (tag : Nat) (r : RefuseReason) : State :=
  (s.refuse l kind tag r).countError l .malformed

/-- The frame may call for a reply or a REFUSE (R184). It is judged by its kind alone, before the state of the link
is: an ANNOUNCE past ANNOUNCING, or a CHECK or management message in ANNOUNCING, may call for one, although Table 11-2
then discards it with none. The same frame given as FRAME_REJECTED MISPLACED does not name its kind and calls for none
(DEDUCED, log entry 12). -/
def repliesTo : Instr → Bool
  | .drop _ _ | .revokeAck _ _ _ | .flushAck _ | .memData _ _ _
  | .memDone _ _ => false
  | .frameRejected _ (.undecodable (some _)) => true
  | .frameRejected _ _ => false
  | _ => true

/-- The frame is a CHECK. -/
def isCheck : Instr → Bool
  | .check _ _ => true
  | _ => false

/-- The frame has to wait for a reply place or a VERDICT place (R184). -/
def State.mustHold (s : State) (l : LinkId) (frame : Instr) : Bool :=
  (repliesTo frame && decide (Config.replyPlaces ≤ s.replyPlacesUsed l)) ||
    (isCheck frame && decide (Config.verdictPlaces ≤ s.verdictPlacesUsed l))

/-- A link delivers a frame whose taking is `take`: outside a session it is discarded; behind held frames, or
for want of a place, it is held; otherwise it is taken in this event (R181, R184; log entry 12). -/
def State.deliver (s : State) (l : LinkId) (frame : Instr) (take : State → State) : State :=
  if (s.link l).state.inSession then
    if !(s.link l).held.isEmpty || s.mustHold l frame then
      s.updLink l fun k => { k with held := k.held ++ [frame] }
    else (take s).closeEvent
  else s

/-- The authority test (R40, R41): the state after it, and whether the message passes. A watched element writes
the watched match report; a refusal hands REFUSE NOT_PLATFORM and stores AUTH_REFUSED. A START taken in OPERATING is
no exception: the report of its authority test is written, and WATCH_HIT raised, though START is then refused
NOT_STARTUP (DEDUCED, log entry 46). -/
def State.authority (s : State) (h : MgmtHeader) : State × Bool :=
  if s.mode = .startup ∧ h.link = s.leadLink then (s, true)
  else
    let c := s.active.classify h.link h.source
    let watched (t : State) : State := match c.watched with
      | none => t
      | some n => t.writeWatch
          { element := n, message := .management, link := h.link, source := h.source
            domain := c.result.domain?, placement := .none }
    let refused (d : Option DomainNo) (a : AuthDetail) : State × Bool :=
      (((watched s).refuse h.link .management h.tag .notPlatform).report .authRefused (some h.link)
        none d (.auth a), false)
    match c.result with
    | .domain d => if d = 0 then (watched s, true) else refused (some d) .tenant
    | .block => refused none .blocked
    | .unclassified => refused none .unclassified

/-- The stages of a management message from the link state on; `carryOut` is its effect with its reply (R181,
stages 3 to 6; R182). -/
def State.takeManaged (s : State) (h : MgmtHeader) (carryOut : State → State) : State :=
  match (s.link h.link).state with
  | .announcing => s.countError h.link .malformed
  | .admitWait | .active | .held =>
    if 15 < h.tag then s.refuseTag h.link .management h.tag .malformed
    else if s.tagOutstanding h.link h.tag then s.refuseTag h.link .management h.tag .overLimit
    else if s.isActive h.link then
      match s.authority h with
      | (t, true) => carryOut t
      | (t, false) => t
    else s.refuse h.link .management h.tag .notAdmitted
  | .down | .training | .faulted | .refused => s

/-- A CONTROL operation answered in its event by CONTROL_REPLY after its effect. -/
def State.takeControl (s : State) (h : MgmtHeader) (effect : State → State × ControlOutcome) : State :=
  s.takeManaged h fun t => (effect t).1.hand h.link (.controlReply h.tag (effect t).2)

end Sys2Proof.Machine
end

