-- ==== Sys2Proof/Machine/Steps.lean ====
section
/-! DEFINITION. Granule steps: what each source offers, the tests at the command read, the owned counts at the
final write, and the results handed back; the walks of the retire scanner and the sweep (chapters 5, 6, 9). -/

namespace Sys2Proof.Machine

/-! ### The retire scanner (R110 to R113) -/

/-- The retire ends when the scanner has passed the end, holds no step and has none in a fence entry (R113). -/
def State.retireTest (s : State) : State :=
  let r := s.retire
  if r.running ∧ r.position = none ∧ r.held = none ∧ r.stepsInFence = 0 then
    let n := (s.domainEntry r.domain).owned
    let t := if n = 0 then s else s.report .countResidue none none (some r.domain) (.count n)
    ({ t.setDomain r.domain { state := .absent, owned := 0 } with
        retire := RetireScanner.reset }).raise .retireDone
  else s

/-- Take the scanner to a position: its read is placed, or the end is passed and the retire may end (R110). -/
def State.scannerAt (s : State) (p : Option (Nat × Nat)) : State :=
  match p with
  | some (w, o) =>
    { s with
      retire := { s.retire with position := some (w, o) }
      store := { s.store with retireQ := some (s.active.positionIndex w o) } }
  | none => ({ s with retire := { s.retire with position := none } }).retireTest

/-- The scanner moves to its next position (R29, R110). -/
def State.scannerMoves (s : State) : State :=
  match s.retire.position with
  | some (w, o) => s.scannerAt (s.active.nextPosition w o)
  | none => s

/-- A retire starts for domain `d` (R109, R110). -/
def State.startRetire (s : State) (d : DomainNo) : State :=
  let t := s.setDomain d { s.domainEntry d with state := .retiring }
  ({ t with retire := { RetireScanner.reset with running := true, domain := d } }).scannerAt
    (t.active.firstTagged 0)

/-! ### The sweep (R150, R151, R153) -/

/-- The sweep's next position, and whether the move passed the end of the sequence (R151). -/
def State.sweepNext (s : State) : (Nat × Nat) × Bool :=
  match s.active.nextPosition s.sweep.window s.sweep.offset with
  | some p => (p, false)
  | none => ((s.active.firstTagged 0).getD (0, 0), true)

/-- The sweep moves (R29, R151). -/
def State.sweepMoves (s : State) : State :=
  let p := s.sweepNext
  { s with sweep := { s.sweep with
    window := p.1.1, offset := p.1.2
    passes := if p.2 then wrapInc 4294967296 s.sweep.passes else s.sweep.passes } }

/-! ### What the sources offer (R94, R123, R153) -/

/-- The next offset of the head direct command that has no result and no step yet: its index and kind. -/
def State.directNext (s : State) : Option (Nat × StepKind) :=
  match s.directQueue with
  | e :: _ => if e.nextOffset < e.count then some (e.first + e.nextOffset, e.kind) else none
  | [] => none

/-- The channel may offer steps: EXECUTING with no stop, error stop or link loss pending (R123). -/
def Channel.offers (k : Channel) : Bool :=
  k.state == .executing && !k.stopRequested && !k.errorStop && !k.linkLost

/-- A channel's next granule and step kind. -/
def State.chainNext (s : State) (c : ChannelId) : Option (Nat × StepKind) :=
  let k := s.chan c
  match k.block with
  | some b =>
    match b.step with
    | some kind =>
      if k.offers ∧ k.nextOffset < k.rangeCount then some (k.rangeFirst + k.nextOffset, kind) else none
    | none => none
  | none => none

/-- An index of a direct or chain command is offered only below the capacity (R94). -/
def State.inStore (s : State) (o : Option (Nat × StepKind)) : Option (Nat × StepKind) :=
  o.filter fun p => decide (p.1 < s.capacity)

/-- The step a source offers. -/
def State.offer (s : State) : StepSource → Option (Nat × StepKind)
  | .direct => s.inStore s.directNext
  | .chain c => s.inStore (s.chainNext c)
  | .retire => s.retire.held
  | .sweep =>
    match s.sweep.held with
    | some g => some (g, .quarantine)
    | none => s.sweep.requests.head?.map fun g => (g, .quarantine)

/-- The step of a ready source: offered, and its granule named by no fence entry (R94, R96). -/
def State.readyStep (s : State) (src : StepSource) : Option (Nat × StepKind) :=
  (s.offer src).filter fun p => !s.fenced p.1

/-- The source after another in the cyclic order of R95. -/
def StepSource.next : StepSource → StepSource
  | .direct => .chain 0
  | .chain c => if c = 0 then .chain 1 else .retire
  | .retire => .sweep
  | .sweep => .direct

/-- The five sources in cyclic order from one of them (R95). -/
def StepSource.cycle (p : StepSource) : List StepSource :=
  [p, p.next, p.next.next, p.next.next.next, p.next.next.next.next]

/-- The source that receives the next entry, with its step: the first ready one from the pointer on (R95). -/
def State.chosen (s : State) : Option (StepSource × Nat × StepKind) :=
  s.sourcePtr.cycle.findSome? fun src => (s.readyStep src).map fun p => (src, p.1, p.2)

/-- A new fence entry (R75). -/
def newFence (g : Nat) (src : StepSource) (kind : StepKind) : FenceEntry :=
  { granule := g, source := src, kind := kind, phase := .fencing, prior := none, genRead := none
    consulted := false, pending := 0, staleCount := 0, timer := none }

/-- The head direct command gives its next offset a step. -/
def DirectEntry.advance (e : DirectEntry) : DirectEntry :=
  { e with nextOffset := e.nextOffset + 1, inFence := e.inFence + 1 }

/-- The source's next step moves on after it was given an entry (R92, R110, R123, R153). -/
def State.sourceMovesOn (s : State) : StepSource → State
  | .direct =>
    match s.directQueue with
    | e :: rest => { s with directQueue := e.advance :: rest }
    | [] => s
  | .chain c => s.updChan c fun k => { k with nextOffset := k.nextOffset + 1, inFence := k.inFence + 1 }
  | .retire =>
    ({ s with retire := { s.retire with
      held := none, stepsInFence := s.retire.stepsInFence + 1 } }).scannerMoves
  | .sweep =>
    match s.sweep.held with
    | some _ => ({ s with sweep := { s.sweep with held := none } }).sweepMoves
    | none => { s with sweep := { s.sweep with requests := s.sweep.requests.tail } }

/-- Give a fence entry to a step (R75, R95). -/
def State.allocate (s : State) (src : StepSource) (g : Nat) (kind : StepKind) : State :=
  let t := (({ s with fence := insertFence (newFence g src kind) s.fence }).placeCommand g .read)
  { t.sourceMovesOn src with sourcePtr := src.next }

/-! ### The tests at the command read (R97 to R104) -/

/-- The record is OWNED or SHARED. -/
def TagRecord.isHeld (r : TagRecord) : Bool := r.state == .owned || r.state == .shared

/-- NOT_OWNED and WRONG_OWNER, then the tests that follow them. -/
def ownerTests (r : TagRecord) (d : DomainNo) (rest : Option FailReason) : Option FailReason :=
  if !r.isHeld then some .notOwned else if r.owner ≠ d then some .wrongOwner else rest

/-- Every domain of a REBUILD's content is ACTIVE (R104). -/
def State.contentActive (s : State) (c : RebuildContent) : Bool :=
  match c.state with
  | .owned | .shared => s.domainActive c.owner && c.sharers.all fun x => s.domainActive x.1
  | .free | .fenced | .quarantined => true

/-- The tests of a kind on a record that passed the common tests (R98 to R104). -/
def State.kindTests (s : State) (kind : StepKind) (r : TagRecord) : Option FailReason :=
  match kind with
  | .assign d _ _ =>
    if !s.domainActive d then some .domainState
    else if r.state ≠ .free then some .notFree else none
  | .release d => ownerTests r d none
  | .share d e _ =>
    if !s.domainActive e then some .domainState
    else ownerTests r d (if r.hasSharer e then some .alreadySharer
      else if r.slots.all slotPresent then some .shareFull else none)
  | .unshare d e => ownerTests r d (if r.hasSharer e then none else some .notSharer)
  | .transfer d e => if !s.domainActive e then some .domainState else ownerTests r d none
  | .setAttr d _ _ => ownerTests r d none
  | .rebuild c => if s.contentActive c then none else some .domainState
  | .quarantine => none

/-- The precondition of a step other than a quarantine step, with the common tests of Table 6-4 first (R97). -/
def State.stepFails (s : State) (kind : StepKind) (rec : ReadRecord) : Option FailReason :=
  match kind, rec with
  | .rebuild c, _ => s.kindTests (.rebuild c) rec.fields
  | _, .unverifiable _ => some .integrity
  | k, .verified r =>
    match r.state with
    | .fenced => some .granuleFenced
    | .quarantined => some .integrity
    | .free | .owned | .shared => s.kindTests k r

/-! ### Owned counts (R107, R155) -/

/-- A domain's owned count falls by 1; a count at 0 stays. -/
def State.lowerOwned (s : State) (d : DomainNo) : State :=
  let e := s.domainEntry d
  s.setDomain d { e with owned := e.owned - 1 }

/-- A domain's owned count advances; a count at the capacity stays. -/
def State.raiseOwned (s : State) (d : DomainNo) : State :=
  let e := s.domainEntry d
  s.setDomain d { e with owned := satInc s.capacity e.owned }

/-- The counted owner of the prior record, when it verified (R107). -/
def ReadRecord.countedOwner : ReadRecord → Option DomainNo
  | .verified r => r.countedOwner
  | .unverifiable _ => none

/-- The owned counts at a final write (R107; log entry 8), and at that of a quarantine step (R155). -/
def State.adjustOwned (s : State) (kind : StepKind) (prior : ReadRecord) (written : TagRecord) : State :=
  match kind with
  | .quarantine => if prior.fields.owner.toNat ≤ 1023 then s.lowerOwned prior.fields.owner else s
  | _ =>
    if prior.countedOwner = written.countedOwner then s
    else
      let t := match prior.countedOwner with
        | some d => s.lowerOwned d
        | none => s
      match written.countedOwner with
      | some d => t.raiseOwned d
      | none => t

/-! ### Results (R92, R93, R112, R123) -/

/-- Count a result for a direct command (R93). -/
def DirectEntry.countResult (e : DirectEntry) (offset : Nat) : Option FailReason → DirectEntry
  | none => { e with done := e.done + 1 }
  | some r => { e with failed := e.failed + 1, firstFailed := lowestFailure e.firstFailed offset r }

/-- The TAGCMD_REPLY of a finished direct command (Table 6-3). -/
def DirectEntry.reply (e : DirectEntry) : CommandReply :=
  { tag := e.tag, result := if e.failed = 0 then .done else .partialDone, done := e.done
    failed := e.failed, firstOffset := e.firstFailed.map Prod.fst
    firstReason := e.firstFailed.map Prod.snd }

/-- The last result of the head command: the reply is handed or dropped, and COMMAND_FAILURE stored (R93,
R182). -/
def State.finishDirect (s : State) (e : DirectEntry) : State :=
  let t := if s.isActive e.link && e.inSession then s.hand e.link (.commandReply e.reply) else s
  match e.firstFailed with
  | some (o, r) =>
    t.report .commandFailure (some e.link) (some (e.first + o)) e.kind.domainD (.failure r)
  | none => t

/-- The head direct command, its result counted, stays at the head or leaves the queue (R92). -/
def State.directResult (s : State) (e : DirectEntry) (rest : List DirectEntry) : State :=
  if e.done + e.failed = e.count then ({ s with directQueue := rest }).finishDirect e
  else { s with directQueue := e :: rest }

/-- A step finishes: its result is handed to its source (R81, R93, R112, R123, R155). -/
def State.stepResult (s : State) (src : StepSource) (g : Nat) (r : Option FailReason) : State :=
  match src with
  | .direct =>
    match s.directQueue with
    | e :: rest =>
      s.directResult ({ e with inFence := e.inFence - 1 }.countResult (g - e.first) r) rest
    | [] => s
  | .chain c =>
    (s.updChan c fun k => { k with inFence := k.inFence - 1 }.countResult (g - k.rangeFirst) r).settleChannel
      c
  | .retire =>
    let t := { s with retire := { s.retire with stepsInFence := s.retire.stepsInFence - 1 } }
    let u := match r with
      | some q => t.report .commandFailure none (some g) (some s.retire.domain) (.failure q)
      | none => t
    u.retireTest
  | .sweep => s

end Sys2Proof.Machine
end

