-- ==== Sys2Proof/Machine/Resets.lean ====
section
/-! DEFINITION. The two resets and the time base (chapter 12 and the reset tables of every chapter). -/

namespace Sys2Proof.Machine

/-- The lead link a strap names: the first pin is the low bit (R189). -/
def strapLink (strap : BitVec 2) : LinkId := strap.toFin

/-- POWER_ON_RESET: every block at its power-on values, the strap read, the time base 0 (R190, Table 12-1). -/
def execPowerOnReset (strap : BitVec 2) (s : State) : Host.Outcome State Fault Refusal :=
  .next { State.powerOn (strapLink strap) with pending := s.pending }

/-- A link after warm reset (Table 11-5, Table 5-4). -/
def Link.warm (k : Link) : Link :=
  { Link.reset with
    expectRole := k.expectRole, minRevision := k.minRevision, errorMode := k.errorMode
    faultMask := k.faultMask }

/-- The store after warm reset (Table 1-6). -/
def StoreState.warm (t : StoreState) : StoreState :=
  { StoreState.reset with geometry := t.geometry, tableValid := t.tableValid && !t.initRunning }

/-- The sweep after warm reset (Table 9-2). -/
def SweepState.warm (w : SweepState) : SweepState :=
  { SweepState.reset with
    enable := w.enable, pacerX := w.pacerX, pacerA := w.pacerA, pacerB := w.pacerB
    restart := w.restart }

/-- A queue with no record: put, get and fill 0 (R166, Table 10-5). -/
def ReportQueue.emptied {α : Type} (q : ReportQueue α) : ReportQueue α := { q with get := 0, records := [] }

/-- A domain's violation flag and count before any violation. -/
def Violation.none : Violation := { flag := false, count := 0 }

/-- A violation entry after warm reset: flag cleared, count kept (Table 10-5). -/
def Violation.warm (v : Violation) : Violation := { v with flag := false }

/-- The Report Unit after warm reset (Table 10-5). -/
def ReportState.warm (r : ReportState) : ReportState :=
  { r with
    q0 := { r.q0.emptied with lost := false }
    q1 := { r.q1.emptied with lost := false }
    violations := Table.mapListed Violation.none (fun _ v => v.warm) r.violations
    status := 0, notifyDue := 0 }

/-- The part after a warm reset that reads the strap as `lead` (R190, Table 12-1). -/
def State.warm (s : State) (lead : LinkId) : State :=
  { State.powerOn lead with
    timeBase := s.timeBase
    links := s.links.map Link.warm
    errorThreshold := s.errorThreshold
    shadow := s.shadow
    active := s.active
    epoch := s.epoch
    dram := s.dram
    store := s.store.warm
    revokeTimeout := s.revokeTimeout
    domains := s.domains
    memoryTimeout := s.memoryTimeout
    sweep := s.sweep.warm
    reports := s.reports.warm
    pending := s.pending }

/-- WARM_RESET (R190). -/
def execWarmReset (strap : BitVec 2) (s : State) : Host.Outcome State Fault Refusal :=
  .next (s.warm (strapLink strap))

/-- TIME_BASE_ADVANCE: the time base advances by one and goes from 2^48 − 1 to 0 (R190). -/
def execTimeBaseAdvance (s : State) : Host.Outcome State Fault Refusal :=
  .next { s with timeBase := s.timeBase + 1 }

end Sys2Proof.Machine
end

