-- ==== Sys2Proof/Machine/LinkEvents.lean ====
section
/-! DEFINITION. Link events, the announcement, rejected frames and the timers of a link (chapter 11). -/

namespace Sys2Proof.Machine

/-- LINK_SIGNAL_APPEARS: a DOWN link goes to TRAINING; counters, flags and announced values are reset (R174,
R187). -/
def execLinkSignalAppears (l : LinkId) (s : State) : Host.Outcome State Fault Refusal :=
  if (s.link l).state = .down then
    .next (s.updLink l fun k =>
      { k with state := .training, counters := Counters.zero, announced := none, lastReply := none })
  else .next s

/-- Start or restart a link's announce timer (R174, R175). -/
def State.startAnnounceTimer (s : State) (l : LinkId) : State :=
  s.updLink l fun k => { k with announceTimer := some (s.expiryAfter Config.announceInterval) }

/-- ALIGNMENT_COMPLETES: a TRAINING link goes to ANNOUNCING, its session begins and its announce timer starts
(R174, R182, R187). -/
def execAlignmentCompletes (l : LinkId) (s : State) : Host.Outcome State Fault Refusal :=
  if (s.link l).state = .training then
    .next ((s.updLink l fun k =>
      { k with state := .announcing, sessionCount := wrapInc 65536 k.sessionCount }).startAnnounceTimer l)
  else .next s

/-- The signal of a link is lost (R173). A refusing ANNOUNCE_REPLY that a REFUSED link has not sent is lost with its
signal (DEDUCED, log entry 42). -/
def State.loseSignal (s : State) (l : LinkId) : State :=
  let inSession := (s.link l).state.inSession
  let t := s.updLink l fun k => { k with state := .down, outbound := [] }
  if inSession then (t.linkLeaves l []).settle else t

/-- LINK_SIGNAL_LOSS (R173). -/
def execLinkSignalLoss (l : LinkId) (s : State) : Host.Outcome State Fault Refusal :=
  .next (s.loseSignal l).closeEvent

/-- ANNOUNCE_TIMER_EXPIRY: the link is faulted ANNOUNCE_TIMEOUT (R176). -/
def execAnnounceTimerExpiry (l : LinkId) (s : State) : Host.Outcome State Fault Refusal :=
  if (s.link l).state = .announcing ∧ s.reached (s.link l).announceTimer then
    .next (s.faultLink l .announceTimeout none).closeEvent
  else .next s

/-- FLUSH_TIMER_EXPIRY: the link is faulted FLUSH_TIMEOUT (R86). -/
def execFlushTimerExpiry (l : LinkId) (s : State) : Host.Outcome State Fault Refusal :=
  if s.reached (s.link l).flushTimer then .next (s.faultLink l .flushTimeout none).closeEvent
  else .next s

/-! ### ANNOUNCE (R175) -/

/-- The seven bytes total 255 modulo 256. -/
def AnnounceSound (m : AnnounceMsg) : Bool :=
  m.role + m.revision + m.maxOpen + lowByte m.capacity + highByte m.capacity + m.cacheEmpty + m.sum ==
    (255 : Byte)

/-- The role a code names (R175). -/
def roleOfCode (b : Byte) : Option Role :=
  if b = 1 then some .socket else if b = 2 then some .ioRoot else none

/-- The role and revision an ANNOUNCE states, when the link accepts them (R175 test 2, R177). -/
def Link.acceptsRole (k : Link) (m : AnnounceMsg) : Option Role :=
  match roleOfCode m.role with
  | none => none
  | some r =>
    if (k.expectRole = none ∨ k.expectRole = some r) ∧ 1 ≤ m.revision.toNat ∧ m.revision.toNat ≤ 15 ∧
        k.minRevision ≤ m.revision.toNat then some r
    else none

/-- The maximum open checks as recorded (R175). -/
def recordedMaximum (b : Byte) : Nat := min (max b.toNat 1) 64

/-- An accepted link goes to ACTIVE or to ADMIT_WAIT (R175). -/
def State.acceptedState (s : State) (l : LinkId) : LinkState :=
  match s.mode with
  | .startup => if l = s.leadLink then .active else .admitWait
  | .operating => if (s.link l).admission then .active else .admitWait

/-- An ANNOUNCE is accepted (R175). -/
def State.acceptAnnounce (s : State) (l : LinkId) (m : AnnounceMsg) (r : Role) : State :=
  let values : Announced :=
    { role := r, revision := m.revision.toNat, maxOpen := recordedMaximum m.maxOpen
      capacity := m.capacity }
  (s.updLink l fun k =>
    { k with
      state := s.acceptedState l, announced := some values, announceTimer := none
      lastReply := some .accepted }).hand l (.announceReply .accepted (some values.maxOpen))

/-- An ANNOUNCE is not sound: BAD_SUM, the timer restarts, MALFORMED advances (R175 test 1). -/
def State.badSum (s : State) (l : LinkId) : State :=
  (((s.startAnnounceTimer l).updLink l fun k => { k with lastReply := some .badSum }).hand l
    (.announceReply .badSum none)).countError l .malformed

/-- An ANNOUNCE on a link in ANNOUNCING (R175); in the other states of a session it is MALFORMED (Table 11-2). -/
def State.takeAnnounce (s : State) (l : LinkId) (m : AnnounceMsg) : State :=
  match (s.link l).state with
  | .announcing =>
    if AnnounceSound m then
      match (s.link l).acceptsRole m with
      | none => s.refuseLink l .mismatch
      | some r => if m.cacheEmpty = 1 then s.acceptAnnounce l m r else s.refuseLink l .cacheNotEmpty
    else s.badSum l
  | .admitWait | .active | .held => s.countError l .malformed
  | .down | .training | .faulted | .refused => s

/-- ANNOUNCE (R175). -/
def execAnnounce (l : LinkId) (m : AnnounceMsg) (s : State) : Host.Outcome State Fault Refusal :=
  .next (s.deliver l (.announce l m) fun t => t.takeAnnounce l m)

/-! ### Rejected frames (R181, stages 1 to 3) -/

/-- Table 11-2 marks the message MALFORMED in the state: an ANNOUNCE outside ANNOUNCING, any other message
inside it. -/
def LinkState.misplaces (st : LinkState) (isAnnounce : Bool) : Bool :=
  match st with
  | .announcing => !isAnnounce
  | .admitWait | .active | .held => isAnnounce
  | .down | .training | .faulted | .refused => false

/-- A frame stopped at stage 1, 2 or 3 (R181). -/
def State.takeRejected (s : State) (l : LinkId) (why : FrameFault) : State :=
  match why with
  | .frameCheck => s.countError l .frameCheck
  | .undecodable none => s.countError l .malformed
  | .undecodable (some t) => s.refuseTag l t.kind t.tag .malformed
  | .misplaced isAnnounce =>
    if (s.link l).state.misplaces isAnnounce then s.countError l .malformed else s

/-- FRAME_REJECTED (R181). -/
def execFrameRejected (l : LinkId) (why : FrameFault) (s : State) : Host.Outcome State Fault Refusal :=
  .next (s.deliver l (.frameRejected l why) fun t => t.takeRejected l why)

end Sys2Proof.Machine
end

