-- ==== Sys2Proof/Machine/Verdicts.lean ====
section
/-! DEFINITION. The Verdict Engine: taking a CHECK, deciding it, issuing its VERDICT (chapter 4). -/

namespace Sys2Proof.Machine

/-! ### Taking a CHECK (R48, R51 to R54) -/

/-- Steps 5 and 6: the outcome of the window lookup; none when step 7 has to decide (R54). -/
def windowOutcome (d : DomainNo) (hit : Option (Nat × Window)) : Option CheckOutcome :=
  match hit with
  | none => some (.deny .unmapped)
  | some (_, w) =>
    match w.mode with
    | .closed => some (.deny .closedRegion)
    | .platformOnly => some (if d = 0 then .allowReadWrite else .deny .platformRegion)
    | .openAll => some .allowReadWrite
    | .tagged => none

/-- Steps 3 to 6 (R52 to R54). -/
def State.classOutcome (s : State) (r : ClassResult) (hit : Option (Nat × Window)) : Option CheckOutcome :=
  match r with
  | .unclassified => some (.deny .unclassified)
  | .block => some (.deny .sourceBlocked)
  | .domain d => if s.domainActive d then windowOutcome d hit else some (.deny .domainInactive)

/-- The denial of step 1 or 2 (R51). -/
def State.earlyDenial (s : State) (l : LinkId) : Option DenyReason :=
  match (s.link l).state with
  | .admitWait => some .notAdmitted
  | .held => some .linkHeld
  | _ => match s.mode with
    | .startup => some .notReady
    | .operating => none

/-- The entry of a CHECK before steps 1 to 6, denied for `r`. -/
def State.earlyEntry (s : State) (l : LinkId) (m : CheckMsg) (r : DenyReason) : OpenCheck :=
  { link := l, tag := m.tag, source := m.source, address := m.address, access := m.access
    cacheWanted := m.cacheWanted, epoch := s.epoch, phase := .deciding (.deny r), classified := none
    window := none, granule := none, seen := none, stale := false, oldEpoch := false }

/-- The entry of a CHECK that passed steps 1 and 2: classified and looked up, decided by a step from 3 to 6 or
waiting for its record (R48). -/
def State.fullEntry (s : State) (l : LinkId) (m : CheckMsg) : OpenCheck :=
  let c := s.active.classify l m.source
  let a := m.address.toNat
  let hit := s.active.lookup a
  let window := hit.map fun x => lookupHit x.1 x.2 a
  match s.classOutcome c.result hit with
  | some o =>
    { s.earlyEntry l m .notReady with phase := .deciding o, classified := some c, window := window }
  | none =>
    { s.earlyEntry l m .notReady with
      phase := .waitRecord, classified := some c, window := window
      granule := hit.map fun x => x.2.indexOf a }

/-- The entry a CHECK is given (R48). -/
def State.checkEntry (s : State) (l : LinkId) (m : CheckMsg) : OpenCheck :=
  match s.earlyDenial l with
  | some r => s.earlyEntry l m r
  | none => s.fullEntry l m

/-- The entry waits for its record. -/
def OpenCheck.waits (e : OpenCheck) : Bool := e.phase == .waitRecord

/-- Open a check; one that waits has its record read placed (R48). -/
def State.openCheck (s : State) (e : OpenCheck) : State :=
  { s with
    openChecks := s.openChecks ++ [e]
    store := { s.store with
      verdictQ := if e.waits then s.store.verdictQ ++ [(e.link, e.tag)] else s.store.verdictQ } }

/-- The link's announced maximum (R47). -/
def State.maxOpen (s : State) (l : LinkId) : Nat :=
  match (s.link l).announced with
  | some a => a.maxOpen
  | none => 0

/-- An open check of the link holds the tag (R47, R182). -/
def State.tagOpen (s : State) (l : LinkId) (t : Nat) : Bool :=
  s.openChecks.any fun e => e.link == l && e.tag == t

/-- A CHECK from the link state on (R181, R182, R48). -/
def State.takeCheck (s : State) (l : LinkId) (m : CheckMsg) : State :=
  match (s.link l).state with
  | .announcing => s.countError l .malformed
  | .admitWait | .active | .held =>
    if s.maxOpen l ≤ m.tag then s.refuseTag l .check m.tag .overLimit
    else if s.tagOpen l m.tag then s.refuseTag l .check m.tag .malformed
    else s.openCheck (s.checkEntry l m)
  | .down | .training | .faulted | .refused => s

/-- CHECK (R48). -/
def execCheck (l : LinkId) (m : CheckMsg) (s : State) : Host.Outcome State Fault Refusal :=
  .next (s.deliver l (.check l m) fun t => t.takeCheck l m)

/-! ### Step 7 (R55, R56) -/

/-- The rights of the first present slot that names a domain (R55). -/
def TagRecord.sharerRights (r : TagRecord) (d : DomainNo) : Option Rights :=
  (r.slots.find? (slotNames d)).map slotRights

/-- The decision from an OWNED or SHARED record (Table 4-3). -/
def heldOutcome (r : TagRecord) (d : DomainNo) (a : AccessKind) : CheckOutcome :=
  if d = 0 then (if r.platformAccess then .allowReadWrite else .deny .privateGranule)
  else if d = r.owner then .allowReadWrite
  else match r.sharerRights d with
    | some .readWrite => .allowReadWrite
    | some .read => if a = .read then .allowRead else .deny .readOnly
    | none => .deny .notOwner

/-- Step 7 (Table 4-3). -/
def recordOutcome (d : DomainNo) (a : AccessKind) : ReadRecord → CheckOutcome
  | .unverifiable _ => .deny .integrity
  | .verified r =>
    match r.state with
    | .fenced => .deny .fenced
    | .quarantined => .deny .integrity
    | .free => if d = 0 then .allowReadWrite else .deny .notOwner
    | .owned | .shared => heldOutcome r d a

/-- What the entry keeps of the record (Table 4-1). -/
def seenOf : ReadRecord → RecordSeen
  | .verified r => .verified r
  | .unverifiable _ => .unverifiable

/-- The check's domain (R52). -/
def OpenCheck.domain? (e : OpenCheck) : Option DomainNo := e.classified.bind fun c => c.result.domain?

/-- The entry after its record read (R49). -/
def OpenCheck.decide (e : OpenCheck) (rec : ReadRecord) : OpenCheck :=
  { e with
    phase := .deciding (recordOutcome (e.domain?.getD 0) e.access rec)
    seen := some (seenOf rec) }

/-- The entry is named by (link, tag). -/
def OpenCheck.named (e : OpenCheck) (n : LinkId × Nat) : Bool := e.link == n.1 && e.tag == n.2

/-- The record read of an entry is granted: it enters DECIDING, behind the entries that entered before it
(R49). -/
def State.readForCheck (s : State) (e : OpenCheck) (g : Nat) : State :=
  let rec_ := s.readRecord g
  let t := { s with openChecks :=
    s.openChecks.filter (fun x => !x.named (e.link, e.tag)) ++ [e.decide rec_] }
  match rec_ with
  | .unverifiable img => t.foundFailure g .verdict img
  | .verified _ => t

/-- RECORD_READ_GRANT: the oldest request of the VERDICT class (R15, R49). -/
def execRecordReadGrant (s : State) : Host.Outcome State Fault Refusal :=
  s.onGrant .verdict fun t =>
    match t.store.verdictQ with
    | n :: rest =>
      let u := { t with store := { t.store with verdictQ := rest } }
      match u.openChecks.find? fun e => e.named n with
      | some e =>
        match e.granule with
        | some g => u.onRecord g (u.readForCheck e g).closeEvent
        | none => .next u
      | none => .next u
    | [] => .next t

/-! ### Issue (R50, R57 to R61) -/

/-- The decided outcome of an entry in DECIDING. -/
def OpenCheck.outcome? (e : OpenCheck) : Option CheckOutcome :=
  match e.phase with
  | .deciding o => some o
  | .waitRecord => none

/-- The outcome allows. -/
def CheckOutcome.allows : CheckOutcome → Bool
  | .allowRead | .allowReadWrite => true
  | .deny _ => false

/-- The entry offered to a link: its first in DECIDING (R50). -/
def State.offered (s : State) (l : LinkId) : Option OpenCheck :=
  s.openChecks.find? fun e => e.link == l && !e.waits

/-- The link announced a cache capacity above 0 (R60). -/
def Link.caches (k : Link) : Bool := k.announced.any fun a => decide (0 < a.capacity.toNat)

/-- The first eight conditions of R60. -/
def State.mayCache (s : State) (e : OpenCheck) (o : CheckOutcome) : Bool :=
  o.allows && e.window.any (fun w => w.mode == .tagged) && e.cacheWanted && (s.link e.link).caches &&
    s.isActive e.link && !(s.link e.link).flushOutstanding && s.phase == .idle && !e.stale && !e.oldEpoch

/-- Settle cacheability, asking the directory when the first eight conditions hold (R60, R61). -/
def State.settleCache (s : State) (e : OpenCheck) (o : CheckOutcome) : State × Bool :=
  if s.mayCache e o then
    match e.granule with
    | some g => s.recordGrant g e.link
    | none => (s, false)
  else (s, false)

/-- The VERDICT of an entry (R57). -/
def OpenCheck.verdict (e : OpenCheck) (o : CheckOutcome) (cacheable : Bool) : VerdictMsg :=
  { tag := e.tag, outcome := o, cacheable := cacheable
    granuleBase := e.window.map fun w => (w.base, w.granule)
    granule := if e.seen.isSome then e.granule else none
    generation := match e.seen with
      | some (.verified r) => some r.generation
      | _ => none
    epoch := e.epoch }

/-- A denial of the reason is logged (R58). -/
def DenyReason.logged : DenyReason → Bool
  | .notAdmitted | .linkHeld | .notReady | .fenced => false
  | .unclassified | .sourceBlocked | .domainInactive | .unmapped | .closedRegion | .platformRegion
  | .notOwner | .privateGranule | .readOnly | .integrity => true

/-- Record state seen (Table 4-6); a FENCED record is never the subject of a logged denial. -/
def seenState : RecordSeen → Option SeenState
  | .unverifiable => some .unverifiable
  | .verified r =>
    match r.state with
    | .free => some .free
    | .owned => some .owned
    | .shared => some .shared
    | .quarantined => some .quarantined
    | .fenced => none

/-- Owner seen: present when the state seen is OWNED or SHARED (Table 4-6). -/
def ownerSeen : RecordSeen → Option Half
  | .unverifiable => none
  | .verified r => if r.isHeld then some r.owner else none

/-- Label seen: present when the record verified (Table 4-6). -/
def labelSeen : RecordSeen → Option Half
  | .unverifiable => none
  | .verified r => some r.label

/-- The denial report of an entry (Table 4-6). -/
def State.denialOf (s : State) (e : OpenCheck) (r : DenyReason) : DenialRecord :=
  { time := s.timeBase, link := e.link, source := e.source, domain := e.domain?
    decidedBy := e.classified.map Classification.decidedBy, address := e.address, access := e.access
    reason := r, window := e.window.map WindowHit.window
    granule := if e.seen.isSome then e.granule else none
    stateSeen := e.seen.bind seenState, ownerSeen := e.seen.bind ownerSeen
    labelSeen := e.seen.bind labelSeen }

/-- Write the watched match report of an issued check (R43, R44, R58). -/
def State.watchCheck (s : State) (e : OpenCheck) (p : Placement) : State :=
  match e.classified.bind Classification.watched with
  | none => s
  | some n => s.writeWatch
      { element := n, message := .check, link := e.link, source := e.source, domain := e.domain?
        placement := p }

/-- Hand over the denial report of a logged denial; write the watched match report (R58, R43). -/
def State.logOutcome (s : State) (e : OpenCheck) (o : CheckOutcome) : State :=
  match o with
  | .deny r =>
    if r.logged then (s.storeDenial (s.denialOf e r)).watchCheck e (s.denialPlacement (s.denialOf e r))
    else s.watchCheck e .none
  | .allowRead | .allowReadWrite => s.watchCheck e .none

/-- Close an entry: the stale count and the old-epoch count fall by its marks (R50, R64, R65). -/
def State.closeCheck (s : State) (e : OpenCheck) : State :=
  let t := { s with
    openChecks := s.openChecks.filter fun x => !x.named (e.link, e.tag)
    oldEpochCount := if e.oldEpoch then s.oldEpochCount - 1 else s.oldEpochCount }
  if e.stale then t.lowerStale e.granule else t

/-- The issue of a VERDICT (R50). -/
def State.issue (s : State) (e : OpenCheck) (o : CheckOutcome) : State :=
  let p := s.settleCache e o
  let t := p.1.hand e.link (.verdict (e.verdict o p.2))
  ((t.logOutcome e o).closeCheck e).settle

/-- VERDICT_ISSUE: the outbound path of a link takes the entry offered to it (R50). -/
def execVerdictIssue (l : LinkId) (s : State) : Host.Outcome State Fault Refusal :=
  match s.offered l with
  | some e =>
    match e.outcome? with
    | some o => .next (s.issue e o).closeEvent
    | none => .next s
  | none => .next s

end Sys2Proof.Machine
end

