-- ==== Sys2Proof/Machine/Revocation.lean ====
section
/-! DEFINITION. DROP, REVOKE_ACK, FLUSH_ACK, the revoke timer and the directory consultation (chapter 5). -/

namespace Sys2Proof.Machine

/-! ### DROP (R73) -/

/-- The link is pending on the fence entry of a granule. -/
def State.pendingOn (s : State) (g : Nat) (l : LinkId) : Bool :=
  (s.fenceOf g).any fun e => LinkSet.has e.pending l

/-- A DROP from the link state on (R72, R73, Table 11-2). -/
def State.takeDrop (s : State) (l : LinkId) (g : Nat) : State :=
  match (s.link l).state with
  | .announcing => s.countError l .malformed
  | .admitWait | .active | .held =>
    if s.pendingOn g l then s
    else if LinkSet.has (s.holders g) l then s.dropHolder g l
    else s
  | .down | .training | .faulted | .refused => s

/-- DROP (R73). -/
def execDrop (l : LinkId) (granule : Nat) (s : State) : Host.Outcome State Fault Refusal :=
  .next (s.deliver l (.drop l granule) fun t => t.takeDrop l granule)

/-! ### REVOKE_ACK (R78) -/

/-- A fence entry that a REVOKE_ACK of the link and generation matches, once it names the granule (R78). -/
def FenceEntry.acceptsAck (e : FenceEntry) (l : LinkId) (gen : Half) : Bool :=
  e.phase == .revoking && e.consulted && e.genRead == some gen && LinkSet.has e.pending l

/-- A REVOKE_ACK from the link state on (R78). A REVOKE it matches that is not yet sent stays in the path (DEDUCED, log
entry 45). -/
def State.takeRevokeAck (s : State) (l : LinkId) (g : Nat) (gen : Half) : State :=
  match (s.link l).state with
  | .announcing => s.countError l .malformed
  | .admitWait | .active | .held =>
    if (s.fenceOf g).any fun e => e.acceptsAck l gen then
      (s.updFence g fun e => e.dropPending l).settle
    else s.countError l .unexpected
  | .down | .training | .faulted | .refused => s

/-- REVOKE_ACK (R78). -/
def execRevokeAck (l : LinkId) (granule : Nat) (generation : Half) (s : State) :
    Host.Outcome State Fault Refusal :=
  .next (s.deliver l (.revokeAck l granule generation) fun t => t.takeRevokeAck l granule generation)

/-! ### FLUSH_ACK (R85) -/

/-- A FLUSH_ACK from the link state on (R85, R143). A FLUSH_ALL or REVOKE of the link that is not yet sent stays in the
path (DEDUCED, log entry 45). -/
def State.takeFlushAck (s : State) (l : LinkId) : State :=
  match (s.link l).state with
  | .announcing => s.countError l .malformed
  | .admitWait | .active | .held =>
    if (s.link l).flushOutstanding then (s.withdrawLink l).settle else s.countError l .unexpected
  | .down | .training | .faulted | .refused => s

/-- FLUSH_ACK (R85). -/
def execFlushAck (l : LinkId) (s : State) : Host.Outcome State Fault Refusal :=
  .next (s.deliver l (.flushAck l) fun t => t.takeFlushAck l)

/-! ### REVOKE_TIMER_EXPIRY (R79) -/

/-- Fault every link still pending on an entry, in ascending number (R79, R161). -/
def State.faultPending (s : State) (g : Nat) (pending : LinkSet) : State :=
  (LinkSet.links pending).foldl (fun t l => t.faultCore l .revokeTimeout none (some g)) s

/-- The revoke timer of the entry of a granule expires (R79). -/
def State.revokeExpires (s : State) (e : FenceEntry) : State :=
  let t := s.updFence e.granule fun x => { x with timer := none }
  (t.faultPending e.granule e.pending).settle

/-- REVOKE_TIMER_EXPIRY (R79). -/
def execRevokeTimerExpiry (granule : Nat) (s : State) : Host.Outcome State Fault Refusal :=
  match s.fenceOf granule with
  | some e => if s.reached e.timer then .next (s.revokeExpires e).closeEvent else .next s
  | none => .next s

/-! ### DIRECTORY_CONSULTATION (R77) -/

/-- Hand REVOKE to a link of the pending set, unless its flush is outstanding (R77). It goes behind the REVOKEs of the
path, also those still unsent whose revocation on the link has ended (DEDUCED, log entry 45). -/
def State.sendRevoke (g : Nat) (gen : Half) (s : State) (l : LinkId) : State :=
  if (s.link l).flushOutstanding then s else s.hand l (.revoke g gen)

/-- The consultation of an entry (R77). -/
def State.consult (s : State) (e : FenceEntry) : State :=
  let pending := s.holders e.granule
  let timer := if pending = 0 then none else some (s.expiryAfter s.revokeTimeout)
  let t := s.updFence e.granule fun x =>
    { x with pending := pending, consulted := true, timer := timer }
  ((LinkSet.links pending).foldl (State.sendRevoke e.granule (e.genRead.getD 0)) t).settle

/-- DIRECTORY_CONSULTATION: due once the fence write was granted and the directory not yet consulted (R77). -/
def execDirectoryConsultation (granule : Nat) (s : State) : Host.Outcome State Fault Refusal :=
  match s.fenceOf granule with
  | some e =>
    if e.phase = .revoking ∧ e.consulted = false then .next (s.consult e).closeEvent else .next s
  | none => .next s

end Sys2Proof.Machine
end

