-- ==== Sys2Proof/Machine/TagCommands.lean ====
section
/-! DEFINITION. The seven TAGCMD kinds, allocation, and the grants of a granule step (chapter 6, R76, R81). -/

namespace Sys2Proof.Machine

/-! ### Taking a TAGCMD (R89 to R91) -/

/-- A TAGCMD_REPLY REJECTED (R90). -/
def rejectedReply (tag : Nat) (r : FailReason) : CommandReply :=
  { tag := tag, result := .rejected, done := 0, failed := 0, firstOffset := none, firstReason := some r }

/-- A direct command as it enters the queue (R92). -/
def directEntry (h : MgmtHeader) (kind : StepKind) (first count : Nat) : DirectEntry :=
  { link := h.link, tag := h.tag, inSession := true, kind := kind, first := first, count := count
    nextOffset := 0, inFence := 0, done := 0, failed := 0, firstFailed := none }

/-- The Command Engine takes a TAGCMD (R90). -/
def State.queueCommand (s : State) (h : MgmtHeader) (r : RangeArg) (kind : StepKind) : State :=
  if Config.directQueueMax ≤ s.directQueue.length then s.refuse h.link .management h.tag .queueFull
  else if kind.argsOk then
    match s.active.rangeFirst r.form r.first r.count with
    | some first => { s with directQueue := s.directQueue ++ [directEntry h kind first r.count] }
    | none => s.hand h.link (.commandReply (rejectedReply h.tag .outOfRange))
  else s.hand h.link (.commandReply (rejectedReply h.tag .badArgument))

/-- A TAGCMD frame from the link state on. -/
def State.takeTagcmd (s : State) (h : MgmtHeader) (r : RangeArg) (kind : StepKind) : State :=
  s.takeManaged h fun t => t.queueCommand h r kind

/-- TAGCMD ASSIGN (R98). -/
def execAssign (h : MgmtHeader) (r : RangeArg) (d : DomainNo) (platformAccess : Bool) (label : Half)
    (s : State) : Host.Outcome State Fault Refusal :=
  .next (s.deliver h.link (.assign h r d platformAccess label)
    fun t => t.takeTagcmd h r (.assign d platformAccess label))

/-- TAGCMD RELEASE (R99). -/
def execRelease (h : MgmtHeader) (r : RangeArg) (d : DomainNo) (s : State) :
    Host.Outcome State Fault Refusal :=
  .next (s.deliver h.link (.release h r d) fun t => t.takeTagcmd h r (.release d))

/-- TAGCMD SHARE (R100). -/
def execShare (h : MgmtHeader) (r : RangeArg) (d e : DomainNo) (rights : Rights) (s : State) :
    Host.Outcome State Fault Refusal :=
  .next (s.deliver h.link (.share h r d e rights) fun t => t.takeTagcmd h r (.share d e rights))

/-- TAGCMD UNSHARE (R101). -/
def execUnshare (h : MgmtHeader) (r : RangeArg) (d e : DomainNo) (s : State) :
    Host.Outcome State Fault Refusal :=
  .next (s.deliver h.link (.unshare h r d e) fun t => t.takeTagcmd h r (.unshare d e))

/-- TAGCMD TRANSFER (R102). -/
def execTransfer (h : MgmtHeader) (r : RangeArg) (d e : DomainNo) (s : State) :
    Host.Outcome State Fault Refusal :=
  .next (s.deliver h.link (.transfer h r d e) fun t => t.takeTagcmd h r (.transfer d e))

/-- TAGCMD SET_ATTR (R103). -/
def execSetAttr (h : MgmtHeader) (r : RangeArg) (d : DomainNo) (platformAccess : Bool) (label : Half)
    (s : State) : Host.Outcome State Fault Refusal :=
  .next (s.deliver h.link (.setAttr h r d platformAccess label)
    fun t => t.takeTagcmd h r (.setAttr d platformAccess label))

/-- TAGCMD REBUILD (R104). -/
def execRebuild (h : MgmtHeader) (r : RangeArg) (content : RebuildContent) (s : State) :
    Host.Outcome State Fault Refusal :=
  .next (s.deliver h.link (.rebuild h r content) fun t => t.takeTagcmd h r (.rebuild content))

/-! ### Allocation (R94, R95) -/

/-- FENCE_ALLOCATION: one free entry is given to the next step of the first ready source (R75, R95). -/
def execFenceAllocation (s : State) : Host.Outcome State Fault Refusal :=
  if s.fence.length < Config.fenceEntries then
    match s.chosen with
    | some (src, g, kind) => .next (s.allocate src g kind).closeEvent
    | none => .next s
  else .next s

/-- GRANULE_OUT_OF_RANGE: a source's next index is at or above the capacity; it fails OUT_OF_RANGE without a
fence entry (R94). -/
def execGranuleOutOfRange (src : CommandSource) (s : State) : Host.Outcome State Fault Refusal :=
  match src with
  | .direct =>
    match s.directNext, s.directQueue with
    | some (g, _), e :: rest =>
      if g < s.capacity then .next s
      else
        .next (s.directResult
          ({ e with nextOffset := e.nextOffset + 1 }.countResult e.nextOffset (some .outOfRange))
          rest).closeEvent
    | _, _ => .next s
  | .chain c =>
    match s.chainNext c with
    | some (g, _) =>
      if g < s.capacity then .next s
      else
        .next ((s.updChan c fun k =>
          { k with nextOffset := k.nextOffset + 1 }.countResult k.nextOffset
            (some .outOfRange)).settleChannel c).closeEvent
    | none => .next s

/-! ### The grants of a granule step (R76, R81) -/

/-- The granule index of the oldest request of the COMMAND class, when it is of a kind. -/
def State.commandHead (s : State) (a : StepAccess) : Option Nat :=
  match s.store.commandQ with
  | r :: _ => if r.access = a then some r.granule else none
  | [] => none

/-- The COMMAND class queue without its oldest request. -/
def State.popCommand (s : State) : State :=
  { s with store := { s.store with commandQ := s.store.commandQ.tail } }

/-- A grant to the COMMAND class whose oldest request is of kind `a`, on an existing record, for the fence entry
of its granule; otherwise the event is not due (log entries 4 and 16). -/
def State.onCommand (s : State) (a : StepAccess) (f : State → FenceEntry → State) :
    Host.Outcome State Fault Refusal :=
  match s.commandHead a with
  | some g => s.onGrant .command fun t =>
      match t.popCommand.fenceOf g with
      | some e => t.popCommand.onRecord g (f t.popCommand e).closeEvent
      | none => .next t.popCommand
  | none => .next s

/-- A step ends at its command read: the entry is freed and the failure is handed to the source (R76). -/
def State.failStep (s : State) (e : FenceEntry) (r : FailReason) : State :=
  (s.freeFence e.granule).stepResult e.source e.granule (some r)

/-- A command read that found its record unverifiable files and captures the failure; that of a REBUILD does
not (Table 1-3). -/
def State.fileFailureOf (s : State) (kind : StepKind) (g : Nat) (rec : ReadRecord) : State :=
  match kind, rec with
  | .rebuild _, _ => s
  | _, .unverifiable img => s.foundFailure g .command img
  | _, .verified _ => s

/-- A step whose precondition holds: prior record and generation read are kept, the fence write is placed
(R76). -/
def State.passStep (s : State) (e : FenceEntry) (rec : ReadRecord) : State :=
  (s.updFence e.granule fun x => { x with prior := some rec, genRead := some rec.fields.generation
  }).placeCommand e.granule .fenceWrite

/-- The grant of a command read (R76, R97, R154). -/
def State.commandRead (s : State) (e : FenceEntry) : State :=
  let rec_ := s.readRecord e.granule
  match e.kind, rec_ with
  | .quarantine, .verified _ => s.freeFence e.granule
  | .quarantine, .unverifiable _ => s.passStep e rec_
  | kind, _ =>
    match s.stepFails kind rec_ with
    | some r => (s.fileFailureOf kind e.granule rec_).failStep e r
    | none => s.passStep e rec_

/-- COMMAND_READ_GRANT (R76). -/
def execCommandReadGrant (s : State) : Host.Outcome State Fault Refusal := s.onCommand .read State.commandRead

/-- An open check that a fence write of `g` marks stale: it is in DECIDING for that index (R63). -/
def OpenCheck.staleFor (g : Nat) (e : OpenCheck) : Bool := !e.waits && e.granule == some g

/-- The grant of a fence write (R63, R76). -/
def State.fenceWrite (s : State) (e : FenceEntry) : State :=
  match e.prior with
  | some prior =>
    let n := s.openChecks.countP (OpenCheck.staleFor e.granule)
    let mark (x : OpenCheck) : OpenCheck :=
      if x.staleFor e.granule then { x with stale := true } else x
    ({ s.writeRecord e.granule (fencedRecord prior) with
        openChecks := s.openChecks.map mark }).updFence e.granule fun x =>
      { x with phase := .revoking, staleCount := n }
  | none => s

/-- FENCE_WRITE_GRANT (R76). -/
def execFenceWriteGrant (s : State) : Host.Outcome State Fault Refusal :=
  s.onCommand .fenceWrite State.fenceWrite

/-- The grant of a final write (R81). -/
def State.finalWrite (s : State) (e : FenceEntry) : State :=
  match e.prior with
  | some prior =>
    let written := finalRecord e.kind prior
    ((((s.writeRecord e.granule written).freeGranule e.granule).adjustOwned e.kind prior
      written).freeFence e.granule).stepResult e.source e.granule none
  | none => s

/-- FINAL_WRITE_GRANT (R81). -/
def execFinalWriteGrant (s : State) : Host.Outcome State Fault Refusal :=
  s.onCommand .finalWrite State.finalWrite

end Sys2Proof.Machine
end

