-- ==== Sys2Proof/Machine/Domains.lean ====
section
/-! DEFINITION. DOMAIN_OPEN, DOMAIN_RETIRE and the retire scanner's read (sections 6.6 and 6.7). -/

namespace Sys2Proof.Machine

/-- DOMAIN_OPEN's tests and effect (R108, R167). -/
def State.openDomain (s : State) (d : DomainNo) : State × ControlOutcome :=
  if 1023 < d.toNat then (s, .refused .badArgument)
  else if d = 0 ∨ (s.domainEntry d).state ≠ .absent then (s, .refused .domainState)
  else ((s.setDomain d { state := .active, owned := 0 }).setViolation d.toNat Violation.none, .accepted)

/-- CONTROL DOMAIN_OPEN (R108). -/
def execDomainOpen (h : MgmtHeader) (d : DomainNo) (s : State) : Host.Outcome State Fault Refusal :=
  .next (s.deliver h.link (.domainOpen h d) fun t => t.takeControl h fun u => u.openDomain d)

/-- DOMAIN_RETIRE's tests and effect (R109). -/
def State.retireDomain (s : State) (d : DomainNo) : State × ControlOutcome :=
  if 1023 < d.toNat then (s, .refused .badArgument)
  else if d = 0 then (s, .refused .domainState)
  else if s.retire.running then (s, .refused .retireBusy)
  else if (s.domainEntry d).state = .absent then (s, .refused .domainState)
  else (s.startRetire d, .accepted)

/-- CONTROL DOMAIN_RETIRE (R109). -/
def execDomainRetire (h : MgmtHeader) (d : DomainNo) (s : State) : Host.Outcome State Fault Refusal :=
  .next (s.deliver h.link (.domainRetire h d) fun t => t.takeControl h fun u => u.retireDomain d)

/-- The step a record read by the scanner needs for the retiring domain `r` (R111). -/
def scannerStep (r : DomainNo) (rec : TagRecord) : Option StepKind :=
  if rec.countedOwner = some r then some (.release r)
  else if rec.countedOwner.isSome && rec.hasSharer r then some (.unshare rec.owner r)
  else none

/-- The scanner judges a record, no fence entry naming its index (R111). -/
def State.judgeScan (s : State) (g : Nat) : State :=
  match s.readRecord g with
  | .verified rec =>
    match scannerStep s.retire.domain rec with
    | some kind => { s with retire := { s.retire with held := some (g, kind) } }
    | none => s.scannerMoves
  | .unverifiable img => (s.foundFailure g .retire img).scannerMoves

/-- The grant of a scanning read: set aside when a fence entry names its index, judged otherwise (R111). -/
def State.scanRead (s : State) (g : Nat) : State :=
  if s.fenced g then { s with retire := { s.retire with setAside := some g } } else s.judgeScan g

/-- SCANNING_READ_GRANT (R111). -/
def execScanningReadGrant (s : State) : Host.Outcome State Fault Refusal :=
  s.onGrant .retire fun t =>
    match t.store.retireQ with
    | some g =>
      let u := { t with store := { t.store with retireQ := none } }
      u.onRecord g (u.scanRead g).closeEvent
    | none => .next t

end Sys2Proof.Machine
end

