-- ==== Sys2Proof/Machine/Sweep.lean ====
section
/-! DEFINITION. The pacer, the sweep's reads and CAPTURE_CLEAR (chapter 9). -/

namespace Sys2Proof.Machine

/-- The effective B (R148). -/
def SweepState.effB (w : SweepState) : Nat := if w.pacerB = 0 then 1 else w.pacerB

/-- The effective A (R148). -/
def SweepState.effA (w : SweepState) : Nat := if w.effB ≤ w.pacerA then w.effB - 1 else w.pacerA

/-- The residue after steps 1 and 2 of a tick, before the carry is taken out (R148). -/
def SweepState.tickSum (w : SweepState) : Nat :=
  (if w.effB ≤ w.residue then w.residue % w.effB else w.residue) + w.effA

/-- The carry of a tick (R148, step 2). -/
def SweepState.carry (w : SweepState) : Nat := if w.effB ≤ w.tickSum then 1 else 0

/-- The residue after a tick (R148, step 2). -/
def SweepState.nextResidue (w : SweepState) : Nat :=
  if w.effB ≤ w.tickSum then w.tickSum - w.effB else w.tickSum

/-- The phase sum of a tick (R148, step 3). -/
def SweepState.phaseSum (w : SweepState) : Nat := w.phase + w.pacerX + w.carry

/-- The tick produces a sweep credit (R148, step 3). -/
def SweepState.wraps (w : SweepState) : Bool := decide (4294967296 ≤ w.phaseSum)

/-- A credit is produced: it becomes pending, or slips while one is pending (R148). -/
def SweepState.credit (w : SweepState) : SweepState :=
  if w.creditPending then { w with slips := satInc 65535 w.slips } else { w with creditPending := true }

/-- One pacer tick (R148). -/
def SweepState.tick (w : SweepState) : SweepState :=
  let t : SweepState := { w with
    residue := w.nextResidue
    phase := if w.wraps then w.phaseSum - 4294967296 else w.phaseSum }
  if w.wraps then t.credit else t

/-- PACER_TICK: one tick while SWEEP_ENABLE is set; none is taken while it is clear (R148). -/
def execPacerTick (s : State) : Host.Outcome State Fault Refusal :=
  if s.sweep.enable then .next { s with sweep := s.sweep.tick } else .next s

/-- SWEEP_CREDIT: the tick in which the phase wraps and a credit is produced (R148; log entry 6). -/
def execSweepCredit (s : State) : Host.Outcome State Fault Refusal :=
  if s.sweep.enable && s.sweep.wraps then .next { s with sweep := s.sweep.tick } else .next s

/-! ### The sweep read (R150, R151) -/

/-- The conditions of a sweep read (R150). -/
def State.sweepDue (s : State) : Bool :=
  s.sweep.creditPending && s.store.sweepQ.isNone && s.sweep.held.isNone && s.sweep.requests.isEmpty

/-- The position is checked in the active table, and the sweep moves when it does not stand (R150). -/
def State.sweepChecked (s : State) : State :=
  if s.active.positionStands s.sweep.window s.sweep.offset then s else s.sweepMoves

/-- Place the sweep read of the position and use the credit (R150). -/
def State.placeSweepRead (s : State) : State :=
  { s with
    sweep := { s.sweep with creditPending := false }
    store := { s.store with sweepQ := some (s.active.positionIndex s.sweep.window s.sweep.offset) } }

/-- SWEEP_READ_PLACEMENT (R150). -/
def execSweepReadPlacement (s : State) : Host.Outcome State Fault Refusal :=
  if s.sweepDue then
    match s.active.firstTagged 0 with
    | none => .next { s with sweep := { s.sweep with creditPending := false } }
    | some _ => .next s.sweepChecked.placeSweepRead
  else .next s

/-- A sweep read found its record unverifiable (R151). -/
def State.sweepFound (s : State) (g : Nat) (img : Image) : State :=
  let t := (s.capture g .sweep img).report .integrity none (some g) none
    (.checks img[15] (checkByte img.toList))
  let u := t.raise .integrityError
  { u with sweep := { u.sweep with held := some g, requests := u.sweep.requests.filter fun i => i != g } }

/-- The grant of a sweep read (R151). -/
def State.sweepRead (s : State) (g : Nat) : State :=
  if s.fenced g then s.sweepMoves
  else match s.readRecord g with
    | .verified _ => s.sweepMoves
    | .unverifiable img => s.sweepFound g img

/-- SWEEP_READ_GRANT (R151). -/
def execSweepReadGrant (s : State) : Host.Outcome State Fault Refusal :=
  s.onGrant .sweep fun t =>
    match t.store.sweepQ with
    | some g =>
      let u := { t with store := { t.store with sweepQ := none } }
      u.onRecord g (u.sweepRead g).closeEvent
    | none => .next t

/-- CAPTURE_CLEAR's effect (R156). -/
def State.clearCapture (s : State) : State × ControlOutcome :=
  ({ s with sweep := { s.sweep with capture := none, overflow := 0 } }, .accepted)

/-- CONTROL CAPTURE_CLEAR (R156). -/
def execCaptureClear (h : MgmtHeader) (s : State) : Host.Outcome State Fault Refusal :=
  .next (s.deliver h.link (.captureClear h) fun t => t.takeControl h State.clearCapture)

end Sys2Proof.Machine
end

