-- ==== Sys2Proof/Machine/TagStore.lean ====
section
/-! DEFINITION. TABLE_INIT and the software reads of records (sections 1.4 and 1.6). -/

namespace Sys2Proof.Machine

/-! ### TABLE_INIT (R12, R13) -/

/-- TABLE_INIT's tests and effect (R12, R16). -/
def State.startInit (s : State) : State × ControlOutcome :=
  if s.mode ≠ .startup then (s, .refused .notStartup)
  else if s.store.geometry = none then (s, .refused .noGeometry)
  else if s.store.initRunning then (s, .refused .tableBusy)
  else
    ({ s with store := { s.store with
        tableValid := false, initRunning := true, initProgress := 0, softTurn := .initWrite } }, .accepted)

/-- CONTROL TABLE_INIT (R12). -/
def execTableInit (h : MgmtHeader) (s : State) : Host.Outcome State Fault Refusal :=
  .next (s.deliver h.link (.tableInit h) fun t => t.takeControl h State.startInit)

/-- The write of a FREE record at the progress index is granted; the last one ends TABLE_INIT (R13). -/
def State.initWrite (s : State) : State :=
  let t := s.writeRecord s.store.initProgress freeRecord
  let n := s.store.initProgress + 1
  let u := { t with store := { t.store with initProgress := n, softTurn := .softwareRead } }
  if n = s.capacity then
    ({ u with store := { u.store with initRunning := false, tableValid := true } }).raise .tableInitDone
  else u

/-- TABLE_INIT_WRITE_GRANT (R13). -/
def execTableInitWriteGrant (s : State) : Host.Outcome State Fault Refusal :=
  if s.softOffer = some .initWrite then
    s.onGrant .software fun t => t.onRecord t.store.initProgress t.initWrite.closeEvent
  else .next s

/-! ### TAG_READ and TAG_SCAN (R17 to R19) -/

/-- A TAG_READ or TAG_SCAN is refused at arrival, or enters the software request queue (R17). -/
def State.queueSoftware (s : State) (h : MgmtHeader) (index : Nat) (r : SoftRequest) : State :=
  if s.store.geometry = none then s.refuse h.link .management h.tag .noGeometry
  else if s.capacity ≤ index then s.refuse h.link .management h.tag .outOfRange
  else ({ s with store := { s.store with softQueue := s.store.softQueue ++ [r] } }).placeSoftRead

/-- The number of records a TAG_READ reads before it is cut at the store end (R18). -/
def clampCount (n : Nat) : Nat := min (max n 1) 4

/-- The request of a TAG_READ (R18). -/
def State.readRequest (s : State) (h : MgmtHeader) (index count : Nat) : SoftRequest :=
  { link := h.link, tag := h.tag, first := index, next := index
    stop := min (index + clampCount count) s.capacity, kind := .read [] }

/-- TAG_READ (R18). -/
def execTagRead (h : MgmtHeader) (index count : Nat) (s : State) : Host.Outcome State Fault Refusal :=
  .next (s.deliver h.link (.tagRead h index count)
    fun t => t.takeManaged h fun u => u.queueSoftware h index (u.readRequest h index count))

/-- The request of a TAG_SCAN (R19). -/
def State.scanRequest (s : State) (h : MgmtHeader) (first : Nat) (wanted : WantedState)
    (owner : Option DomainNo) : SoftRequest :=
  { link := h.link, tag := h.tag, first := first, next := first
    stop := min (first + Config.scanSpan) s.capacity, kind := .scan wanted owner }

/-- TAG_SCAN (R19). -/
def execTagScan (h : MgmtHeader) (first : Nat) (wanted : WantedState) (owner : Option DomainNo)
    (s : State) : Host.Outcome State Fault Refusal :=
  .next (s.deliver h.link (.tagScan h first wanted owner)
    fun t => t.takeManaged h fun u => u.queueSoftware h first (u.scanRequest h first wanted owner))

/-- The head request after the read of its next record (R18, R19). -/
def State.softResult (s : State) (r : SoftRequest) : SoftResult :=
  match r.kind with
  | .read got =>
    let all := got ++ [s.tagEntry r.next]
    if r.next + 1 < r.stop then .goesOn { r with next := r.next + 1, kind := .read all }
    else .finished (.records r.first all)
  | .scan wanted owner =>
    if scanMatches wanted owner (s.readRecord r.next) then .finished (.found r.next)
    else if r.next + 1 < r.stop then .goesOn { r with next := r.next + 1 }
    else .finished (.noneFound (r.next + 1))

/-- The head request finishes: its TAG_DATA is handed when the link is ACTIVE, dropped otherwise (R17, R182). -/
def State.replySoftware (s : State) (r : SoftRequest) (d : TagData) : State :=
  if s.isActive r.link then s.hand r.link (.tagData r.tag d) else s

/-- The grant of a live read of the head request (R17). -/
def State.headRead (s : State) : State :=
  match s.store.softQueue with
  | r :: rest =>
    match s.softResult r with
    | .goesOn q => ({ s with store := { s.store with softQueue := q :: rest } }).placeSoftRead
    | .finished d =>
      (({ s with store := { s.store with softQueue := rest } }).replySoftware r d).placeSoftRead
  | [] => s

/-- SOFTWARE_READ_GRANT (R17); the result of a read whose request was removed is discarded. -/
def execSoftwareReadGrant (s : State) : Host.Outcome State Fault Refusal :=
  if s.softOffer = some .softwareRead then
    s.onGrant .software fun t =>
      match t.store.softRead with
      | some q =>
        let u := { t with store := { t.store with softRead := none, softTurn := .initWrite } }
        if q.live then u.onRecord q.granule u.headRead.closeEvent else .next u.placeSoftRead
      | none => .next t
  else .next s

end Sys2Proof.Machine
end

