-- ==== Sys2Proof/Machine/ChainCommands.lean ====
section
/-! DEFINITION. The CONTROL operations of the chain channels, the agents' memory answers and the memory timer
(chapter 7). -/

namespace Sys2Proof.Machine

/-- The channel a number names (R119, R128 to R130, R133). -/
def channelOf (b : Byte) : Option ChannelId := if b = 0 then some 0 else if b = 1 then some 1 else none

/-- The link a number names (R119). -/
def linkOf (n : Nat) : Option LinkId := if h : n < 4 then some ⟨n, h⟩ else none

/-! ### CHAIN_START (R119) -/

/-- The addresses of a CHAIN_START pass test 1 (R119). -/
def ChainStartArgOk (a : ChainStartArg) : Bool :=
  alignedAddr 32 a.firstBlock && a.notifyAddr.all (alignedAddr 8)

/-- A channel set up for a new chain (R119). -/
def Channel.begin (k : Channel) (a : ChainStartArg) (l : LinkId) : Channel :=
  { k with
    fetchLink := l, notifyAddr := a.notifyAddr, notifyValue := a.notifyValue
    blockAddr := a.firstBlock, block := none, stopRequested := false, errorStop := false
    linkLost := false }

/-- CHAIN_START's tests and effect (R119). -/
def State.chainStartOp (s : State) (a : ChainStartArg) : State × ControlOutcome :=
  match channelOf a.channel, linkOf a.fetchLink.toNat with
  | some c, some l =>
    if !ChainStartArgOk a then (s, .refused .badArgument)
    else if (s.chan c).state ≠ .idle then (s, .refused .channelBusy)
    else if !s.isActive l then (s, .refused .linkNotActive)
    else ((s.updChan c fun k => k.begin a l).fetchBlock c, .accepted)
  | _, _ => (s, .refused .badArgument)

/-- CONTROL CHAIN_START (R119). -/
def execChainStart (h : MgmtHeader) (a : ChainStartArg) (s : State) : Host.Outcome State Fault Refusal :=
  .next (s.deliver h.link (.chainStart h a) fun t => t.takeControl h fun u => u.chainStartOp a)

/-! ### CHAIN_STOP, CHAIN_RESUME, CHAIN_CANCEL, CHAIN_STATUS (R128 to R130, R133) -/

/-- An operation on the channel a number names; a number above 1 is refused BAD_ARGUMENT. -/
def State.onChannel (s : State) (b : Byte) (f : ChannelId → State × ControlOutcome) :
    State × ControlOutcome :=
  match channelOf b with
  | some c => f c
  | none => (s, .refused .badArgument)

/-- CHAIN_STOP's effect (R128, R125). -/
def State.chainStopOp (s : State) (c : ChannelId) : State × ControlOutcome :=
  match (s.chan c).state with
  | .idle => (s, .refused .channelIdle)
  | .stopped => (s, .accepted)
  | .fetching | .executing | .posting =>
    ((s.updChan c fun k => { k with stopRequested := true }).settleChannel c, .accepted)

/-- CONTROL CHAIN_STOP (R128). -/
def execChainStop (h : MgmtHeader) (channel : Byte) (s : State) : Host.Outcome State Fault Refusal :=
  .next (s.deliver h.link (.chainStop h channel)
    fun t => t.takeControl h fun u => u.onChannel channel u.chainStopOp)

/-- CHAIN_RESUME's effect (R129). -/
def State.chainResumeOp (s : State) (c : ChannelId) : State × ControlOutcome :=
  if (s.chan c).state = .stopped then
    let t := s.updChan c fun k => { k with stopRequested := false, errorStop := false }
    if (s.chan c).block.isSome then
      (t.updChan c fun k => { k with state := .executing }, .accepted)
    else (t.fetchBlock c, .accepted)
  else (s, .refused .channelNotStopped)

/-- CONTROL CHAIN_RESUME (R129). -/
def execChainResume (h : MgmtHeader) (channel : Byte) (s : State) : Host.Outcome State Fault Refusal :=
  .next (s.deliver h.link (.chainResume h channel)
    fun t => t.takeControl h fun u => u.onChannel channel u.chainResumeOp)

/-- CHAIN_CANCEL's effect: the position recorded is the kept one (R130, Table 7-3). -/
def State.chainCancelOp (s : State) (c : ChannelId) : State × ControlOutcome :=
  if (s.chan c).state = .stopped then
    (s.restChannel c .idle .cancelled (s.chan c).offsetReached, .accepted)
  else (s, .refused .channelNotStopped)

/-- CONTROL CHAIN_CANCEL (R130). -/
def execChainCancel (h : MgmtHeader) (channel : Byte) (s : State) : Host.Outcome State Fault Refusal :=
  .next (s.deliver h.link (.chainCancel h channel)
    fun t => t.takeControl h fun u => u.onChannel channel u.chainCancelOp)

/-- CHAIN_STATUS's effect: state and termination status are given, and the status becomes EMPTY (R133). -/
def State.chainStatusOp (s : State) (c : ChannelId) : State × ControlOutcome :=
  (s.updChan c fun k => { k with termination := none },
    .chainStatus (s.chan c).state (s.chan c).termination)

/-- CONTROL CHAIN_STATUS (R133). -/
def execChainStatus (h : MgmtHeader) (channel : Byte) (s : State) : Host.Outcome State Fault Refusal :=
  .next (s.deliver h.link (.chainStatus h channel)
    fun t => t.takeControl h fun u => u.onChannel channel u.chainStatusOp)

/-! ### MEM_DATA, MEM_DONE, the memory timer (R117, R118, R120, R126) -/

/-- A MEM_DATA from the link state on (R117, R120). -/
def State.takeMemData (s : State) (l : LinkId) (tag : Byte) (data : Vector Byte 32) : State :=
  match (s.link l).state with
  | .announcing => s.countError l .malformed
  | .admitWait | .active | .held =>
    match s.answered l .read tag with
    | some c => s.takeBlock c data
    | none => s.countError l .unexpected
  | .down | .training | .faulted | .refused => s

/-- MEM_DATA (R120). -/
def execMemData (l : LinkId) (tag : Byte) (data : Vector Byte 32) (s : State) :
    Host.Outcome State Fault Refusal :=
  .next (s.deliver l (.memData l tag data) fun t => t.takeMemData l tag data)

/-- A MEM_DONE from the link state on (R117, R126). -/
def State.takeMemDone (s : State) (l : LinkId) (tag : Byte) : State :=
  match (s.link l).state with
  | .announcing => s.countError l .malformed
  | .admitWait | .active | .held =>
    match s.answered l .write tag with
    | some c => s.takeDone c
    | none => s.countError l .unexpected
  | .down | .training | .faulted | .refused => s

/-- MEM_DONE (R126). -/
def execMemDone (l : LinkId) (tag : Byte) (s : State) : Host.Outcome State Fault Refusal :=
  .next (s.deliver l (.memDone l tag) fun t => t.takeMemDone l tag)

/-- MEMORY_TIMER_EXPIRY (R118, R120, R126). -/
def execMemoryTimerExpiry (c : ChannelId) (s : State) : Host.Outcome State Fault Refusal :=
  if s.reached ((s.chan c).memRequest.map MemRequest.expiry) then
    .next (s.memoryTimeoutOf c).closeEvent
  else .next s

end Sys2Proof.Machine
end

