-- ==== Sys2Proof/Machine/Policy.lean ====
section
/-! DEFINITION. CONTROL COMMIT and CONTROL START (chapters 8 and 12). -/

namespace Sys2Proof.Machine

/-! ### COMMIT (R139 to R141) -/

/-- The links a commit flush waits for: ACTIVE at the switch, or HELD with a flush outstanding (R141). -/
def State.commitSet (s : State) : LinkSet :=
  allLinks.foldl (fun ls l =>
    match (s.link l).state with
    | .active => LinkSet.add ls l
    | .held => if (s.link l).flushOutstanding then LinkSet.add ls l else ls
    | _ => ls) 0

/-- A flush becomes due for each ACTIVE link, in ascending number (R83, R141). -/
def State.flushActive (s : State) : State :=
  allLinks.foldl (fun t l => if t.isActive l then t.flushDue l else t) s

/-- An open check marked old-epoch (R65). -/
def OpenCheck.markOld (e : OpenCheck) : OpenCheck := { e with oldEpoch := true }

/-- The commit switch (R141, R65). -/
def State.commitSwitch (s : State) : State :=
  let t := { s with
    active := s.shadow, epoch := s.epoch + 1
    openChecks := s.openChecks.map OpenCheck.markOld
    oldEpochCount := s.openChecks.length
    flushSet := s.commitSet, phase := .flushing }
  t.flushActive.completeCommit

/-- COMMIT's tests and effect (R139). -/
def State.commitOp (s : State) : State × ControlOutcome :=
  if s.phase ≠ .idle then (s, .refused .commitBusy)
  else if s.epoch = 4294967295 then (s, .refused .epochLimit)
  else match s.shadow.validate s.capacity with
    | some r => (s, .refused r)
    | none => (s.commitSwitch, .acceptedEpoch (s.epoch + 1))

/-- CONTROL COMMIT (R139). -/
def execCommit (h : MgmtHeader) (s : State) : Host.Outcome State Fault Refusal :=
  .next (s.deliver h.link (.commit h) fun t => t.takeControl h State.commitOp)

/-! ### START (R191, R192) -/

/-- The START trial: the classification of a source on the lead link (R41; log entry 30). -/
def State.trial (s : State) (source : SourceId) : Classification := s.active.classify s.leadLink source

/-- The watched match report of the trial, when a watched element decided it (R41, R43, R44). -/
def State.watchTrial (s : State) (source : SourceId) : State :=
  match (s.trial source).watched with
  | none => s
  | some n => s.writeWatch
      { element := n, message := .management, link := s.leadLink, source := source
        domain := (s.trial source).result.domain?, placement := .none }

/-- A link in ADMIT_WAIT whose admission is set goes to ACTIVE (R192). -/
def Link.atStart (k : Link) : Link :=
  if k.state = .admitWait ∧ k.admission then { k with state := .active } else k

/-- START is accepted (R192). -/
def State.startPart (s : State) : State := { s with mode := .operating, links := s.links.map Link.atStart }

/-- START's tests and effect (R191), after the authority test, which has written its own watched match report (DEDUCED,
log entry 46). -/
def State.startOp (s : State) (source : SourceId) : State × ControlOutcome :=
  if s.mode ≠ .startup then (s, .refused .notStartup)
  else if s.store.geometry = none then (s, .refused .noGeometry)
  else if s.store.initRunning then (s, .refused .tableBusy)
  else if !s.store.tableValid then (s, .refused .tableNotValid)
  else if s.epoch = 0 then (s, .refused .noPolicy)
  else if (s.trial source).result = .domain 0 then ((s.watchTrial source).startPart, .accepted)
  else (s.watchTrial source, .refused .noPlatformRoute)

/-- CONTROL START (R191). -/
def execStart (h : MgmtHeader) (s : State) : Host.Outcome State Fault Refusal :=
  .next (s.deliver h.link (.start h) fun t => t.takeControl h fun u => u.startOp h.source)

end Sys2Proof.Machine
end

