-- ==== Sys2Proof/Machine/Reports.lean ====
section
/-! DEFINITION. LOG_READ, LOG_ACK, FLAGS_CLEAR and NOTIFY_CLEAR (chapter 10). -/

namespace Sys2Proof.Machine

/-! ### LOG_READ (R164) -/

/-- How far a position lies behind the oldest record, when it is in the occupied span (R158). -/
def ReportQueue.spanOffset {α : Type} (q : ReportQueue α) (position : Nat) : Option Nat :=
  if position < q.size then
    let d := (position + q.size - q.get) % q.size
    if d < q.fill then some d else none
  else none

/-- The records from a position on, each with its position, cut at the end of the span (R164). -/
def ReportQueue.readFrom {α : Type} (q : ReportQueue α) (position count : Nat) : List (Nat × α) :=
  match q.spanOffset position with
  | some d =>
    (numbered d ((q.records.drop d).take (clampCount count))).map fun x =>
      ((q.get + x.1) % q.size, x.2)
  | none => []

/-- The records of a LOG_READ (R164). -/
def State.logRecords (s : State) (q : QueueId) (position count : Nat) : List LogRecord :=
  match q with
  | .q0 => (s.reports.q0.readFrom position count).map fun x => .denial x.1 x.2
  | .q1 => (s.reports.q1.readFrom position count).map fun x => .event x.1 x.2

/-- A queue's state as replies carry it. -/
def State.queueView (s : State) (q : QueueId) : QueueView :=
  match q with
  | .q0 => s.reports.q0.view
  | .q1 => s.reports.q1.view

/-- LOG_READ's effect (R164). -/
def State.logReadOp (s : State) (h : MgmtHeader) (q : QueueId) (position count : Nat) : State :=
  s.hand h.link (.logData h.tag q .none (s.queueView q) (s.logRecords q position count))

/-- LOG_READ (R164). -/
def execLogRead (h : MgmtHeader) (q : QueueId) (position count : Nat) (s : State) :
    Host.Outcome State Fault Refusal :=
  .next (s.deliver h.link (.logRead h q position count)
    fun t => t.takeManaged h fun u => u.logReadOp h q position count)

/-! ### LOG_ACK (R165) -/

/-- The queue with its first `n` records removed. -/
def ReportQueue.removeFront {α : Type} (q : ReportQueue α) (n : Nat) : ReportQueue α :=
  { q with get := (q.get + n) % q.size, records := q.records.drop n }

/-- A queue after a LOG_ACK of a position in its span; none when it is out of span (R165). -/
def ReportQueue.acked {α : Type} (q : ReportQueue α) (position : Nat) : Option (ReportQueue α) :=
  (q.spanOffset position).map fun d => q.removeFront (d + 1)

/-- The part after a LOG_ACK in the span; none when it is out of span. -/
def State.ackQueue (s : State) (q : QueueId) (position : Nat) : Option State :=
  match q with
  | .q0 => (s.reports.q0.acked position).map fun x => { s with reports := { s.reports with q0 := x } }
  | .q1 => (s.reports.q1.acked position).map fun x => { s with reports := { s.reports with q1 := x } }

/-- LOG_ACK's effect (R165). -/
def State.logAckOp (s : State) (h : MgmtHeader) (q : QueueId) (position : Nat) : State :=
  match s.ackQueue q position with
  | some t => t.hand h.link (.logData h.tag q .acked (t.queueView q) [])
  | none => (s.raise .ackRange).hand h.link (.logData h.tag q .outOfSpan (s.queueView q) [])

/-- LOG_ACK (R165). -/
def execLogAck (h : MgmtHeader) (q : QueueId) (position : Nat) (s : State) :
    Host.Outcome State Fault Refusal :=
  .next (s.deliver h.link (.logAck h q position)
    fun t => t.takeManaged h fun u => u.logAckOp h q position)

/-! ### FLAGS_CLEAR and NOTIFY_CLEAR (R167, R170) -/

/-- A domain value above 1023 is treated as 1023 (R167). -/
def clampDomain (d : DomainNo) : Nat := min d.toNat 1023

/-- FLAGS_CLEAR's effect (R167). -/
def State.clearFlags (s : State) (first last : DomainNo) : State × ControlOutcome :=
  let clear (d : Nat) (v : Violation) : Violation :=
    if clampDomain first ≤ d ∧ d ≤ clampDomain last then v.warm else v
  ({ s with reports := { s.reports with
      violations := Table.mapListed Violation.none clear s.reports.violations } }, .accepted)

/-- CONTROL FLAGS_CLEAR (R167). -/
def execFlagsClear (h : MgmtHeader) (first last : DomainNo) (s : State) :
    Host.Outcome State Fault Refusal :=
  .next (s.deliver h.link (.flagsClear h first last)
    fun t => t.takeControl h fun u => u.clearFlags first last)

/-- A queue whose lost flag is cleared when its status is named (R170). -/
def ReportQueue.clearLost {α : Type} (q : ReportQueue α) (named : Bool) : ReportQueue α :=
  if named then { q with lost := false } else q

/-- NOTIFY_CLEAR's effect (R170). It leaves the causes of its event as they are: an enabled WATCH_HIT that its own
authority test raised sends its NOTIFY, with the status set that the clear leaves (DEDUCED, log entry 40). -/
def State.clearStatuses (s : State) (names : StatusSet) : State × ControlOutcome :=
  ({ s with reports := { s.reports with
      status := s.reports.status &&& ~~~names
      q0 := s.reports.q0.clearLost (StatusSet.has names .q0Lost)
      q1 := s.reports.q1.clearLost (StatusSet.has names .q1Lost) } }, .accepted)

/-- CONTROL NOTIFY_CLEAR (R170). -/
def execNotifyClear (h : MgmtHeader) (statuses : StatusSet) (s : State) :
    Host.Outcome State Fault Refusal :=
  .next (s.deliver h.link (.notifyClear h statuses)
    fun t => t.takeControl h fun u => u.clearStatuses statuses)

end Sys2Proof.Machine
end

