-- ==== Sys2Proof/Machine/Params.lean ====
section
/-! DEFINITION. The parameter space: CFG_READ, CFG_WRITE, and the parameters whose write has a behaviour of its
own (section 12.4 and the owning rules). -/

namespace Sys2Proof.Machine

/-! ### Codes and clamping -/

/-- A flag as a parameter value. R22, R34, R149 and R178 say which written values are no or clear, and not which number
a yes or a set reads back as: it is 1, in CFG_READ and CFG_WRITE (DESIGN CHOICE, log entry 44; SWEEP_ENABLE: log entry
37). -/
def flagCode (b : Bool) : Nat := if b then 1 else 0

/-- WINDOW_MODE codes (R22). -/
def modeCode : WindowMode → Nat
  | .tagged => 0 | .openAll => 1 | .platformOnly => 2 | .closed => 3

def modeOfCode (v : Nat) : WindowMode :=
  if v = 0 then .tagged else if v = 1 then .openAll else if v = 2 then .platformOnly else .closed

/-- WINDOW_GRANULE is a shift (R22). -/
def granuleOfShift (v : Nat) : GranuleSize := if v = 21 then .mib2 else .kib4

/-- CLASS_KIND codes (R34). -/
def kindCode : ElementKind → Nat
  | .exact => 0 | .range => 1 | .masked => 2

def kindOfCode (v : Nat) : ElementKind := if v = 1 then .range else if v = 2 then .masked else .exact

/-- CLASS_ACTION codes (R34). -/
def actionCode : ElementAction → Nat
  | .block => 0 | .domain => 1

def actionOfCode (v : Nat) : ElementAction := if v = 1 then .domain else .block

/-- LINK_EXPECT_ROLE codes (R177): none is ANY. -/
def roleCode : Option Role → Nat
  | none => 0 | some .socket => 1 | some .ioRoot => 2

def expectOfCode (v : Nat) : Option Role :=
  if v = 1 then some .socket else if v = 2 then some .ioRoot else none

/-- Q0_MODE and Q1_MODE codes (R166). -/
def queueModeCode : QueueMode → Nat
  | .blocking => 0 | .overwrite => 1

def queueModeOfCode (v : Nat) : QueueMode := if v = 1 then .overwrite else .blocking

/-- A value stored within bounds: below as the lower, above as the upper. -/
def clamp (lo hi v : Nat) : Nat := min (max v lo) hi

/-- WINDOW_BASE: bits 52 and above and bits 0 to 11 taken as 0 (R22). -/
def baseOfValue (v : Quad) : PAddr := (v.setWidth 52) &&& 0xFFFFFFFFFF000#52

/-! ### Reading (R193) -/

/-- A field of a window as CFG_DATA gives it (R22); an enabled window reads WINDOW_ENABLE as 1 (DESIGN CHOICE, log
entry 44). -/
def Window.field (w : Window) : WindowField → Nat
  | .enable => flagCode w.enabled
  | .base => w.base.toNat
  | .size => w.size
  | .granule => w.granule.shift
  | .tagBase => w.tagBase
  | .mode => modeCode w.mode

/-- A field of a classifier element as CFG_DATA gives it (R34); a yes in CLASS_WATCH or CLASS_ENABLE reads as 1 (DESIGN
CHOICE, log entry 44). -/
def Element.field (e : Element) : ElementField → Nat
  | .kind => kindCode e.kind
  | .first => e.first.toNat
  | .second => e.second.toNat
  | .links => e.links.toNat
  | .action => actionCode e.action
  | .domain => e.domain.toNat
  | .watch => flagCode e.watch
  | .enable => flagCode e.enabled

/-- A field of a non-match policy as CFG_DATA gives it: NONMATCH_ACTION by its codes 0 and 1 (R34). -/
def NonMatch.field (n : NonMatch) : NonMatchField → Nat
  | .action => flagCode n.isDomain
  | .domain => n.domain.toNat

/-- A copy of the policy. -/
def State.policy (s : State) : Copy → PolicyCopy
  | .shadow => s.shadow
  | .active => s.active

/-- A value of a link, when the number names one. -/
def State.ofLink (s : State) (l : Nat) (f : Link → CfgValue) : Option CfgValue :=
  (linkOf l).map fun i => f (s.link i)

/-- The state of a queue as QUEUE_STATE gives it (R158). -/
def queueValue (v : QueueView) : CfgValue := .queue v.put v.get v.fill v.full v.lost

/-- The queue a number names. -/
def queueOf (n : Nat) : Option QueueId := if n = 0 then some .q0 else if n = 1 then some .q1 else none

/-- Size, mode and watermark of a queue. -/
def State.queueSizeOf (s : State) : QueueId → Nat
  | .q0 => s.reports.q0.size
  | .q1 => s.reports.q1.size

def State.queueModeOf (s : State) : QueueId → QueueMode
  | .q0 => s.reports.q0.mode
  | .q1 => s.reports.q1.mode

def State.queueWatermarkOf (s : State) : QueueId → Nat
  | .q0 => s.reports.q0.watermark
  | .q1 => s.reports.q1.watermark

/-- What CHAIN_PROGRESS gives (R133). -/
def Channel.progress (k : Channel) : ChainProgress :=
  { state := k.state, fetchLink := k.fetchLink, notifyAddr := k.notifyAddr
    notifyValue := k.notifyValue, blockAddr := k.blockAddr, blockHeld := k.block.isSome
    rangeFirst := k.rangeFirst, rangeCount := k.rangeCount, nextOffset := k.nextOffset
    inFence := k.inFence, done := k.done, failed := k.failed, firstFailed := k.firstFailed
    stopRequested := k.stopRequested, errorStop := k.errorStop, linkLost := k.linkLost
    memRequest := k.memRequest, sequence := k.sequence }

/-- What RETIRE_STATUS gives (R114). -/
def RetireScanner.status (r : RetireScanner) : CfgValue :=
  if r.running then .retire (some r.domain) r.position r.stepsInFence else .retire none none 0

/-- The lowest-numbered domain whose violation flag is set (R167). -/
def State.violationFirst (s : State) : Option Nat :=
  (s.reports.violations.find? fun p => p.2.flag).map Prod.fst

/-- A parameter's value at this event; none when a qualifier lies beyond its range (R193). An ADMISSION that is set
reads as 1 (DESIGN CHOICE, log entry 44). -/
def State.readParam (s : State) : Param → Option CfgValue
  | .storeGeometry => some (.optional s.store.geometry)
  | .window f w c => if w < 16 then some (.num (((s.policy c).window w).field f)) else none
  | .classLength c => some (.num (s.policy c).length)
  | .classElement f e c => if e < 256 then some (.num (((s.policy c).element e).field f)) else none
  | .nonMatch f l c => (linkOf l).map fun i => .num (((s.policy c).nonMatch[i]).field f)
  | .admission l => s.ofLink l fun k => .num (flagCode k.admission)
  | .linkExpectRole l => s.ofLink l fun k => .num (roleCode k.expectRole)
  | .linkMinRevision l => s.ofLink l fun k => .num k.minRevision
  | .errorThreshold => some (.num s.errorThreshold)
  | .errorMode l => s.ofLink l fun k => .num k.errorMode.toNat
  | .faultMask l => s.ofLink l fun k => .num k.faultMask.toNat
  | .errorCounter l t => s.ofLink l fun k => .counter (k.counters.get t)
  | .revokeTimeout => some (.num s.revokeTimeout)
  | .memoryTimeout => some (.num s.memoryTimeout)
  | .queueSize q => some (.num (s.queueSizeOf q))
  | .queueMode q => some (.num (queueModeCode (s.queueModeOf q)))
  | .queueWatermark q => some (.num (s.queueWatermarkOf q))
  | .notifyEnable => some (.num s.reports.enable.toNat)
  | .notifyLinks => some (.num s.reports.notifyLinks.toNat)
  | .pacer .x => some (.num s.sweep.pacerX)
  | .pacer .a => some (.num s.sweep.pacerA)
  | .pacer .b => some (.num s.sweep.pacerB)
  | .sweepEnable => some (.num (flagCode s.sweep.enable))
  | .pacerPhaseMode => some (.num (flagCode s.sweep.restart))
  | .deviceMode => some (.mode s.mode)
  | .leadLink => some (.num s.leadLink.val)
  | .timeBase => some (.num s.timeBase.toNat)
  | .tableValid => some (.flag s.store.tableValid)
  | .tableInitProgress => some (.num s.store.initProgress)
  | .watchReport => some (.watch s.watchReport)
  | .openChecks l => (linkOf l).map fun i => .num (s.openCount i)
  | .oldEpochOpen => some (.num s.oldEpochCount)
  | .directoryInUse => some (.num s.directory.length)
  | .directoryMisses => some (.num s.directoryMisses)
  | .flushOutstanding l => s.ofLink l fun k => .flag k.flushOutstanding
  | .fenceInUse => some (.num s.fence.length)
  | .directQueueFill => some (.num s.directQueue.length)
  | .domainEntry d => if d < 1024 then some (.domain (s.domainEntry (BitVec.ofNat 16 d))) else none
  | .retireStatus => some s.retire.status
  | .chainProgress c => if h : c < 2 then some (.chain (s.chan ⟨c, h⟩).progress) else none
  | .policyEpoch => some (.num s.epoch.toNat)
  | .commitPhase => some (.phase s.phase s.flushSet)
  | .pacerState => some (.pacer s.sweep.phase s.sweep.residue s.sweep.creditPending)
  | .sweepSlips => some (.num s.sweep.slips)
  | .sweepPosition => some (.position s.sweep.window s.sweep.offset)
  | .sweepPasses => some (.num s.sweep.passes)
  | .quarantineList => some (.granules s.sweep.requests)
  | .errorCapture => some (.capture s.sweep.capture s.sweep.overflow)
  | .queueState q => (queueOf q).map fun i => queueValue (s.queueView i)
  | .domainViolation d => if d < 1024 then some (.violation (s.violation d)) else none
  | .violationFirst => some (.optional s.violationFirst)
  | .notifyStatus => some (.num s.reports.status.toNat)
  | .linkState l => s.ofLink l fun k =>
      .link k.state k.announced k.lastReply k.lastFault k.sessionCount

/-! ### Writes with a behaviour of their own -/

/-- STORE_GEOMETRY (R10). -/
def clampGeometry (v : Quad) : Nat := clamp 24 28 v.toNat

/-- Every owned count above a capacity is set to it (R10). -/
def capOwned (capacity : Nat) (_ : Nat) (e : DomainEntry) : DomainEntry :=
  { e with owned := min e.owned capacity }

/-- An accepted write of STORE_GEOMETRY (R10, R11). -/
def State.takeGeometry (s : State) (g : Nat) : State :=
  { s with
    store := { s.store with geometry := some g, tableValid := false }
    domains := Table.mapListed { state := .absent, owned := 0 } (capOwned (2 ^ g)) s.domains }

/-- A write of STORE_GEOMETRY (R10). -/
def State.writeGeometry (s : State) (v : Quad) : State × CfgOutcome :=
  if s.mode = .operating then (s, .refused .badAccess)
  else if s.store.initRunning then (s, .refused .tableBusy)
  else if s.active.windowList.any fun x => x.2.beyond (2 ^ clampGeometry v) then (s, .refused .range)
  else if !s.fence.isEmpty || !s.store.softQueue.isEmpty || !s.sweep.requests.isEmpty then
    (s, .refused .tableBusy)
  else (s.takeGeometry (clampGeometry v), .done)

/-- A write of a link's ADMISSION (R178, R179). -/
def State.writeAdmission (s : State) (l : LinkId) (v : Quad) : State :=
  let set := v != 0
  let t := s.updLink l fun k => { k with admission := set }
  match s.mode, (s.link l).state with
  | .operating, .admitWait | .operating, .held =>
    if set then t.updLink l fun k => { k with state := .active } else t
  | .operating, .active => if set then t else t.holdLink l
  | _, _ => t

/-- A write of ERROR_COUNTER (R186). -/
def State.writeCounter (s : State) (l : LinkId) (t : CounterType) : State :=
  s.updLink l fun k => { k with counters := k.counters.set t Counter.zero }

/-- A write of Q0_SIZE or Q1_SIZE (R166). -/
def State.writeQueueSize (s : State) (q : QueueId) (v : Quad) : State :=
  let r := s.reports
  match q with
  | .q0 =>
    let n := min v.toNat Config.reportPlaces
    { s with reports := { r with
        q0 := { r.q0.emptied with size := n }
        q1 := { r.q1.emptied with size := min r.q1.size (Config.reportPlaces - n) } } }
  | .q1 =>
    { s with reports := { r with
        q0 := r.q0.emptied
        q1 := { r.q1.emptied with size := min v.toNat (Config.reportPlaces - r.q0.size) } } }

/-- A write of NOTIFY_ENABLE: a NOTIFY is due for statuses already set whose enables the write sets (R169). -/
def State.writeEnable (s : State) (v : Quad) : State :=
  let new : StatusSet := v.setWidth 13
  { s with reports := { s.reports with
    enable := new
    notifyDue := s.reports.notifyDue ||| (new &&& ~~~s.reports.enable &&& s.reports.status) } }

/-- What a write of a pacer parameter does to the running arithmetic (R149). -/
def SweepState.restarted (w : SweepState) : SweepState :=
  if w.restart then { w with phase := 0, residue := 0 } else w

/-- A write of PACER_X, PACER_A or PACER_B (R149). -/
def State.writePacer (s : State) (p : PacerParam) (v : Quad) : State :=
  let n := v.toNat % 4294967296
  match p with
  | .x => { s with sweep := { s.sweep with pacerX := n }.restarted }
  | .a => { s with sweep := { s.sweep with pacerA := n }.restarted }
  | .b => { s with sweep := { s.sweep with pacerB := n }.restarted }

/-- A write of SWEEP_ENABLE: a write from set to clear sets credit-pending to no (R149). The spec gives the values
no codes: 0 is clear and every other value set, read back as 1 (DESIGN CHOICE, log entry 37). -/
def State.writeSweepEnable (s : State) (v : Quad) : State :=
  let set := v != 0
  { s with sweep := { s.sweep with
    enable := set
    creditPending := if s.sweep.enable && !set then false else s.sweep.creditPending } }

/-! ### Writing (R194) -/

/-- A window field as a CFG_WRITE stores it (R22). -/
def Window.store (w : Window) (f : WindowField) (v : Quad) : Window :=
  match f with
  | .enable => { w with enabled := v != 0 }
  | .base => { w with base := baseOfValue v }
  | .size => { w with size := min v.toNat 268435456 }
  | .granule => { w with granule := granuleOfShift v.toNat }
  | .tagBase => { w with tagBase := min v.toNat 268435455 }
  | .mode => { w with mode := modeOfCode v.toNat }

/-- A classifier element field as a CFG_WRITE stores it (R34). -/
def Element.store (e : Element) (f : ElementField) (v : Quad) : Element :=
  match f with
  | .kind => { e with kind := kindOfCode v.toNat }
  | .first => { e with first := v.setWidth 16 }
  | .second => { e with second := v.setWidth 16 }
  | .links => { e with links := v.setWidth 4 }
  | .action => { e with action := actionOfCode v.toNat }
  | .domain => { e with domain := v.setWidth 16 }
  | .watch => { e with watch := v != 0 }
  | .enable => { e with enabled := v != 0 }

/-- A non-match policy field as a CFG_WRITE stores it (R34). -/
def NonMatch.store (n : NonMatch) (f : NonMatchField) (v : Quad) : NonMatch :=
  match f with
  | .action => { n with isDomain := v == 1 }
  | .domain => { n with domain := v.setWidth 16 }

/-- The shadow copy with a window field written (R22). -/
def State.writeWindow (s : State) (f : WindowField) (w : Fin 16) (v : Quad) : State :=
  { s with shadow := { s.shadow with
    windows := s.shadow.windows.set w.val ((s.shadow.windows[w]).store f v) w.isLt } }

/-- The shadow copy with an element field written (R34). -/
def State.writeElement (s : State) (f : ElementField) (e : Nat) (v : Quad) : State :=
  { s with shadow := { s.shadow with
    elements := Table.set Element.reset s.shadow.elements e ((s.shadow.element e).store f v) } }

/-- The shadow copy with a non-match policy field written (R34). -/
def State.writeNonMatch (s : State) (f : NonMatchField) (l : LinkId) (v : Quad) : State :=
  { s with shadow := { s.shadow with
    nonMatch := s.shadow.nonMatch.set l.val ((s.shadow.nonMatch[l]).store f v) l.isLt } }

/-- A write of a queue's mode (R166). -/
def State.writeQueueMode (s : State) (q : QueueId) (v : Quad) : State :=
  let m := queueModeOfCode v.toNat
  match q with
  | .q0 => { s with reports := { s.reports with q0 := { s.reports.q0 with mode := m } } }
  | .q1 => { s with reports := { s.reports with q1 := { s.reports.q1 with mode := m } } }

/-- A write of a queue's watermark (R166). -/
def State.writeWatermark (s : State) (q : QueueId) (v : Quad) : State :=
  let n := min v.toNat Config.reportPlaces
  match q with
  | .q0 => { s with reports := { s.reports with q0 := { s.reports.q0 with watermark := n } } }
  | .q1 => { s with reports := { s.reports with q1 := { s.reports.q1 with watermark := n } } }

/-- A write of a parameter named with a link number. -/
def State.linkWrite (s : State) (l : Nat) (f : LinkId → State) : State × CfgOutcome :=
  match linkOf l with
  | some i => (f i, .done)
  | none => (s, .refused .badIndex)

/-- A write refused BAD_ACCESS, or BAD_INDEX when a qualifier lies beyond its range (R193, R194; log entry
15). -/
def State.refuseWrite (s : State) (p : Param) : State × CfgOutcome :=
  (s, .refused (if (s.readParam p).isSome then .badAccess else .badIndex))

/-- A CFG_WRITE of a parameter (R194 and the owning rules). FAULT_MASK takes bits 0 to 2, as ERROR_MODE does, and its
higher bits as 0 (DEDUCED, log entry 41). -/
def State.writeParam (s : State) (p : Param) (v : Quad) : State × CfgOutcome :=
  match p with
  | .storeGeometry => s.writeGeometry v
  | .window f w .shadow =>
    if h : w < 16 then (s.writeWindow f ⟨w, h⟩ v, .done) else (s, .refused .badIndex)
  | .classLength .shadow =>
    ({ s with shadow := { s.shadow with length := min v.toNat 256 } }, .done)
  | .classElement f e .shadow =>
    if e < 256 then (s.writeElement f e v, .done) else (s, .refused .badIndex)
  | .nonMatch f l .shadow => s.linkWrite l fun i => s.writeNonMatch f i v
  | .admission l => s.linkWrite l fun i => s.writeAdmission i v
  | .linkExpectRole l => s.linkWrite l fun i =>
      s.updLink i fun k => { k with expectRole := expectOfCode v.toNat }
  | .linkMinRevision l => s.linkWrite l fun i =>
      s.updLink i fun k => { k with minRevision := clamp 1 15 v.toNat }
  | .errorThreshold => ({ s with errorThreshold := clamp 1 255 v.toNat }, .done)
  | .errorMode l => s.linkWrite l fun i => s.updLink i fun k => { k with errorMode := v.setWidth 3 }
  | .faultMask l => s.linkWrite l fun i => s.updLink i fun k => { k with faultMask := v.setWidth 3 }
  | .errorCounter l t => s.linkWrite l fun i => s.writeCounter i t
  | .revokeTimeout => ({ s with revokeTimeout := clamp 1 1023 v.toNat }, .done)
  | .memoryTimeout => ({ s with memoryTimeout := clamp 1 255 v.toNat }, .done)
  | .queueSize q => (s.writeQueueSize q v, .done)
  | .queueMode q => (s.writeQueueMode q v, .done)
  | .queueWatermark q => (s.writeWatermark q v, .done)
  | .notifyEnable => (s.writeEnable v, .done)
  | .notifyLinks => ({ s with reports := { s.reports with notifyLinks := v.setWidth 4 } }, .done)
  | .pacer q => (s.writePacer q v, .done)
  | .sweepEnable => (s.writeSweepEnable v, .done)
  | .pacerPhaseMode => ({ s with sweep := { s.sweep with restart := v == 1 } }, .done)
  | p => s.refuseWrite p

/-- CFG_DATA of a CFG_WRITE, after its effect: the value stored, which a refused write left as it was; none for
BAD_INDEX (R193; log entry 15). -/
def replyWrite (h : MgmtHeader) (p : Param) (r : State × CfgOutcome) : State :=
  r.1.hand h.link (.cfgData h.tag p r.2 (if r.2 = .refused .badIndex then none else r.1.readParam p))

/-- A CFG_WRITE that passed the stages (R193, R194). -/
def State.cfgWriteOp (s : State) (h : MgmtHeader) (p : Param) (v : Quad) : State :=
  replyWrite h p (s.writeParam p v)

/-- CFG_WRITE (R194; log entry 21). -/
def execCfgWrite (h : MgmtHeader) (p : Param) (value : Quad) (s : State) :
    Host.Outcome State Fault Refusal :=
  .next (s.deliver h.link (.cfgWrite h p value)
    fun t => t.takeManaged h fun u => u.cfgWriteOp h p value)

/-- CFG_WRITE of STORE_GEOMETRY (R10). -/
def execStoreGeometry (h : MgmtHeader) (value : Quad) (s : State) : Host.Outcome State Fault Refusal :=
  .next (s.deliver h.link (.storeGeometry h value)
    fun t => t.takeManaged h fun u => replyWrite h .storeGeometry (u.writeGeometry value))

/-- CFG_WRITE of a link's ADMISSION (R178). -/
def execAdmission (h : MgmtHeader) (l : Nat) (value : Quad) (s : State) :
    Host.Outcome State Fault Refusal :=
  .next (s.deliver h.link (.admission h l value)
    fun t => t.takeManaged h fun u =>
      replyWrite h (.admission l) (u.linkWrite l fun i => u.writeAdmission i value))

/-- CFG_WRITE of an ERROR_COUNTER (R186). -/
def execErrorCounter (h : MgmtHeader) (l : Nat) (t : CounterType) (value : Quad) (s : State) :
    Host.Outcome State Fault Refusal :=
  .next (s.deliver h.link (.errorCounter h l t value)
    fun u => u.takeManaged h fun w =>
      replyWrite h (.errorCounter l t) (w.linkWrite l fun i => w.writeCounter i t))

/-- CFG_WRITE of Q0_SIZE or Q1_SIZE (R166). -/
def execQueueSizeWrite (h : MgmtHeader) (q : QueueId) (value : Quad) (s : State) :
    Host.Outcome State Fault Refusal :=
  .next (s.deliver h.link (.queueSizeWrite h q value)
    fun t => t.takeManaged h fun u =>
      replyWrite h (.queueSize q) (u.writeQueueSize q value, .done))

/-- CFG_WRITE of NOTIFY_ENABLE (R169). -/
def execNotifyEnable (h : MgmtHeader) (value : Quad) (s : State) : Host.Outcome State Fault Refusal :=
  .next (s.deliver h.link (.notifyEnable h value)
    fun t => t.takeManaged h fun u => replyWrite h .notifyEnable (u.writeEnable value, .done))

/-- CFG_WRITE of PACER_X, PACER_A or PACER_B (R149). -/
def execPacerParameterWrite (h : MgmtHeader) (p : PacerParam) (value : Quad) (s : State) :
    Host.Outcome State Fault Refusal :=
  .next (s.deliver h.link (.pacerParameterWrite h p value)
    fun t => t.takeManaged h fun u => replyWrite h (.pacer p) (u.writePacer p value, .done))

/-- CFG_WRITE of SWEEP_ENABLE (R149). -/
def execSweepEnable (h : MgmtHeader) (value : Quad) (s : State) : Host.Outcome State Fault Refusal :=
  .next (s.deliver h.link (.sweepEnable h value)
    fun t => t.takeManaged h fun u => replyWrite h .sweepEnable (u.writeSweepEnable value, .done))

/-- CFG_READ's effect: the value, or BAD_INDEX (R193). -/
def State.cfgReadOp (s : State) (h : MgmtHeader) (p : Param) : State :=
  match s.readParam p with
  | some v => s.hand h.link (.cfgData h.tag p .done (some v))
  | none => s.hand h.link (.cfgData h.tag p (.refused .badIndex) none)

/-- CFG_READ (R193). -/
def execCfgRead (h : MgmtHeader) (p : Param) (s : State) : Host.Outcome State Fault Refusal :=
  .next (s.deliver h.link (.cfgRead h p) fun t => t.takeManaged h fun u => u.cfgReadOp h p)

end Sys2Proof.Machine
end

