-- ==== Sys2Proof/Machine/Outbound.lean ====
section
/-! DEFINITION. The sending of messages and the taking of the frames a link held for want of a place (R184). -/

namespace Sys2Proof.Machine

/-- Take a frame that a link held, by the rule of its command; other commands are never held. -/
def State.takeFrame (s : State) : Instr → State
  | .announce l m => s.takeAnnounce l m
  | .frameRejected l why => s.takeRejected l why
  | .check l m => s.takeCheck l m
  | .drop l g => s.takeDrop l g
  | .revokeAck l g n => s.takeRevokeAck l g n
  | .flushAck l => s.takeFlushAck l
  | .memData l t d => s.takeMemData l t d
  | .memDone l t => s.takeMemDone l t
  | .assign h r d pa label => s.takeTagcmd h r (.assign d pa label)
  | .release h r d => s.takeTagcmd h r (.release d)
  | .share h r d e rights => s.takeTagcmd h r (.share d e rights)
  | .unshare h r d e => s.takeTagcmd h r (.unshare d e)
  | .transfer h r d e => s.takeTagcmd h r (.transfer d e)
  | .setAttr h r d pa label => s.takeTagcmd h r (.setAttr d pa label)
  | .rebuild h r c => s.takeTagcmd h r (.rebuild c)
  | .commit h => s.takeControl h State.commitOp
  | .tableInit h => s.takeControl h State.startInit
  | .start h => s.takeControl h fun u => u.startOp h.source
  | .domainOpen h d => s.takeControl h fun u => u.openDomain d
  | .domainRetire h d => s.takeControl h fun u => u.retireDomain d
  | .chainStart h a => s.takeControl h fun u => u.chainStartOp a
  | .chainStop h c => s.takeControl h fun u => u.onChannel c u.chainStopOp
  | .chainResume h c => s.takeControl h fun u => u.onChannel c u.chainResumeOp
  | .chainCancel h c => s.takeControl h fun u => u.onChannel c u.chainCancelOp
  | .chainStatus h c => s.takeControl h fun u => u.onChannel c u.chainStatusOp
  | .captureClear h => s.takeControl h State.clearCapture
  | .flagsClear h a b => s.takeControl h fun u => u.clearFlags a b
  | .notifyClear h n => s.takeControl h fun u => u.clearStatuses n
  | .logRead h q p n => s.takeManaged h fun u => u.logReadOp h q p n
  | .logAck h q p => s.takeManaged h fun u => u.logAckOp h q p
  | .tagRead h i n => s.takeManaged h fun u => u.queueSoftware h i (u.readRequest h i n)
  | .tagScan h i w o => s.takeManaged h fun u => u.queueSoftware h i (u.scanRequest h i w o)
  | .cfgWrite h p v => s.takeManaged h fun u => u.cfgWriteOp h p v
  | .storeGeometry h v =>
    s.takeManaged h fun u => replyWrite h .storeGeometry (u.writeGeometry v)
  | .admission h l v =>
    s.takeManaged h fun u =>
      replyWrite h (.admission l) (u.linkWrite l fun i => u.writeAdmission i v)
  | .errorCounter h l t _ =>
    s.takeManaged h fun u =>
      replyWrite h (.errorCounter l t) (u.linkWrite l fun i => u.writeCounter i t)
  | .queueSizeWrite h q v =>
    s.takeManaged h fun u => replyWrite h (.queueSize q) (u.writeQueueSize q v, .done)
  | .notifyEnable h v =>
    s.takeManaged h fun u => replyWrite h .notifyEnable (u.writeEnable v, .done)
  | .pacerParameterWrite h p v =>
    s.takeManaged h fun u => replyWrite h (.pacer p) (u.writePacer p v, .done)
  | .sweepEnable h v =>
    s.takeManaged h fun u => replyWrite h .sweepEnable (u.writeSweepEnable v, .done)
  | .cfgRead h p => s.takeManaged h fun u => u.cfgReadOp h p
  | .powerOnReset _ | .warmReset _ | .timeBaseAdvance | .pacerTick | .sweepCredit
  | .linkSignalAppears _ | .alignmentCompletes _ | .linkSignalLoss _ | .announceTimerExpiry _
  | .revokeTimerExpiry _ | .flushTimerExpiry _ | .memoryTimerExpiry _ | .recordReadGrant
  | .verdictIssue _ | .fenceAllocation | .granuleOutOfRange _ | .commandReadGrant
  | .fenceWriteGrant | .directoryConsultation _ | .finalWriteGrant | .scanningReadGrant
  | .sweepReadPlacement | .sweepReadGrant | .tableInitWriteGrant | .softwareReadGrant
  | .outboundMessageSent _ => s

/-- Set the frames a link holds. -/
def State.setHeld (s : State) (l : LinkId) (fs : List Instr) : State :=
  s.updLink l fun k => { k with held := fs }

/-- Take held frames in order, each in an event of its own, until one has to wait again (R184; log entry 12). -/
def drainHeld (l : LinkId) : List Instr → State → State
  | [], s => s.setHeld l []
  | f :: rest, s =>
    if (s.link l).state.inSession then
      if s.mustHold l f then s.setHeld l (f :: rest) else drainHeld l rest (s.takeFrame f).closeEvent
    else s

/-- The message an outbound path sends next: its oldest; in ANNOUNCING its oldest ANNOUNCE_REPLY (R184). -/
def Link.sends (k : Link) : Option OutMsg :=
  match k.state with
  | .announcing => k.outbound.find? OutMsg.isAnnounceReply
  | .admitWait | .active | .held | .refused => k.outbound.head?
  | .down | .training | .faulted => none

/-- The path without the message it sent. -/
def Link.afterSend (k : Link) (m : OutMsg) : Link := { k with outbound := k.outbound.erase m }

/-- The sending of `m` frees a place that the held frame `f` waits for: a reply place, by a reply or a REFUSE; for a
CHECK, while the 64 VERDICT places are in use, one of them, by a VERDICT (R184; log entry 12). -/
def State.freesFor (s : State) (l : LinkId) (m : OutMsg) (f : Instr) : Bool :=
  (m.isReply && repliesTo f) ||
    (m.isVerdict && isCheck f && decide (Config.verdictPlaces ≤ s.verdictPlacesUsed l))

/-- OUTBOUND_MESSAGE_SENT (R184): the oldest message leaves, and when that frees a place that the first held frame
waits for, the held frames are taken. -/
def execOutboundMessageSent (l : LinkId) (s : State) : Host.Outcome State Fault Refusal :=
  match (s.link l).sends with
  | some m =>
    let t := s.updLink l fun k => k.afterSend m
    .next (if (s.link l).held.head?.any (s.freesFor l m) then drainHeld l (s.link l).held t else t)
  | none => .next s

end Sys2Proof.Machine
end

