-- ==== Sys2Proof/Machine/Dispatch.lean ====
section
/-! DEFINITION. One arm for each command: its meaning. -/

namespace Sys2Proof.Machine

/-- The effect of a command on everything but the queue. -/
def exec (i : Instr) (s : State) : Host.Outcome State Fault Refusal :=
  match i with
  | .powerOnReset strap => Sys2Proof.Machine.execPowerOnReset strap s
  | .warmReset strap => Sys2Proof.Machine.execWarmReset strap s
  | .timeBaseAdvance => Sys2Proof.Machine.execTimeBaseAdvance s
  | .pacerTick => Sys2Proof.Machine.execPacerTick s
  | .sweepCredit => Sys2Proof.Machine.execSweepCredit s
  | .linkSignalAppears l => Sys2Proof.Machine.execLinkSignalAppears l s
  | .alignmentCompletes l => Sys2Proof.Machine.execAlignmentCompletes l s
  | .linkSignalLoss l => Sys2Proof.Machine.execLinkSignalLoss l s
  | .announceTimerExpiry l => Sys2Proof.Machine.execAnnounceTimerExpiry l s
  | .revokeTimerExpiry granule => Sys2Proof.Machine.execRevokeTimerExpiry granule s
  | .flushTimerExpiry l => Sys2Proof.Machine.execFlushTimerExpiry l s
  | .memoryTimerExpiry c => Sys2Proof.Machine.execMemoryTimerExpiry c s
  | .announce l m => Sys2Proof.Machine.execAnnounce l m s
  | .frameRejected l why => Sys2Proof.Machine.execFrameRejected l why s
  | .check l m => Sys2Proof.Machine.execCheck l m s
  | .drop l granule => Sys2Proof.Machine.execDrop l granule s
  | .revokeAck l granule generation => Sys2Proof.Machine.execRevokeAck l granule generation s
  | .flushAck l => Sys2Proof.Machine.execFlushAck l s
  | .memData l tag data => Sys2Proof.Machine.execMemData l tag data s
  | .memDone l tag => Sys2Proof.Machine.execMemDone l tag s
  | .assign h r d platformAccess label => Sys2Proof.Machine.execAssign h r d platformAccess label s
  | .release h r d => Sys2Proof.Machine.execRelease h r d s
  | .share h r d e rights => Sys2Proof.Machine.execShare h r d e rights s
  | .unshare h r d e => Sys2Proof.Machine.execUnshare h r d e s
  | .transfer h r d e => Sys2Proof.Machine.execTransfer h r d e s
  | .setAttr h r d platformAccess label => Sys2Proof.Machine.execSetAttr h r d platformAccess label s
  | .rebuild h r content => Sys2Proof.Machine.execRebuild h r content s
  | .commit h => Sys2Proof.Machine.execCommit h s
  | .tableInit h => Sys2Proof.Machine.execTableInit h s
  | .start h => Sys2Proof.Machine.execStart h s
  | .domainOpen h d => Sys2Proof.Machine.execDomainOpen h d s
  | .domainRetire h d => Sys2Proof.Machine.execDomainRetire h d s
  | .chainStart h a => Sys2Proof.Machine.execChainStart h a s
  | .chainStop h channel => Sys2Proof.Machine.execChainStop h channel s
  | .chainResume h channel => Sys2Proof.Machine.execChainResume h channel s
  | .chainCancel h channel => Sys2Proof.Machine.execChainCancel h channel s
  | .chainStatus h channel => Sys2Proof.Machine.execChainStatus h channel s
  | .captureClear h => Sys2Proof.Machine.execCaptureClear h s
  | .flagsClear h first last => Sys2Proof.Machine.execFlagsClear h first last s
  | .notifyClear h statuses => Sys2Proof.Machine.execNotifyClear h statuses s
  | .logRead h q position count => Sys2Proof.Machine.execLogRead h q position count s
  | .logAck h q position => Sys2Proof.Machine.execLogAck h q position s
  | .tagRead h index count => Sys2Proof.Machine.execTagRead h index count s
  | .tagScan h first wanted owner => Sys2Proof.Machine.execTagScan h first wanted owner s
  | .cfgWrite h p value => Sys2Proof.Machine.execCfgWrite h p value s
  | .storeGeometry h value => Sys2Proof.Machine.execStoreGeometry h value s
  | .admission h l value => Sys2Proof.Machine.execAdmission h l value s
  | .errorCounter h l t value => Sys2Proof.Machine.execErrorCounter h l t value s
  | .queueSizeWrite h q value => Sys2Proof.Machine.execQueueSizeWrite h q value s
  | .notifyEnable h value => Sys2Proof.Machine.execNotifyEnable h value s
  | .pacerParameterWrite h p value => Sys2Proof.Machine.execPacerParameterWrite h p value s
  | .sweepEnable h value => Sys2Proof.Machine.execSweepEnable h value s
  | .recordReadGrant => Sys2Proof.Machine.execRecordReadGrant s
  | .verdictIssue l => Sys2Proof.Machine.execVerdictIssue l s
  | .fenceAllocation => Sys2Proof.Machine.execFenceAllocation s
  | .granuleOutOfRange src => Sys2Proof.Machine.execGranuleOutOfRange src s
  | .commandReadGrant => Sys2Proof.Machine.execCommandReadGrant s
  | .fenceWriteGrant => Sys2Proof.Machine.execFenceWriteGrant s
  | .directoryConsultation granule => Sys2Proof.Machine.execDirectoryConsultation granule s
  | .finalWriteGrant => Sys2Proof.Machine.execFinalWriteGrant s
  | .scanningReadGrant => Sys2Proof.Machine.execScanningReadGrant s
  | .sweepReadPlacement => Sys2Proof.Machine.execSweepReadPlacement s
  | .sweepReadGrant => Sys2Proof.Machine.execSweepReadGrant s
  | .tableInitWriteGrant => Sys2Proof.Machine.execTableInitWriteGrant s
  | .softwareReadGrant => Sys2Proof.Machine.execSoftwareReadGrant s
  | .outboundMessageSent l => Sys2Proof.Machine.execOutboundMessageSent l s
  | .cfgRead h p => Sys2Proof.Machine.execCfgRead h p s

end Sys2Proof.Machine
end

