-- ==== Sys2Proof/Safety.lean ====
section
/-! DEFINITION. The predicates the statements are written with: the invariants of the part, and the conditions
under which a frame is taken at once and a management message is carried out. -/

namespace Sys2Proof.Machine

/-! ### Invariants -/

/-- The tag DRAM is in its canonical form. -/
def State.MemoryOk (s : State) : Prop := Memory.wf s.dram

/-- R75: at most 8 fence entries, no two naming one granule; they stand in ascending granule index. -/
def State.FenceOk (s : State) : Prop :=
  s.fence.length ≤ Config.fenceEntries ∧ (s.fence.map FenceEntry.granule).Pairwise (· < ·)

/-- R28, R42: the active copy passes the validation of a commit under the present capacity. -/
def State.PolicyOk (s : State) : Prop := s.active.validate s.capacity = none

/-- R158: a queue's fill is at most its size, and its get position lies in the queue, or is 0. -/
def QueueOk {α : Type} (q : ReportQueue α) : Prop := q.fill ≤ q.size ∧ (q.get < q.size ∨ q.get = 0)

/-- R158: both queues, and the sum of their sizes. -/
def State.QueuesOk (s : State) : Prop :=
  QueueOk s.reports.q0 ∧ QueueOk s.reports.q1 ∧
    s.reports.q0.size + s.reports.q1.size ≤ Config.reportPlaces

/-- R9, R82, R118, R186: the geometry is UNSET or a code from 24 to 28, and the timeouts and the threshold lie
in their ranges. -/
def State.RangesOk (s : State) : Prop :=
  (s.store.geometry.all fun g => decide (24 ≤ g) && decide (g ≤ 28)) = true ∧
    1 ≤ s.revokeTimeout ∧ s.revokeTimeout ≤ 1023 ∧ 1 ≤ s.memoryTimeout ∧ s.memoryTimeout ≤ 255 ∧
    1 ≤ s.errorThreshold ∧ s.errorThreshold ≤ 255

/-- R143, R144: outside FLUSHING the commit flush set is empty, and in FLUSHING the flush is not yet complete. -/
def State.CommitOk (s : State) : Prop :=
  match s.phase with
  | .idle => s.flushSet = 0
  | .flushing => s.flushSet ≠ 0 ∨ s.oldEpochCount ≠ 0

/-- R185: every error counter stays in 0 to 255. -/
def State.CountersOk (s : State) : Prop :=
  ∀ l : LinkId, ∀ t : CounterType, ((s.link l).counters.get t).value ≤ 255

/-- R106: every owned count lies in 0 to the store capacity. -/
def State.OwnedOk (s : State) : Prop := ∀ p ∈ s.domains, p.2.owned ≤ s.capacity

/-- R92, R152: the direct command queue holds at most 16 commands, the quarantine request list at most 4
indices, none twice. -/
def State.ListsOk (s : State) : Prop :=
  s.directQueue.length ≤ Config.directQueueMax ∧
    s.sweep.requests.length ≤ Config.quarantineMax ∧ s.sweep.requests.Nodup

/-- The sparse tables beside the tag DRAM are in their canonical form. -/
def State.TablesOk (s : State) : Prop :=
  Table.wf { flag := false, count := 0 } s.reports.violations ∧
    Table.wf { state := .absent, owned := 0 } s.domains ∧ Table.wf none s.directory

/-- The classifier element lists of both policy copies are in their canonical form. -/
def State.ElementsOk (s : State) : Prop :=
  Table.wf Element.reset s.shadow.elements ∧ Table.wf Element.reset s.active.elements

/-- R70: every entry stands in a way of its granule index's set, no two entries name one granule index, and every
holder set is non-empty and names only links in ACTIVE or HELD. -/
def State.DirectoryOk (s : State) : Prop :=
  Table.wf none s.directory ∧
    (∀ (w : Nat) (e : DirEntry), s.dirWay w = some e →
      w < 4 * 4096 ∧ w / 4 = e.granule % 4096 ∧ e.holders ≠ 0 ∧
        ∀ l : LinkId, LinkSet.has e.holders l = true →
          (s.link l).state = .active ∨ (s.link l).state = .held) ∧
    ∀ (v w : Nat) (d e : DirEntry), s.dirWay v = some d → s.dirWay w = some e → d.granule = e.granule →
      v = w

/-- No NOTIFY is left over from an event (log entry 14). -/
abbrev State.Between (s : State) : Prop := s.reports.notifyDue = 0

/-! ### Conditions -/

/-- The link takes a frame in the event in which it is delivered: it is in a session, holds no frame back, and
has the places the frame may need (R181, R184). -/
abbrev State.Takes (s : State) (l : LinkId) (frame : Instr) : Prop :=
  (s.link l).state.inSession = true ∧ (s.link l).held = [] ∧ s.mustHold l frame = false

/-- The link takes messages other than ANNOUNCE (Table 11-2). -/
abbrev State.Serves (s : State) (l : LinkId) : Prop :=
  (s.link l).state = .admitWait ∨ (s.link l).state = .active ∨ (s.link l).state = .held

/-- A management message passes the tag, admission and authority stages; `t` is the part after the authority
test (R181, R182, R40, R41). -/
abbrev State.Passes (s : State) (h : MgmtHeader) (t : State) : Prop :=
  s.isActive h.link = true ∧ h.tag ≤ 15 ∧ s.tagOutstanding h.link h.tag = false ∧
    s.authority h = (t, true)

/-- A management message is delivered, taken at once and carried out from `t`, the part after its authority
test. -/
abbrev State.Carries (s : State) (h : MgmtHeader) (frame : Instr) (t : State) : Prop :=
  s.Takes h.link frame ∧ s.Passes h t

/-- The header of a management message (R40); none for the other commands. -/
def managedHeader : Instr → Option MgmtHeader
  | .assign h _ _ _ _ | .release h _ _ | .share h _ _ _ _ | .unshare h _ _ _ | .transfer h _ _ _
  | .setAttr h _ _ _ _ | .rebuild h _ _ | .commit h | .tableInit h | .start h | .domainOpen h _
  | .domainRetire h _ | .chainStart h _ | .chainStop h _ | .chainResume h _ | .chainCancel h _
  | .chainStatus h _ | .captureClear h | .flagsClear h _ _ | .notifyClear h _ | .logRead h _ _ _
  | .logAck h _ _ | .tagRead h _ _ | .tagScan h _ _ _ | .cfgWrite h _ _ | .storeGeometry h _
  | .admission h _ _ | .errorCounter h _ _ _ | .queueSizeWrite h _ _ | .notifyEnable h _
  | .pacerParameterWrite h _ _ | .sweepEnable h _ | .cfgRead h _ => some h
  | _ => none

/-- The frame of a TAGCMD kind; a quarantine step has none. -/
def tagcmdFrame (h : MgmtHeader) (r : RangeArg) : StepKind → Option Instr
  | .assign d p n => some (.assign h r d p n)
  | .release d => some (.release h r d)
  | .share d e q => some (.share h r d e q)
  | .unshare d e => some (.unshare h r d e)
  | .transfer d e => some (.transfer h r d e)
  | .setAttr d p n => some (.setAttr h r d p n)
  | .rebuild c => some (.rebuild h r c)
  | .quarantine => none

/-! ### What an event leaves unchanged -/

/-- No link changes but in its outbound path. -/
def State.LinksSend (s t : State) : Prop :=
  ∀ l : LinkId, t.link l = { s.link l with outbound := (t.link l).outbound }

/-- No other link than `l` changes but in its outbound path. -/
def State.OthersSend (s t : State) (l : LinkId) : Prop :=
  ∀ m : LinkId, m ≠ l → t.link m = { s.link m with outbound := (t.link m).outbound }

/-- Nothing differs but links and what a status that rises and a Q1 record touch of the Report Unit. -/
def State.OnlyReports (s t : State) : Prop :=
  t = { s with
    links := t.links
    reports := { s.reports with
      q1 := t.reports.q1, status := t.reports.status, notifyDue := t.reports.notifyDue } }

/-- Nothing differs but channel `c` and what its coming to rest reports. -/
def State.OnlyChannel (s t : State) (c : ChannelId) : Prop :=
  ({ s with chains := t.chains } : State).OnlyReports t ∧ s.LinksSend t ∧
    ∀ d : ChannelId, d ≠ c → t.chan d = s.chan d

/-- Nothing differs but what the loss of a link can touch (R17, R67, R80, R87, R131, R143, R144, R182). -/
def State.OnlyLoss (s t : State) : Prop :=
  t = { s with
    links := t.links, openChecks := t.openChecks, oldEpochCount := t.oldEpochCount
    directory := t.directory, fence := t.fence, directQueue := t.directQueue
    flushSet := t.flushSet, phase := t.phase, chains := t.chains
    store := { s.store with
      verdictQ := t.store.verdictQ, commandQ := t.store.commandQ
      softQueue := t.store.softQueue, softRead := t.store.softRead }
    reports := { s.reports with
      q1 := t.reports.q1, status := t.reports.status, notifyDue := t.reports.notifyDue } }

/-! ### What the loss of a link leaves -/

/-- Nothing of a link's session is left in the other blocks of `t`, and what `s` held of the other links' checks,
reads, requests and commands, of the channels that fetch on other links, and of every fence entry but the link and the
link's stale checks, is still there (R17, R67, R87, R131, R143, R173, R180, R182). The read of a removed head request
stays queued with its result to be discarded; without one the new head's read is placed (R17; log entry 17). A fence
entry's phase is the drains' (Settles). -/
def State.Cleared (s t : State) (l : LinkId) : Prop :=
  s.OnlyLoss t ∧ s.OthersSend t l ∧
    t.openChecks = s.openChecks.filter (fun e => e.link != l) ∧
    t.oldEpochCount =
      s.oldEpochCount - (s.openChecks.filter (fun e => e.link == l)).countP OpenCheck.oldEpoch ∧
    (s.TablesOk → ∀ w : Nat, t.dirWay w = (s.dirWay w).bind fun d =>
      if LinkSet.del d.holders l = 0 then none
      else some { granule := d.granule, holders := LinkSet.del d.holders l }) ∧
    (∀ g : Nat, LinkSet.has (t.holders g) l = false) ∧
    (∀ e ∈ t.fence, LinkSet.has e.pending l = false) ∧ t.flushSet = LinkSet.del s.flushSet l ∧
    t.store.softQueue = s.store.softQueue.filter (fun r => r.link != l) ∧
    t.directQueue = s.directQueue.map (fun e => if e.link = l then { e with inSession := false } else e) ∧
    (∀ c : ChannelId, (s.chan c).fetchLink ≠ l → t.chan c = s.chan c) ∧
    t.store.verdictQ = s.store.verdictQ.filter (fun n => n.1 != l) ∧
    t.store.softRead =
      (match if s.store.softQueue.head?.any (fun r => r.link == l)
          then s.store.softRead.map (fun x => { x with live := false }) else s.store.softRead,
        s.store.softQueue.filter (fun r => r.link != l) with
      | none, r :: _ => some { granule := r.next, live := true }
      | read, _ => read) ∧
    t.fence.map (fun e => { e with phase := .fencing }) = s.fence.map (fun e => { e with
      phase := .fencing, pending := LinkSet.del e.pending l
      timer := if LinkSet.has e.pending l = true ∧ LinkSet.del e.pending l = 0 then none else e.timer
      staleCount := e.staleCount - s.openChecks.countP
        (fun x => decide (x.link = l ∧ x.stale = true ∧ x.granule = some e.granule)) })

/-- The event from `s` to `t` ends with the drains and the commit flush that it completes, before its NOTIFY: no phase
had changed and no final write was placed until then (R80, R144; RevokeAckFrame states `settle`). -/
def State.Settles (s t : State) : Prop :=
  ∃ u : State, t = u.settle.closeEvent ∧ u.phase = s.phase ∧ u.store.commandQ = s.store.commandQ ∧
    (∀ g : Nat, (u.fenceOf g).map FenceEntry.phase = (s.fenceOf g).map FenceEntry.phase) ∧
    u.flushSet = t.flushSet ∧ u.oldEpochCount = t.oldEpochCount

/-- Nothing of a link's session is left in `t`, when other links may have left in the same event. -/
def State.Expelled (t : State) (l : LinkId) : Prop :=
  (t.link l).outbound = [] ∧ (t.link l).held = [] ∧ (t.link l).flushOutstanding = false ∧
    (t.link l).flushTimer = none ∧ (∀ e ∈ t.openChecks, e.link ≠ l) ∧
    (∀ g : Nat, LinkSet.has (t.holders g) l = false) ∧
    (∀ e ∈ t.fence, LinkSet.has e.pending l = false) ∧ LinkSet.has t.flushSet l = false ∧
    ∀ r ∈ t.store.softQueue, r.link ≠ l

end Sys2Proof.Machine
end

