-- ==== Sys2Proof/Certificates/Slice0/Obligations.lean ====
section
/-! DEFINITION. The statements about the part, one proposition each. A statement about a management message names
by `t` the part after the message's authority test; a message on the lead link in STARTUP has `t = s`. The end of
an event, `closeEvent`, hands the NOTIFY that the event makes due, as RecordsAndNotify states. -/

section Statements

open Sys2Proof Sys2Proof.Machine

/-! ### The queue of commands -/

/-- The step takes the command in front of the queue and answers what exec answers with the queue's rest; on an
empty queue the part idles, which is the model's choice (log entry 3). -/
def Obligations.StepTakesTheFront : Prop :=
  (∀ (c : Instr) (rest : List Instr) (s : State), s.pending = c :: rest →
    step s = exec c { s with pending := rest }) ∧
  ∀ s : State, s.pending = [] → step s = .next s

/-- No command changes the queue of commands. -/
def Obligations.ExecLeavesTheQueue : Prop :=
  ∀ (c : Instr) (s t : State), exec c s = .next t → t.pending = s.pending

/-! ### Resets and time -/

/-- The two resets' mode and strap, and the time base: an expiry time is computed modulo 2^48, and a timer is due
from its expiry on and stays due until it is taken, the model's choice (log entry 5). What warm reset keeps and
what it clears in every block, as the reset tables give it. -/
def Obligations.ResetsAndTimeBase : Prop :=
  (∀ (p : BitVec 2) (s : State), ∃ t, exec (.powerOnReset p) s = .next t ∧ t.mode = .startup ∧
    t.leadLink.val = p.toNat ∧ t.timeBase = 0) ∧
  (∀ (p : BitVec 2) (s : State), ∃ t, exec (.warmReset p) s = .next t ∧ t.mode = .startup ∧
    t.leadLink.val = p.toNat ∧ t.timeBase = s.timeBase) ∧
  (∀ s : State, ∃ t, exec .timeBaseAdvance s = .next t ∧ t = { s with timeBase := t.timeBase } ∧
    t.timeBase.toNat = if s.timeBase.toNat = 2 ^ 48 - 1 then 0 else s.timeBase.toNat + 1) ∧
  (∀ (s : State) (n : Nat), (s.expiryAfter n).toNat = (s.timeBase.toNat + n) % 2 ^ 48) ∧
  (∀ (s : State) (n k : Nat), n < 2 ^ 46 → k < 2 ^ 46 →
    ({ s with timeBase := s.timeBase + BitVec.ofNat 48 k } : State).reached (some (s.expiryAfter n)) =
      decide (n ≤ k)) ∧
  (∀ s : State, s.readParam .timeBase = some (.num s.timeBase.toNat)) ∧
  ∀ (p : BitVec 2) (s : State), s.TablesOk → ∃ t, exec (.warmReset p) s = .next t ∧
    t.pending = s.pending ∧ t.dram = s.dram ∧ t.shadow = s.shadow ∧ t.active = s.active ∧
    t.epoch = s.epoch ∧ t.errorThreshold = s.errorThreshold ∧ t.revokeTimeout = s.revokeTimeout ∧
    t.memoryTimeout = s.memoryTimeout ∧
    t.store = { geometry := s.store.geometry, tableValid := s.store.tableValid && !s.store.initRunning
                initRunning := false, initProgress := 0, verdictQ := [], commandQ := [], retireQ := none
                sweepQ := none, softRead := none, softTurn := .softwareRead
                passOver := { verdict := 0, command := 0, retire := 0, software := 0, sweep := 0 }
                softQueue := [] } ∧
    t.phase = .idle ∧ t.flushSet = 0 ∧ t.watchReport = none ∧
    t.openChecks = [] ∧ t.oldEpochCount = 0 ∧ t.directory = [] ∧ t.directoryMisses = 0 ∧
    t.fence = [] ∧ t.directQueue = [] ∧ t.sourcePtr = .direct ∧ t.retire.running = false ∧
    (∀ d : DomainNo, t.domainEntry d = s.domainEntry d) ∧
    (∀ d : Nat, t.violation d = { flag := false, count := (s.violation d).count }) ∧
    t.sweep = { enable := s.sweep.enable, pacerX := s.sweep.pacerX, pacerA := s.sweep.pacerA
                pacerB := s.sweep.pacerB, restart := s.sweep.restart, phase := 0, residue := 0
                creditPending := false, slips := 0, window := 0, offset := 0, passes := 0, held := none
                requests := [], capture := none, overflow := 0 } ∧
    t.reports.q0 = { s.reports.q0 with get := 0, records := [], lost := false } ∧
    t.reports.q1 = { s.reports.q1 with get := 0, records := [], lost := false } ∧
    t.reports.status = 0 ∧ t.reports.enable = s.reports.enable ∧
    t.reports.notifyLinks = s.reports.notifyLinks ∧
    (∀ c : ChannelId, t.chan c =
      { state := .idle, fetchLink := 0, notifyAddr := none, notifyValue := 0, blockAddr := 0
        block := none, rangeFirst := 0, rangeCount := 0, nextOffset := 0, inFence := 0, done := 0
        failed := 0, firstFailed := none, stopRequested := false, errorStop := false, linkLost := false
        memRequest := none, sequence := 0, termination := none, posting := .none }) ∧
    ∀ l : LinkId, t.link l =
      { state := .down, announced := none, lastReply := none, lastFault := none, sessionCount := 0
        announceTimer := none, flushOutstanding := false, flushTimer := none
        counters := { frameCheck := { value := 0, reached := false }
                      malformed := { value := 0, reached := false }
                      unexpected := { value := 0, reached := false } }
        admission := false, expectRole := (s.link l).expectRole, minRevision := (s.link l).minRevision
        errorMode := (s.link l).errorMode, faultMask := (s.link l).faultMask
        outbound := [], held := [] }

/-- What power-on reset leaves in every block, as the reset tables give it. The tag DRAM is not named: its
contents are indeterminate. -/
def Obligations.PowerOnResetValues : Prop :=
  ∀ (p : BitVec 2) (s : State), ∃ t, exec (.powerOnReset p) s = .next t ∧
    t.pending = s.pending ∧ t.epoch = 0 ∧ t.phase = .idle ∧ t.flushSet = 0 ∧ t.watchReport = none ∧
    t.errorThreshold = 255 ∧ t.revokeTimeout = 64 ∧ t.memoryTimeout = 20 ∧ t.openChecks = [] ∧
    t.oldEpochCount = 0 ∧ t.directory = [] ∧ t.directoryMisses = 0 ∧ t.fence = [] ∧
    t.directQueue = [] ∧ t.sourcePtr = .direct ∧ t.retire.running = false ∧
    t.store = { geometry := none, tableValid := false, initRunning := false, initProgress := 0
                verdictQ := [], commandQ := [], retireQ := none, sweepQ := none, softRead := none
                softTurn := .softwareRead
                passOver := { verdict := 0, command := 0, retire := 0, software := 0, sweep := 0 }
                softQueue := [] } ∧
    t.sweep = { enable := false, pacerX := 0, pacerA := 0, pacerB := 1, restart := false, phase := 0
                residue := 0, creditPending := false, slips := 0, window := 0, offset := 0
                passes := 0, held := none, requests := [], capture := none, overflow := 0 } ∧
    t.reports.q0 = { size := 3072, mode := .blocking, watermark := 0, get := 0, records := []
                     lost := false } ∧
    t.reports.q1 = { size := 1024, mode := .blocking, watermark := 0, get := 0, records := []
                     lost := false } ∧
    t.reports.status = 0 ∧ t.reports.enable = 0 ∧ t.reports.notifyLinks.toNat = 2 ^ p.toNat ∧
    (∀ d : DomainNo, t.domainEntry d = { state := if d = 0 then .active else .absent, owned := 0 }) ∧
    (∀ d : Nat, t.violation d = { flag := false, count := 0 }) ∧
    (∀ c : ChannelId, t.chan c =
      { state := .idle, fetchLink := 0, notifyAddr := none, notifyValue := 0, blockAddr := 0
        block := none, rangeFirst := 0, rangeCount := 0, nextOffset := 0, inFence := 0, done := 0
        failed := 0, firstFailed := none, stopRequested := false, errorStop := false, linkLost := false
        memRequest := none, sequence := 0, termination := none, posting := .none }) ∧
    (∀ l : LinkId, t.link l =
      { state := .down, announced := none, lastReply := none, lastFault := none, sessionCount := 0
        announceTimer := none, flushOutstanding := false, flushTimer := none
        counters := { frameCheck := { value := 0, reached := false }
                      malformed := { value := 0, reached := false }
                      unexpected := { value := 0, reached := false } }
        admission := false, expectRole := none, minRevision := 1, errorMode := 0, faultMask := 0
        outbound := [], held := [] }) ∧
    ∀ c : Copy, (t.policy c).length = 0 ∧
      (∀ w : Fin 16, (t.policy c).windows[w] =
        { enabled := false, base := 0, size := 0, granule := .kib4, tagBase := 0, mode := .closed }) ∧
      (∀ n : Nat, (t.policy c).element n =
        { kind := .exact, first := 0, second := 0, links := 0, action := .block, domain := 0
          watch := false, enabled := false }) ∧
      ∀ l : LinkId, (t.policy c).nonMatch[l] = { isDomain := false, domain := 0 }

/-- The invariants hold in the state after power-on reset. -/
def Obligations.ResetMeetsInvariants : Prop :=
  State.reset.MemoryOk ∧ State.reset.TablesOk ∧ State.reset.FenceOk ∧ State.reset.PolicyOk ∧
    State.reset.QueuesOk ∧ State.reset.RangesOk ∧ State.reset.CountersOk ∧ State.reset.OwnedOk ∧
    State.reset.ListsOk ∧ State.reset.CommitOk ∧ State.reset.Between ∧ State.reset.ElementsOk ∧
    State.reset.DirectoryOk

/-! ### The pacer -/

/-- One pacer tick while SWEEP_ENABLE is set, and no tick while it is clear; after a tick the residue is below the
effective B; the tick in which the phase sum reaches 2^32 is the one that produces a credit, and the command
SWEEP_CREDIT is that tick, as the model reads the table's two rows (log entry 6). -/
def Obligations.PacerTick : Prop :=
  (∀ s : State, s.sweep.enable = true →
    ∃ t, exec .pacerTick s = .next t ∧
      t = { s with sweep := { s.sweep with
        phase := t.sweep.phase, residue := t.sweep.residue
        creditPending := t.sweep.creditPending, slips := t.sweep.slips } } ∧
      ∃ b a r carry p : Nat,
        b = (if s.sweep.pacerB = 0 then 1 else s.sweep.pacerB) ∧
        a = (if b ≤ s.sweep.pacerA then b - 1 else s.sweep.pacerA) ∧
        r = s.sweep.residue % b + a ∧ carry = (if b ≤ r then 1 else 0) ∧
        t.sweep.residue = r - carry * b ∧ p = s.sweep.phase + s.sweep.pacerX + carry ∧
        t.sweep.phase = (if 2 ^ 32 ≤ p then p - 2 ^ 32 else p) ∧
        t.sweep.creditPending = (s.sweep.creditPending || decide (2 ^ 32 ≤ p)) ∧
        t.sweep.slips = (if 2 ^ 32 ≤ p ∧ s.sweep.creditPending = true ∧ s.sweep.slips < 65535
          then s.sweep.slips + 1 else s.sweep.slips)) ∧
  (∀ s : State, s.sweep.enable = false → exec .pacerTick s = .next s) ∧
  (∀ s t : State, s.sweep.enable = true → exec .pacerTick s = .next t →
    t.sweep.residue < t.sweep.effB) ∧
  ∀ s : State, s.sweep.enable = true → 2 ^ 32 ≤ s.sweep.phaseSum →
    exec .sweepCredit s = exec .pacerTick s ∧ ∃ t, exec .sweepCredit s = .next t ∧
      t.sweep.creditPending = true ∧ t.sweep.phase = s.sweep.phaseSum - 2 ^ 32


/-! ### Links -/

/-- A DOWN link whose signal appears goes to TRAINING; a TRAINING link that completes alignment goes to
ANNOUNCING with its announce timer at the time base plus 1,000 µs. Nothing else changes. -/
def Obligations.LinkComesUp : Prop :=
  (∀ (s : State) (l : LinkId), (s.link l).state = .down →
    exec (.linkSignalAppears l) s = .next (s.setLink l { s.link l with
      state := .training, announced := none, lastReply := none
      counters := { frameCheck := { value := 0, reached := false }
                    malformed := { value := 0, reached := false }
                    unexpected := { value := 0, reached := false } } })) ∧
  ∀ (s : State) (l : LinkId), (s.link l).state = .training →
    exec (.alignmentCompletes l) s = .next (s.setLink l { s.link l with
      state := .announcing, sessionCount := ((s.link l).sessionCount + 1) % 65536
      announceTimer := some (s.timeBase + 1000#48) })

/-- A link whose signal is lost goes to DOWN from any state; the loss ends its session, completes the drains and the
commit flush that waited for the link, and takes a chain channel in FETCHING, POSTING or STOPPED that fetches on it to
IDLE with cause LINK_LOST; one in EXECUTING has link lost set, and goes to IDLE in the event when it has no step in a
fence entry, else at the event of its last step, as StepResults states `settleChannel`. A link out of session loses its
unsent messages only; that a refusing ANNOUNCE_REPLY still unsent in REFUSED is among them is log entry 42. What a link
that leaves takes with it in every block, `linkLeaves`: the directory ways, the pending sets and their timers, its
checks with their marks and reads, its software requests (the read of a removed head: log entry 17), the channels that
fetch on it (in IDLE nothing: log entry 32), and its own messages. -/
def Obligations.SignalLossClearsLink : Prop :=
  (∀ (s : State) (l : LinkId), (s.link l).state.inSession = true →
    ∃ t, exec (.linkSignalLoss l) s = .next t ∧ s.Cleared t l ∧
      t.link l = { s.link l with
        state := .down, outbound := [], held := [], announceTimer := none
        flushOutstanding := false, flushTimer := none } ∧ s.Settles t ∧
      t = (((s.setLink l { s.link l with state := .down, outbound := [] }).linkLeaves l
        []).settle).closeEvent) ∧
  (∀ (s : State) (l : LinkId), s.Between → (s.link l).state.inSession = false →
    exec (.linkSignalLoss l) s =
      .next (s.setLink l { s.link l with state := .down, outbound := [] })) ∧
  (∀ (s : State) (l : LinkId) (c : ChannelId), (s.link l).state.inSession = true →
    (s.chan c).fetchLink = l →
    (s.chan c).state = .fetching ∨ (s.chan c).state = .posting ∨ (s.chan c).state = .stopped →
    ∃ t, exec (.linkSignalLoss l) s = .next t ∧ (t.chan c).state = .idle ∧
      (t.chan c).memRequest = none ∧
      (t.chan c).termination = some
        { cause := .linkLost, block := (s.chan c).blockAddr
          offset := if (s.chan c).block.isSome then (s.chan c).nextOffset else 0 }) ∧
  (∀ (s : State) (l : LinkId) (c : ChannelId) (b : Block), (s.link l).state.inSession = true →
    (s.chan c).fetchLink = l → (s.chan c).state = .executing → (s.chan c).block = some b →
    ∃ t, exec (.linkSignalLoss l) s = .next t ∧
      ((s.chan c).inFence ≠ 0 → t.chan c = { s.chan c with linkLost := true }) ∧
      ((s.chan c).inFence = 0 → t.chan c = { s.chan c with
        state := .idle, stopRequested := false, errorStop := false, linkLost := false
        memRequest := none, posting := .none
        termination := some
          { cause := .linkLost, block := (s.chan c).blockAddr, offset := (s.chan c).nextOffset } })) ∧
  (∀ (s : State) (l : LinkId) (kept : List OutMsg),
    ∃ u : State, u = { s with
        links := u.links, directory := u.directory
        openChecks := s.openChecks.filter (fun x => x.link != l)
        oldEpochCount := s.oldEpochCount -
          s.openChecks.countP (fun x => decide (x.link = l ∧ x.oldEpoch = true))
        flushSet := LinkSet.del s.flushSet l
        fence := s.fence.map (fun e => { e with
          pending := LinkSet.del e.pending l
          timer := if LinkSet.has e.pending l = true ∧ LinkSet.del e.pending l = 0 then none
            else e.timer
          staleCount := e.staleCount - s.openChecks.countP
            (fun x => decide (x.link = l ∧ x.stale = true ∧ x.granule = some e.granule)) })
        store := { s.store with
          verdictQ := s.store.verdictQ.filter (fun n => n.1 != l)
          softQueue := s.store.softQueue.filter (fun r => r.link != l)
          softRead :=
            match if s.store.softQueue.head?.any (fun r => r.link == l)
                then s.store.softRead.map (fun x => { x with live := false }) else s.store.softRead,
              s.store.softQueue.filter (fun r => r.link != l) with
            | none, r :: _ => some { granule := r.next, live := true }
            | read, _ => read } } ∧
      (∀ m : LinkId, u.link m = if m = l
        then { s.link m with flushOutstanding := false, flushTimer := none } else s.link m) ∧
      (s.TablesOk → ∀ w : Nat, u.dirWay w = (s.dirWay w).bind fun d =>
        if LinkSet.del d.holders l = 0 then none
        else some { granule := d.granule, holders := LinkSet.del d.holders l }) ∧
      let x : State := u.chainsLinkLost l
      s.linkLeaves l kept = ({ x with directQueue := x.directQueue.map fun e =>
          if e.link = l then { e with inSession := false } else e } : State).setLink l
        { x.link l with outbound := kept, held := [], announceTimer := none }) ∧
  (∀ (s : State) (l : LinkId),
    let t : State := if (s.chan 0).fetchLink = l then s.chainLinkLost 0 else s
    s.chainsLinkLost l = if (t.chan 1).fetchLink = l then t.chainLinkLost 1 else t) ∧
  ∀ (s : State) (c : ChannelId),
    let k : Channel := s.chan c
    (k.state = .idle → s.chainLinkLost c = s) ∧
    (k.state = .fetching ∨ k.state = .posting ∨ k.state = .stopped → s.chainLinkLost c =
      s.restChannel c .idle .linkLost (if k.block.isSome then k.nextOffset else 0)) ∧
    (k.state = .executing →
      s.chainLinkLost c = (s.updChan c fun k => { k with linkLost := true }).settleChannel c)

/-- The expiry of an announce timer and of a flush timer faults the link: FAULTED with the cause, its session
ended, LINK_EVENT set, and a LINK_FAULT record the newest of Q1, behind the records of the loss (log entry 13), when
Q1 has room for what the event stores. The expiry of a fence entry's revoke timer faults every link in a session that
is still pending on it, with cause REVOKE_TIMEOUT, and stops the timer; a link not pending keeps its state, and so
does one in no session (log entry 35); the links that are faulted leave the checks, reads, requests, ways, fence entries
and commit flush set, where every other link stays. The drains and the commit flush that waited for a link are
completed. What one fault is, `faultCore`; a link in no session is not faulted again (log entry 35). -/
def Obligations.TimersFaultLinks : Prop :=
  (∀ (s : State) (l : LinkId), (s.link l).state = .announcing →
    s.reached (s.link l).announceTimer = true →
    ∃ t, exec (.announceTimerExpiry l) s = .next t ∧ s.Cleared t l ∧
      t.link l = { s.link l with
        state := .faulted, lastFault := some .announceTimeout, outbound := [], held := []
        announceTimer := none, flushOutstanding := false, flushTimer := none } ∧
      StatusSet.has t.reports.status .linkEvent = true ∧
      (s.reports.q1.fill + 4 < s.reports.q1.size → t.reports.q1.records.getLast? = some
        { time := s.timeBase, kind := .linkFault, link := some l, granule := none, domain := none
          detail := .fault .announceTimeout none }) ∧ s.Settles t ∧
      t = ((s.faultCore l .announceTimeout none none).settle).closeEvent) ∧
  (∀ (s : State) (l : LinkId), (s.link l).state.inSession = true →
    s.reached (s.link l).flushTimer = true →
    ∃ t, exec (.flushTimerExpiry l) s = .next t ∧ s.Cleared t l ∧
      t.link l = { s.link l with
        state := .faulted, lastFault := some .flushTimeout, outbound := [], held := []
        announceTimer := none, flushOutstanding := false, flushTimer := none } ∧
      StatusSet.has t.reports.status .linkEvent = true ∧
      (s.reports.q1.fill + 4 < s.reports.q1.size → t.reports.q1.records.getLast? = some
        { time := s.timeBase, kind := .linkFault, link := some l, granule := none, domain := none
          detail := .fault .flushTimeout none }) ∧ s.Settles t ∧
      t = ((s.faultCore l .flushTimeout none none).settle).closeEvent) ∧
  (∀ (s : State) (g : Nat) (e : FenceEntry), s.fenceOf g = some e → s.reached e.timer = true →
    ∃ t, exec (.revokeTimerExpiry g) s = .next t ∧ s.Settles t ∧
      (∀ l : LinkId, LinkSet.has e.pending l = true → (s.link l).state.inSession = true →
        (t.link l).state = .faulted ∧ (t.link l).lastFault = some .revokeTimeout ∧ t.Expelled l ∧
          StatusSet.has t.reports.status .linkEvent = true) ∧
      (s.reports.q1.fill + 20 ≤ s.reports.q1.size → ∀ l : LinkId, LinkSet.has e.pending l = true →
        (s.link l).state.inSession = true →
        { time := s.timeBase, kind := .linkFault, link := some l, granule := some g, domain := none
          detail := .fault .revokeTimeout none } ∈ t.reports.q1.records) ∧
      (∀ l : LinkId, LinkSet.has e.pending l = false ∨ (s.link l).state.inSession = false →
        t.link l = { s.link l with outbound := (t.link l).outbound }) ∧
      s.OnlyLoss t ∧
      (∃ f : FenceEntry, t.fenceOf g = some f ∧ f.timer = none) ∧
      (∃ gone : LinkSet,
        (∀ l : LinkId, LinkSet.has gone l =
          (LinkSet.has e.pending l && (s.link l).state.inSession)) ∧
        t.openChecks = s.openChecks.filter (fun x => !LinkSet.has gone x.link) ∧
        t.oldEpochCount = s.oldEpochCount -
          s.openChecks.countP (fun x => LinkSet.has gone x.link && x.oldEpoch) ∧
        t.store.verdictQ = s.store.verdictQ.filter (fun n => !LinkSet.has gone n.1) ∧
        t.store.softQueue = s.store.softQueue.filter (fun r => !LinkSet.has gone r.link) ∧
        t.directQueue = s.directQueue.map (fun x =>
          if LinkSet.has gone x.link then { x with inSession := false } else x) ∧
        t.flushSet = s.flushSet &&& ~~~gone ∧
        (s.TablesOk → s.DirectoryOk → ∀ w : Nat, t.dirWay w = (s.dirWay w).bind fun d =>
          if d.holders &&& ~~~gone = 0 then none
          else some { granule := d.granule, holders := d.holders &&& ~~~gone }) ∧
        t.fence.map (fun x => { x with phase := .fencing }) = s.fence.map (fun x => { x with
          phase := .fencing, pending := x.pending &&& ~~~gone
          timer := if x.granule = g ∨ (x.pending ≠ 0 ∧ x.pending &&& ~~~gone = 0) then none
            else x.timer
          staleCount := x.staleCount - s.openChecks.countP
            (fun y => LinkSet.has gone y.link && y.stale && decide (y.granule = some x.granule)) }) ∧
        ∀ c : ChannelId, LinkSet.has gone (s.chan c).fetchLink = false → t.chan c = s.chan c) ∧
      t = (((([0, 1, 2, 3] : List LinkId).filter fun l => LinkSet.has e.pending l).foldl
        (fun (u : State) (l : LinkId) => u.faultCore l .revokeTimeout none (some g))
        { s with fence := s.fence.map fun (x : FenceEntry) =>
            if x.granule = g then { x with timer := none } else x }).settle).closeEvent) ∧
  ∀ (s : State) (l : LinkId) (cause : FaultCause) (counter : Option CounterType) (granule : Option Nat),
    ((s.link l).state.inSession = false → s.faultCore l cause counter granule = s) ∧
    ((s.link l).state.inSession = true → s.faultCore l cause counter granule =
      (((s.setLink l { s.link l with state := .faulted, lastFault := some cause }).linkLeaves l
        []).storeEvent
          { time := s.timeBase, kind := .linkFault, link := some l, granule := granule, domain := none
            detail := .fault cause counter }).raise .linkEvent)

/-- The expiry of a channel's memory timer takes it to IDLE: FETCH_TIMEOUT from FETCHING at offset 0,
WRITE_TIMEOUT from POSTING at the count of a valid block and 0 for a bad one; it comes to rest as StepResults states
`restChannel`, with CHAINn_END and a CHAIN_FAULT record. A request still unsent stays in the outbound path and is sent
(log entry 43). -/
def Obligations.MemoryTimerEndsChain : Prop :=
  ∀ (s : State) (c : ChannelId) (m : MemRequest), (s.chan c).memRequest = some m →
    s.reached (some m.expiry) = true →
    (s.chan c).state = .fetching ∨ (s.chan c).state = .posting →
    ∃ t, exec (.memoryTimerExpiry c) s = .next t ∧ (t.chan c).state = .idle ∧
      (t.chan c).memRequest = none ∧
      (t.chan c).termination = some
        (if (s.chan c).state = .fetching then
          { cause := .fetchTimeout, block := (s.chan c).blockAddr, offset := 0 }
        else
          { cause := .writeTimeout, block := (s.chan c).blockAddr
            offset := if (s.chan c).posting = .badStatus then 0 else (s.chan c).rangeCount }) ∧
      StatusSet.has t.reports.status (if c = 0 then .chain0End else .chain1End) = true ∧
      s.OnlyChannel t c ∧
      ((s.chan c).state = .fetching → t = (s.restChannel c .idle .fetchTimeout 0).closeEvent) ∧
      ((s.chan c).state = .posting → t = (s.restChannel c .idle .writeTimeout
        (if (s.chan c).posting = .badStatus then 0 else (s.chan c).rangeCount)).closeEvent)

/-! ### The announcement and rejected frames -/

/-- A sound ANNOUNCE with an acceptable role and revision and an empty cache is accepted: the link goes to ACTIVE
or ADMIT_WAIT with the announced values recorded, and ANNOUNCE_REPLY carries the maximum as recorded. A sound ANNOUNCE
is refused MISMATCH for its role or revision, then CACHE_NOT_EMPTY: the link goes to REFUSED and the refusing reply
alone is left to be sent (log entry 10). An unsound one is answered BAD_SUM: the link stays in ANNOUNCING with its
timer restarted, and MALFORMED advances, as RejectedFramesCount states `countError`. The last reply is recorded in the
event that hands it (log entry 9). When the bytes are sound, and which role and revision a link accepts. -/
def Obligations.AnnounceAnswered : Prop :=
  (∀ (s : State) (l : LinkId) (m : AnnounceMsg) (r : Role), s.Takes l (.announce l m) →
    (s.link l).state = .announcing →
    (m.role.toNat + m.revision.toNat + m.maxOpen.toNat + m.capacity.toNat % 256 +
      m.capacity.toNat / 256 + m.cacheEmpty.toNat + m.sum.toNat) % 256 = 255 →
    (m.role = 1 ∧ r = .socket) ∨ (m.role = 2 ∧ r = .ioRoot) →
    (s.link l).expectRole = none ∨ (s.link l).expectRole = some r →
    1 ≤ m.revision.toNat → m.revision.toNat ≤ 15 → (s.link l).minRevision ≤ m.revision.toNat →
    m.cacheEmpty = 1 →
    exec (.announce l m) s = .next (s.setLink l { s.link l with
      state := match s.mode with
        | .startup => if l = s.leadLink then .active else .admitWait
        | .operating => if (s.link l).admission then .active else .admitWait
      announced := some { role := r, revision := m.revision.toNat
                          maxOpen := min (max m.maxOpen.toNat 1) 64, capacity := m.capacity }
      announceTimer := none, lastReply := some .accepted
      outbound := (s.link l).outbound ++
        [.announceReply .accepted (some (min (max m.maxOpen.toNat 1) 64))] }).closeEvent) ∧
  (∀ (s : State) (l : LinkId) (m : AnnounceMsg), s.Takes l (.announce l m) →
    (s.link l).state = .announcing → AnnounceSound m = true →
    (s.link l).acceptsRole m = none ∨ m.cacheEmpty ≠ 1 →
    let r : AnnounceResult := if (s.link l).acceptsRole m = none then .mismatch else .cacheNotEmpty
    ∃ t, exec (.announce l m) s = .next t ∧ s.Cleared t l ∧
      t.link l = { s.link l with
        state := .refused, lastReply := some r, outbound := [.announceReply r none], held := []
        announceTimer := none, flushOutstanding := false, flushTimer := none } ∧ s.Settles t ∧
      t = (((s.setLink l { s.link l with state := .refused, lastReply := some r }).linkLeaves l
        [.announceReply r none]).settle).closeEvent) ∧
  (∀ (s : State) (l : LinkId) (m : AnnounceMsg), s.Takes l (.announce l m) →
    (s.link l).state = .announcing → AnnounceSound m = false →
    exec (.announce l m) s = .next ((s.setLink l { s.link l with
      announceTimer := some (s.timeBase + 1000#48), lastReply := some .badSum
      outbound := (s.link l).outbound ++ [.announceReply .badSum none] }).countError l
        .malformed).closeEvent) ∧
  (∀ (k : Link) (m : AnnounceMsg),
    (AnnounceSound m = true ↔
      (m.role.toNat + m.revision.toNat + m.maxOpen.toNat + m.capacity.toNat % 256 +
        m.capacity.toNat / 256 + m.cacheEmpty.toNat + m.sum.toNat) % 256 = 255) ∧
    (∀ r : Role, k.acceptsRole m = some r ↔
      ((m.role = 1 ∧ r = .socket) ∨ (m.role = 2 ∧ r = .ioRoot)) ∧
        (k.expectRole = none ∨ k.expectRole = some r) ∧ 1 ≤ m.revision.toNat ∧
        m.revision.toNat ≤ 15 ∧ k.minRevision ≤ m.revision.toNat) ∧
    (k.acceptsRole m = none ↔ (m.role ≠ 1 ∧ m.role ≠ 2) ∨
      (m.role = 1 ∧ k.expectRole = some .ioRoot) ∨ (m.role = 2 ∧ k.expectRole = some .socket) ∨
        m.revision.toNat = 0 ∨ 15 < m.revision.toNat ∨ m.revision.toNat < k.minRevision)) ∧
  ∀ (s : State) (l : LinkId) (m : AnnounceMsg), s.Takes l (.announce l m) →
    (s.link l).state = .announcing → AnnounceSound m = false →
    (s.link l).counters.malformed.value < 255 →
    (s.link l).counters.malformed.value + 1 ≠ s.errorThreshold →
    exec (.announce l m) s = .next (s.setLink l { s.link l with
      announceTimer := some (s.timeBase + 1000#48), lastReply := some .badSum
      outbound := (s.link l).outbound ++ [.announceReply .badSum none]
      counters := { (s.link l).counters with
        malformed := { (s.link l).counters.malformed with
          value := (s.link l).counters.malformed.value + 1 } } }).closeEvent

/-- The stages of a frame before its meaning. Outside a session it is discarded; behind held frames, or for want of
a reply or VERDICT place, it is held, also one that the state of its link would have discarded (log entry 12). A
management message, and every other message but ANNOUNCE, counts MALFORMED on a link in ANNOUNCING, an ANNOUNCE on one
past it. The tag tests of a management message and of a CHECK answer REFUSE and count MALFORMED; a management message
on a link in ADMIT_WAIT or HELD is refused NOT_ADMITTED.
The authority test passes the lead link's messages in STARTUP and those classified to domain 0, writes the watched
match report, and refuses the others NOT_PLATFORM with an AUTH_REFUSED record; that it writes the report for a START in
OPERATING too is the model's choice (log entry 46). Which states are in a session; what counts against the 32 reply
places and the 64 VERDICT places of a link, which frames wait for which, and which messages are replies. -/
def Obligations.FrameStages : Prop :=
  (∀ k : LinkState, k.inSession = true ↔
    k = .announcing ∨ k = .admitWait ∨ k = .active ∨ k = .held) ∧
  (∀ (s : State) (l : LinkId),
    s.replyPlacesUsed l = ((s.link l).outbound.filter OutMsg.isReply).length +
      ((s.directQueue.filter fun e => decide (e.link = l ∧ e.inSession = true)).length +
        (s.store.softQueue.filter fun r => decide (r.link = l)).length) ∧
    s.verdictPlacesUsed l = (s.openChecks.filter fun e => decide (e.link = l)).length +
      ((s.link l).outbound.filter OutMsg.isVerdict).length ∧
    ∀ f : Instr, s.mustHold l f = true ↔
      (repliesTo f = true ∧ 32 ≤ s.replyPlacesUsed l) ∨ (isCheck f = true ∧ 64 ≤ s.verdictPlacesUsed l)) ∧
  (∀ f : Instr,
    ((∃ h : MgmtHeader, managedHeader f = some h) ∨ (∃ l m, f = .announce l m) ∨
      (∃ l m, f = .check l m) ∨ (∃ l n, f = .frameRejected l (.undecodable (some n))) →
      repliesTo f = true) ∧
    ((∃ l g, f = .drop l g) ∨ (∃ l g n, f = .revokeAck l g n) ∨ (∃ l, f = .flushAck l) ∨
      (∃ l n v, f = .memData l n v) ∨ (∃ l n, f = .memDone l n) ∨
      (∃ l, f = .frameRejected l .frameCheck) ∨ (∃ l, f = .frameRejected l (.undecodable none)) ∨
      (∃ l a, f = .frameRejected l (.misplaced a)) → repliesTo f = false) ∧
    (isCheck f = true ↔ ∃ l m, f = .check l m)) ∧
  (∀ m : OutMsg,
    (m.isReply = true ↔ (∃ r n, m = .announceReply r n) ∨ (∃ n r, m = .refuse n r) ∨
      (∃ r, m = .commandReply r) ∨ (∃ n o, m = .controlReply n o) ∨ (∃ n p o v, m = .cfgData n p o v) ∨
      (∃ n q o v rs, m = .logData n q o v rs) ∨ ∃ n d, m = .tagData n d) ∧
    (m.isVerdict = true ↔ ∃ v, m = .verdict v) ∧
    (m.isNotify = true ↔ ∃ a b c, m = .notify a b c) ∧
    (m.isAnnounceReply = true ↔ ∃ r n, m = .announceReply r n)) ∧
  (∀ (s : State) (h : MgmtHeader) (c : Instr), managedHeader c = some h →
    let refused (r : RefuseReason) : State :=
      s.hand h.link (.refuse { kind := .management, tag := h.tag } r)
    ((s.link h.link).state.inSession = false → exec c s = .next s) ∧
    ((s.link h.link).state.inSession = true →
      (s.link h.link).held ≠ [] ∨ 32 ≤ s.replyPlacesUsed h.link →
      exec c s = .next (s.setLink h.link { s.link h.link with held := (s.link h.link).held ++ [c] })) ∧
    (s.Takes h.link c →
      ((s.link h.link).state = .announcing →
        exec c s = .next (s.countError h.link .malformed).closeEvent) ∧
      (s.Serves h.link → 15 < h.tag →
        exec c s = .next ((refused .malformed).countError h.link .malformed).closeEvent) ∧
      (s.Serves h.link → h.tag ≤ 15 → s.tagOutstanding h.link h.tag = true →
        exec c s = .next ((refused .overLimit).countError h.link .malformed).closeEvent) ∧
      ((s.link h.link).state = .admitWait ∨ (s.link h.link).state = .held → h.tag ≤ 15 →
        s.tagOutstanding h.link h.tag = false → exec c s = .next (refused .notAdmitted).closeEvent) ∧
      ((s.link h.link).state = .active → h.tag ≤ 15 → s.tagOutstanding h.link h.tag = false →
        (s.authority h).2 = false → exec c s = .next (s.authority h).1.closeEvent))) ∧
  (∀ (s : State) (l : LinkId) (n : Nat),
    (s.tagOutstanding l n = true ↔
      (∃ e ∈ s.directQueue, e.link = l ∧ e.tag = n ∧ e.inSession = true) ∨
        ∃ r ∈ s.store.softQueue, r.link = l ∧ r.tag = n) ∧
    (s.tagOpen l n = true ↔ ∃ e ∈ s.openChecks, e.link = l ∧ e.tag = n) ∧
    s.maxOpen l = (match (s.link l).announced with | some a => a.maxOpen | none => 0)) ∧
  (∀ (s : State) (h : MgmtHeader),
    let c : Classification := s.active.classify h.link h.source
    let report (n : Nat) : WatchReport :=
      { element := n, message := .management, link := h.link, source := h.source
        domain := match c.result with | .domain d => some d | _ => none
        placement := .none }
    let w : State := match c.watched with
      | none => s
      | some n => ({ s with watchReport := some (report n) } : State).raise .watchHit
    let refused (d : Option DomainNo) (a : AuthDetail) : State × Bool :=
      ((w.hand h.link (.refuse { kind := .management, tag := h.tag } .notPlatform)).storeEvent
        { time := s.timeBase, kind := .authRefused, link := some h.link, granule := none, domain := d
          detail := .auth a }, false)
    (s.mode = .startup → h.link = s.leadLink → s.authority h = (s, true)) ∧
    (s.mode = .operating ∨ h.link ≠ s.leadLink →
      (c.result = .domain 0 → s.authority h = (w, true)) ∧
      (∀ d : DomainNo, c.result = .domain d → d ≠ 0 → s.authority h = refused (some d) .tenant) ∧
      (c.result = .block → s.authority h = refused none .blocked) ∧
      (c.result = .unclassified → s.authority h = refused none .unclassified))) ∧
  (∀ (s : State) (l : LinkId) (m : CheckMsg),
    let refused (r : RefuseReason) : State := s.hand l (.refuse { kind := .check, tag := m.tag } r)
    ((s.link l).state.inSession = false → exec (.check l m) s = .next s) ∧
    ((s.link l).state.inSession = true →
      (s.link l).held ≠ [] ∨ 32 ≤ s.replyPlacesUsed l ∨ 64 ≤ s.verdictPlacesUsed l →
      exec (.check l m) s =
        .next (s.setLink l { s.link l with held := (s.link l).held ++ [.check l m] })) ∧
    (s.Takes l (.check l m) →
      ((s.link l).state = .announcing →
        exec (.check l m) s = .next (s.countError l .malformed).closeEvent) ∧
      (s.Serves l → s.maxOpen l ≤ m.tag →
        exec (.check l m) s = .next ((refused .overLimit).countError l .malformed).closeEvent) ∧
      (s.Serves l → m.tag < s.maxOpen l → s.tagOpen l m.tag = true →
        exec (.check l m) s = .next ((refused .malformed).countError l .malformed).closeEvent))) ∧
  (∀ (s : State) (l : LinkId) (c : Instr),
    (∃ g : Nat, c = .drop l g) ∨ (∃ (g : Nat) (n : Half), c = .revokeAck l g n) ∨ c = .flushAck l ∨
      (∃ (g : Byte) (v : Vector Byte 32), c = .memData l g v) ∨ (∃ g : Byte, c = .memDone l g) →
    ((s.link l).state.inSession = false → exec c s = .next s) ∧
    ((s.link l).state.inSession = true → (s.link l).held ≠ [] →
      exec c s = .next (s.setLink l { s.link l with held := (s.link l).held ++ [c] })) ∧
    ((s.link l).state = .announcing → (s.link l).held = [] →
      exec c s = .next (s.countError l .malformed).closeEvent)) ∧
  ∀ (s : State) (l : LinkId) (m : AnnounceMsg),
    ((s.link l).state.inSession = false → exec (.announce l m) s = .next s) ∧
    ((s.link l).state.inSession = true → (s.link l).held ≠ [] ∨ 32 ≤ s.replyPlacesUsed l →
      exec (.announce l m) s =
        .next (s.setLink l { s.link l with held := (s.link l).held ++ [.announce l m] })) ∧
    (s.Takes l (.announce l m) → s.Serves l →
      exec (.announce l m) s = .next (s.countError l .malformed).closeEvent)

/-- A frame that fails its frame check advances FRAME_CHECK: from 255 HOLD stays and WRAP goes to 0; a counter
that comes to equal the threshold sets its reached flag and raises LINK_EVENT, and faults the link when its type
is in the fault mask: LINK_EVENT set, and a LINK_FAULT record with detail THRESHOLD and the counter type the newest of
Q1, behind the records of the loss (log entry 13), when Q1 has room. The advance of each counter type, `countError`; a
link in no session is not faulted (log entry 35). A frame that does not decode is answered REFUSE MALFORMED when its tag
can be read, and advances MALFORMED. A message that Table 11-2 does not take in the link's state, an
ANNOUNCE outside ANNOUNCING or another message in it, counts MALFORMED; named in a state that takes it, the event
is not due and counts nothing: the model's choice (log entry 4). Such a message given as FRAME_REJECTED waits for no
reply place (log entry 12). Outside a session a rejected frame is discarded and not counted; behind held frames it is
held, and so is one that does not decode but has a readable tag while 32 reply places are in use. -/
def Obligations.RejectedFramesCount : Prop :=
  (∀ (s : State) (l : LinkId) (why : FrameFault),
    let held : State := s.setLink l { s.link l with held := (s.link l).held ++ [.frameRejected l why] }
    ((s.link l).state = .down ∨ (s.link l).state = .training ∨ (s.link l).state = .faulted ∨
      (s.link l).state = .refused → exec (.frameRejected l why) s = .next s) ∧
    (s.Serves l ∨ (s.link l).state = .announcing → (s.link l).held ≠ [] →
      exec (.frameRejected l why) s = .next held) ∧
    (s.Serves l ∨ (s.link l).state = .announcing → 32 ≤ s.replyPlacesUsed l →
      (∃ n : TagName, why = .undecodable (some n)) → exec (.frameRejected l why) s = .next held)) ∧
  (∀ (s : State) (l : LinkId) (n : Nat), s.Takes l (.frameRejected l .frameCheck) →
    n = (if (s.link l).counters.frameCheck.value < 255 then (s.link l).counters.frameCheck.value + 1
      else if (s.link l).errorMode.getLsbD 0 then 0 else (s.link l).counters.frameCheck.value) →
    let old : Counter := (s.link l).counters.frameCheck
    let reach : Bool := decide (n ≠ old.value ∧ n = s.errorThreshold)
    let t : State := s.setLink l { s.link l with
      counters := { (s.link l).counters with
        frameCheck := { value := n, reached := reach || old.reached } } }
    (reach = false → exec (.frameRejected l .frameCheck) s = .next t.closeEvent) ∧
    (reach = true → (s.link l).faultMask.getLsbD 0 = false →
      exec (.frameRejected l .frameCheck) s = .next (t.raise .linkEvent).closeEvent) ∧
    (reach = true → (s.link l).faultMask.getLsbD 0 = true →
      ∃ u, exec (.frameRejected l .frameCheck) s = .next u ∧ t.Cleared u l ∧
        u.link l = { t.link l with
          state := .faulted, lastFault := some .threshold, outbound := [], held := []
          announceTimer := none, flushOutstanding := false, flushTimer := none } ∧
        StatusSet.has u.reports.status .linkEvent = true ∧
        (s.reports.q1.fill + 4 < s.reports.q1.size → u.reports.q1.records.getLast? = some
          { time := s.timeBase, kind := .linkFault, link := some l, granule := none, domain := none
            detail := .fault .threshold (some .frameCheck) }) ∧ t.Settles u)) ∧
  (∀ (s : State) (l : LinkId) (ty : CounterType) (n : Nat),
    let k : Link := s.link l
    let bit : Nat := match ty with | .frameCheck => 0 | .malformed => 1 | .unexpected => 2
    let old : Counter := match ty with
      | .frameCheck => k.counters.frameCheck
      | .malformed => k.counters.malformed
      | .unexpected => k.counters.unexpected
    n = (if old.value < 255 then old.value + 1 else if k.errorMode.getLsbD bit then 0 else old.value) →
    let reach : Bool := decide (n ≠ old.value ∧ n = s.errorThreshold)
    let new : Counter := { value := n, reached := reach || old.reached }
    let t : State := s.setLink l { k with counters := match ty with
      | .frameCheck => { k.counters with frameCheck := new }
      | .malformed => { k.counters with malformed := new }
      | .unexpected => { k.counters with unexpected := new } }
    (reach = false → s.countError l ty = t) ∧
    (reach = true → k.faultMask.getLsbD bit = false → s.countError l ty = t.raise .linkEvent) ∧
    (reach = true → k.faultMask.getLsbD bit = true → s.countError l ty =
      ((t.raise .linkEvent).faultCore l .threshold (some ty) none).settle)) ∧
  (∀ (s : State) (l : LinkId),
    s.Takes l (.frameRejected l .frameCheck) →
      exec (.frameRejected l .frameCheck) s = .next (s.countError l .frameCheck).closeEvent) ∧
  (∀ (s : State) (l : LinkId) (tag : Option TagName),
    s.Takes l (.frameRejected l (.undecodable tag)) →
    exec (.frameRejected l (.undecodable tag)) s = .next ((s.setLink l { s.link l with
      outbound := (s.link l).outbound ++ (match tag with
        | some t => [.refuse { kind := t.kind, tag := t.tag } .malformed]
        | none => []) }).countError l .malformed).closeEvent) ∧
  (∀ (s : State) (l : LinkId) (tag : Option TagName),
    s.Takes l (.frameRejected l (.undecodable tag)) →
    (s.link l).counters.malformed.value < 255 →
    (s.link l).counters.malformed.value + 1 ≠ s.errorThreshold →
    exec (.frameRejected l (.undecodable tag)) s = .next (s.setLink l { s.link l with
      outbound := (s.link l).outbound ++ (match tag with
        | some t => [.refuse { kind := t.kind, tag := t.tag } .malformed]
        | none => [])
      counters := { (s.link l).counters with
        malformed := { (s.link l).counters.malformed with
          value := (s.link l).counters.malformed.value + 1 } } }).closeEvent) ∧
  ∀ (s : State) (l : LinkId) (isAnnounce : Bool), s.Takes l (.frameRejected l (.misplaced isAnnounce)) →
    ((isAnnounce = false ∧ (s.link l).state = .announcing) ∨ (isAnnounce = true ∧ s.Serves l) →
      exec (.frameRejected l (.misplaced isAnnounce)) s =
        .next (s.countError l .malformed).closeEvent) ∧
    ((isAnnounce = true ∧ (s.link l).state = .announcing) ∨ (isAnnounce = false ∧ s.Serves l) →
      exec (.frameRejected l (.misplaced isAnnounce)) s = .next s.closeEvent)

/-! ### What is read from the policy and from a record -/

/-- What many statements name, unfolded: the derived values of a window and the lookup of an address; the
classification of a pair by the first element that matches, or by the link's non-match policy; the verification of a
record's sixteen bytes and its fields; the sixteen bytes written for a record; the bits of a sharer slot, and what it
is for a record to have a sharer; the counted owner of a record, and the fields a step starts from; and the commit
validation, its four tests in order and the first failure each one names. -/
def Obligations.PolicyAndRecordReading : Prop :=
  (∀ w : Half, (slotPresent w = true ↔ 2 ^ 15 ≤ w.toNat) ∧ (slotDomain w).toNat = w.toNat % 2 ^ 10 ∧
    slotRights w = (if w.toNat / 2 ^ 14 % 2 = 1 then .readWrite else .read)) ∧
  (∀ d : DomainNo, (slotOf d .read).toNat = 2 ^ 15 + d.toNat % 2 ^ 10 ∧
    (slotOf d .readWrite).toNat = 2 ^ 15 + 2 ^ 14 + d.toNat % 2 ^ 10) ∧
  (∀ r : TagRecord, r.slots = [r.slot1, r.slot2, r.slot3] ∧
    r.sharers = (r.slots.filter slotPresent).map (fun w => (slotDomain w, slotRights w)) ∧
    (∀ d : DomainNo, r.hasSharer d = true ↔
      ∃ w ∈ [r.slot1, r.slot2, r.slot3], slotPresent w = true ∧ slotDomain w = d) ∧
    ∀ d : DomainNo, r.countedOwner = some d ↔ d = r.owner ∧ (r.state = .owned ∨ r.state = .shared ∨
      (r.state = .fenced ∧ (r.fencedFrom = .owned ∨ r.fencedFrom = .shared)))) ∧
  (∀ (lo hi : Byte), (halfOf lo hi).toNat = lo.toNat + 256 * hi.toNat) ∧
  (∀ r : TagRecord, (ReadRecord.verified r).fields = r) ∧
  (∀ img : Image, (ReadRecord.unverifiable img).fields =
    { state := .quarantined, fencedFrom := .free, owner := halfOf img[2] img[3]
      slot1 := halfOf img[4] img[5], slot2 := halfOf img[6] img[7], slot3 := halfOf img[8] img[9]
      generation := halfOf img[10] img[11], platformAccess := img[1].getLsbD 0
      label := halfOf img[12] img[13] }) ∧
  (∀ w : Window,
    let k : Nat := match w.granule with | .kib4 => 12 | .mib2 => 21
    w.effBase = w.base.toNat - w.base.toNat % 2 ^ k ∧
    w.effSize = min w.size ((2 ^ 52 - w.effBase) / 2 ^ k) ∧
    w.limit = w.effBase + w.effSize * 2 ^ k ∧
    (w.inUse = true ↔ w.enabled = true ∧ 1 ≤ w.effSize) ∧
    (w.walks = true ↔ w.inUse = true ∧ w.mode = .tagged) ∧
    ∀ a : Nat, w.baseOf a = w.effBase + (a - w.effBase) / 2 ^ k * 2 ^ k ∧
      w.indexOf a = w.tagBase + (a - w.effBase) / 2 ^ k) ∧
  (∀ (p : PolicyCopy) (a : Nat),
    (∀ (n : Nat) (w : Window), p.lookup a = some (n, w) → ∃ i : Fin 16, i.val = n ∧ p.windows[i] = w ∧
      w.inUse = true ∧ w.effBase ≤ a ∧ a < w.limit) ∧
    (p.lookup a = none → ∀ i : Fin 16, (p.windows[i]).inUse = true →
      a < (p.windows[i]).effBase ∨ (p.windows[i]).limit ≤ a)) ∧
  (∀ (s : State) (a : Nat) (i : Fin 16), s.PolicyOk → (s.active.windows[i]).inUse = true →
    (s.active.windows[i]).effBase ≤ a → a < (s.active.windows[i]).limit →
    s.active.lookup a = some (i.val, s.active.windows[i])) ∧
  (∀ (e : Element) (l : LinkId) (i : SourceId), e.matchesPair l i = true ↔
    e.enabled = true ∧ LinkSet.has e.links l = true ∧ (match e.kind with
      | .exact => i = e.first ∨ i = e.second
      | .range => e.first.toNat ≤ i.toNat ∧ i.toNat ≤ e.second.toNat
      | .masked => i &&& e.second = e.first &&& e.second)) ∧
  (∀ (p : PolicyCopy) (l : LinkId) (i : SourceId),
    (∀ n : Nat, n < p.length → (p.element n).matchesPair l i = true →
      (∀ m : Nat, m < n → (p.element m).matchesPair l i = false) →
      p.classify l i =
        { result := match (p.element n).action with
            | .domain => .domain (p.element n).domain
            | .block => .block
          decidedBy := .element n
          watched := if (p.element n).watch = true then some n else none }) ∧
    ((∀ n : Nat, n < p.length → (p.element n).matchesPair l i = false) →
      p.classify l i =
        { result := if (p.nonMatch[l]).isDomain = true then .domain (p.nonMatch[l]).domain
            else .unclassified
          decidedBy := .nonMatch, watched := none })) ∧
  (∀ (s : State) (g : Nat) (img : Image), Memory.readImage s.dram g = img →
    let code : Nat := img[0].toNat
    let from_ : Nat := img[1].toNat / 16 % 8
    let content : Nat := if code = 3 then from_ else code
    let half (lo hi : Byte) : Nat := lo.toNat + 256 * hi.toNat
    let ok : Prop := (img.toList.map BitVec.toNat).sum % 256 = 255 ∧ code ≤ 4 ∧
      (content = 0 ∨ content = 1 ∨ content = 2 ∨ content = 4) ∧
      (content ≠ 4 → half img[2] img[3] ≤ 1023 ∧ (content = 0 → half img[2] img[3] = 0) ∧
        (content ≠ 2 → img[5].toNat < 128 ∧ img[7].toNat < 128 ∧ img[9].toNat < 128))
    (∀ i : Fin 16, img[i] = Memory.read s.dram (16 * g + i.val)) ∧
    (¬ ok → s.readRecord g = .unverifiable img) ∧
    (ok → ∃ r : TagRecord, s.readRecord g = .verified r ∧
      (r.state = match code with
        | 0 => .free | 1 => .owned | 2 => .shared | 3 => .fenced | _ => .quarantined) ∧
      (r.fencedFrom = if code = 3 then (match from_ with
        | 0 => .free | 1 => .owned | 2 => .shared | _ => .quarantined) else .free) ∧
      r.owner.toNat = half img[2] img[3] ∧ r.slot1.toNat = half img[4] img[5] ∧
      r.slot2.toNat = half img[6] img[7] ∧ r.slot3.toNat = half img[8] img[9] ∧
      r.generation.toNat = half img[10] img[11] ∧ r.platformAccess = decide (img[1].toNat % 2 = 1) ∧
      r.label.toNat = half img[12] img[13])) ∧
  (∀ r : TagRecord,
    let img : Image := recordImage r
    let low (h : Half) : Byte := BitVec.ofNat 8 (h.toNat % 256)
    let high (h : Half) : Byte := BitVec.ofNat 8 (h.toNat / 256)
    let asFound : Prop := r.state = .quarantined ∨ (r.state = .fenced ∧ r.fencedFrom = .quarantined)
    let slot (w x : Half) : Prop := (asFound → x = w) ∧
      (¬ asFound → w.toNat < 2 ^ 15 → x = 0) ∧
      (¬ asFound → 2 ^ 15 ≤ w.toNat →
        x.toNat = w.toNat % 2 ^ 10 + 2 ^ 14 * (w.toNat / 2 ^ 14))
    (img[0] = match r.state with
      | .free => 0 | .owned => 1 | .shared => 2 | .fenced => 3 | .quarantined => 4) ∧
    img[1].toNat = (if r.platformAccess = true then 1 else 0) + 16 * (if r.state = .fenced then
      (match r.fencedFrom with | .free => 0 | .owned => 1 | .shared => 2 | .quarantined => 4) else 0) ∧
    img[2] = low r.owner ∧ img[3] = high r.owner ∧
    (∃ x y z : Half, slot r.slot1 x ∧ slot r.slot2 y ∧ slot r.slot3 z ∧
      img[4] = low x ∧ img[5] = high x ∧ img[6] = low y ∧ img[7] = high y ∧
      img[8] = low z ∧ img[9] = high z) ∧
    img[10] = low r.generation ∧ img[11] = high r.generation ∧
    img[12] = low r.label ∧ img[13] = high r.label ∧ img[14] = 0 ∧
    img[15].toNat = 255 - ((img.toList.take 15).map BitVec.toNat).sum % 256) ∧
  (∀ (s : State) (g : Nat) (r : TagRecord), s.MemoryOk →
    Memory.readImage (s.writeRecord g r).dram g = recordImage r) ∧
  ∀ (p : PolicyCopy) (capacity : Nat),
    let meet (i j : Fin 16) : Prop := (p.windows[i]).inUse = true ∧ (p.windows[j]).inUse = true ∧
      ∃ a : Nat, (p.windows[i]).effBase ≤ a ∧ a < (p.windows[i]).limit ∧
        (p.windows[j]).effBase ≤ a ∧ a < (p.windows[j]).limit
    let tagsMeet (i j : Fin 16) : Prop := (p.windows[i]).walks = true ∧ (p.windows[j]).walks = true ∧
      ∃ x : Nat, (p.windows[i]).tagBase ≤ x ∧ x < (p.windows[i]).tagBase + (p.windows[i]).effSize ∧
        (p.windows[j]).tagBase ≤ x ∧ x < (p.windows[j]).tagBase + (p.windows[j]).effSize
    let beyond (i : Fin 16) : Prop := (p.windows[i]).walks = true ∧
      capacity ≤ (p.windows[i]).tagBase + (p.windows[i]).effSize - 1
    let badElement (n : Nat) : Prop := (p.element n).enabled = true ∧ (p.element n).action = .domain ∧
      1023 < (p.element n).domain.toNat
    let badPolicy (l : LinkId) : Prop := (p.nonMatch[l]).isDomain = true ∧
      1023 < (p.nonMatch[l]).domain.toNat
    let first (r : Fin 16 → Fin 16 → Prop) (i j : Fin 16) : Prop := i < j ∧ r i j ∧
      ∀ k m : Fin 16, k < m → k < i ∨ (k = i ∧ m < j) → ¬ r k m
    let none_ (r : Fin 16 → Fin 16 → Prop) : Prop := ∀ i j : Fin 16, i < j → ¬ r i j
    (∀ i j : Fin 16, first meet i j → p.validate capacity = some (.overlap i.val j.val)) ∧
    (none_ meet →
      (∀ i : Fin 16, beyond i → (∀ k : Fin 16, k < i → ¬ beyond k) →
        p.validate capacity = some (.range i.val)) ∧
      ((∀ i : Fin 16, ¬ beyond i) →
        (∀ i j : Fin 16, first tagsMeet i j →
          p.validate capacity = some (.tagOverlap i.val j.val)) ∧
        (none_ tagsMeet →
          (∀ n : Nat, n < p.length → badElement n → (∀ m : Nat, m < n → ¬ badElement m) →
            p.validate capacity = some (.badElement (.element n))) ∧
          ((∀ n : Nat, n < p.length → ¬ badElement n) →
            (∀ l : LinkId, badPolicy l → (∀ m : LinkId, m < l → ¬ badPolicy m) →
              p.validate capacity = some (.badElement (.policy l))) ∧
            ((∀ l : LinkId, ¬ badPolicy l) → p.validate capacity = none)))))

/-! ### Checks -/

/-- Steps 1 and 2: a CHECK on a link in ADMIT_WAIT or HELD, or on an ACTIVE link in STARTUP, opens an entry
decided NOT_ADMITTED, LINK_HELD or NOT_READY, with no classification, no window and no record read. Step 4: a
domain that is not ACTIVE decides DOMAIN_INACTIVE, logged with the domain, whatever window the address lies in. -/
def Obligations.CheckStateSteps : Prop :=
  (∀ (s : State) (l : LinkId) (m : CheckMsg) (r : DenyReason), s.Takes l (.check l m) →
    ((s.link l).state = .admitWait ∧ r = .notAdmitted) ∨
      ((s.link l).state = .held ∧ r = .linkHeld) ∨
      ((s.link l).state = .active ∧ s.mode = .startup ∧ r = .notReady) →
    m.tag < s.maxOpen l → s.tagOpen l m.tag = false →
    exec (.check l m) s = .next ({ s with openChecks := s.openChecks ++
      [{ link := l, tag := m.tag, source := m.source, address := m.address, access := m.access
         cacheWanted := m.cacheWanted, epoch := s.epoch, phase := .deciding (.deny r)
         classified := none, window := none, granule := none, seen := none, stale := false
         oldEpoch := false }] } : State).closeEvent) ∧
  ∀ (s : State) (l : LinkId) (m : CheckMsg) (d : DomainNo), s.Takes l (.check l m) →
    (s.link l).state = .active → s.mode = .operating → m.tag < s.maxOpen l →
    s.tagOpen l m.tag = false → (s.active.classify l m.source).result = .domain d →
    (s.domainEntry d).state ≠ .active →
    ∃ e : OpenCheck, exec (.check l m) s =
        .next ({ s with openChecks := s.openChecks ++ [e] } : State).closeEvent ∧
      e.phase = .deciding (.deny .domainInactive) ∧ DenyReason.logged .domainInactive = true ∧
      (s.denialOf e .domainInactive).domain = some d ∧
      e.window.isSome = (s.active.lookup m.address.toNat).isSome ∧ e.granule = none

/-- R52: step 3 decides UNCLASSIFIED and SOURCE_BLOCKED, both logged without a domain, and a domain result goes
on with that domain. -/
def Obligations.CheckSourceStep : Prop :=
  ∀ (s : State) (l : LinkId) (m : CheckMsg), s.Takes l (.check l m) → (s.link l).state = .active →
    s.mode = .operating → m.tag < s.maxOpen l → s.tagOpen l m.tag = false →
    ∃ e : OpenCheck, exec (.check l m) s = .next ({ s with
        openChecks := s.openChecks ++ [e]
        store := { s.store with verdictQ :=
          if e.phase = .waitRecord then s.store.verdictQ ++ [(l, m.tag)] else s.store.verdictQ } } :
            State).closeEvent ∧
      e.link = l ∧ e.tag = m.tag ∧ e.source = m.source ∧ e.address = m.address ∧ e.access = m.access ∧
      e.cacheWanted = m.cacheWanted ∧ e.epoch = s.epoch ∧
      e.classified = some (s.active.classify l m.source) ∧
      ((s.active.classify l m.source).result = .unclassified →
        e.phase = .deciding (.deny .unclassified) ∧ DenyReason.logged .unclassified = true ∧
        (s.denialOf e .unclassified).domain = none) ∧
      ((s.active.classify l m.source).result = .block →
        e.phase = .deciding (.deny .sourceBlocked) ∧ DenyReason.logged .sourceBlocked = true ∧
        (s.denialOf e .sourceBlocked).domain = none) ∧
      (∀ d : DomainNo, (s.active.classify l m.source).result = .domain d →
        e.domain? = some d ∧ e.phase ≠ .deciding (.deny .unclassified) ∧
          e.phase ≠ .deciding (.deny .sourceBlocked))

/-- R54: steps 5 and 6 decide from the window lookup, for a domain that is ACTIVE; a TAGGED window goes on to a
record read at the granule index of the address. -/
def Obligations.CheckWindowSteps : Prop :=
  ∀ (s : State) (l : LinkId) (m : CheckMsg) (d : DomainNo), s.Takes l (.check l m) →
    (s.link l).state = .active → s.mode = .operating → m.tag < s.maxOpen l →
    s.tagOpen l m.tag = false → (s.active.classify l m.source).result = .domain d →
    s.domainActive d = true →
    ∃ e : OpenCheck, exec (.check l m) s = .next ({ s with
        openChecks := s.openChecks ++ [e]
        store := { s.store with verdictQ :=
          if e.phase = .waitRecord then s.store.verdictQ ++ [(l, m.tag)] else s.store.verdictQ } } :
            State).closeEvent ∧
      (s.active.lookup m.address.toNat = none → e.phase = .deciding (.deny .unmapped) ∧
        e.window = none ∧ DenyReason.logged .unmapped = true) ∧
      (∀ (n : Nat) (w : Window), s.active.lookup m.address.toNat = some (n, w) →
        e.window = some { window := n, mode := w.mode, base := w.baseOf m.address.toNat
                          granule := w.granule } ∧
        (w.mode = .closed → e.phase = .deciding (.deny .closedRegion) ∧
          DenyReason.logged .closedRegion = true) ∧
        (w.mode = .platformOnly → d = 0 → e.phase = .deciding .allowReadWrite) ∧
        (w.mode = .platformOnly → d ≠ 0 → e.phase = .deciding (.deny .platformRegion) ∧
          DenyReason.logged .platformRegion = true) ∧
        (w.mode = .openAll → e.phase = .deciding .allowReadWrite) ∧
        (w.mode = .tagged → e.phase = .waitRecord ∧
          e.granule = some (w.indexOf m.address.toNat)) ∧
        (w.mode ≠ .tagged → ∀ (o : CheckOutcome) (b : Bool),
          (e.verdict o b).granuleBase = some (w.baseOf m.address.toNat, w.granule) ∧
          (e.verdict o b).granule = none ∧ (e.verdict o b).generation = none))

/-- R55: the decision table of step 7, for every record, domain and access. -/
def Obligations.RecordDecision : Prop :=
  ∀ (d : DomainNo) (a : AccessKind),
    (∀ img : Image, recordOutcome d a (.unverifiable img) = .deny .integrity) ∧
    ∀ r : TagRecord,
      (r.state = .quarantined → recordOutcome d a (.verified r) = .deny .integrity) ∧
      (r.state = .fenced → recordOutcome d a (.verified r) = .deny .fenced) ∧
      (r.state = .free → d = 0 → recordOutcome d a (.verified r) = .allowReadWrite) ∧
      (r.state = .free → d ≠ 0 → recordOutcome d a (.verified r) = .deny .notOwner) ∧
      (r.state = .owned ∨ r.state = .shared → d = 0 → r.platformAccess = true →
        recordOutcome d a (.verified r) = .allowReadWrite) ∧
      (r.state = .owned ∨ r.state = .shared → d = 0 → r.platformAccess = false →
        recordOutcome d a (.verified r) = .deny .privateGranule) ∧
      (r.state = .owned ∨ r.state = .shared → d ≠ 0 → d = r.owner →
        recordOutcome d a (.verified r) = .allowReadWrite) ∧
      (r.state = .owned ∨ r.state = .shared → d ≠ 0 → d ≠ r.owner →
        (∀ w ∈ r.slots, slotPresent w = true → slotDomain w ≠ d) →
        recordOutcome d a (.verified r) = .deny .notOwner) ∧
      (r.state = .owned ∨ r.state = .shared → d ≠ 0 → d ≠ r.owner →
        ∀ (pre post : List Half) (w : Half), r.slots = pre ++ w :: post →
          (∀ x ∈ pre, slotPresent x = true → slotDomain x ≠ d) → slotPresent w = true →
          slotDomain w = d →
          recordOutcome d a (.verified r) =
            (if slotRights w = .readWrite then .allowReadWrite
             else if a = .read then .allowRead else .deny .readOnly))

/-- The grant of a check's record read: the entry enters DECIDING behind the others with the outcome of step 7 on
the record as it stands; an unverifiable record is filed for quarantine and given to the error capture. A quarantine
request is dropped when its index is listed or held by the sweep or four are listed, and else goes to the tail of the
list; the error capture takes a failure when it is empty, and else counts it. A granted
access to a record that the store does not hold stops the model: the model's choice (log entry 16). -/
def Obligations.RecordReadGrant : Prop :=
  (∀ (s : State) (n : LinkId × Nat) (rest : List (LinkId × Nat)) (e : OpenCheck) (g : Nat),
    s.arbPick = some .verdict → s.store.verdictQ = n :: rest →
    s.openChecks.find? (fun x => x.named n) = some e → e.granule = some g → g < s.capacity →
    let u : State := { s.countGrant .verdict with
      store := { (s.countGrant .verdict).store with verdictQ := rest } }
    let kept : List OpenCheck := s.openChecks.filter fun x => !x.named n
    (∀ r : TagRecord, s.readRecord g = .verified r →
      exec .recordReadGrant s = .next ({ u with openChecks := kept ++
        [{ e with phase := .deciding (recordOutcome (e.domain?.getD 0) e.access (.verified r))
                  seen := some (.verified r) }] } : State).closeEvent) ∧
    ∀ img : Image, s.readRecord g = .unverifiable img →
      exec .recordReadGrant s = .next ((({ u with openChecks := kept ++
        [{ e with phase := .deciding (.deny .integrity), seen := some .unverifiable }] } :
          State).fileRequest g).capture g .verdict img).closeEvent) ∧
  (∀ (s : State) (n : LinkId × Nat) (rest : List (LinkId × Nat)) (e : OpenCheck) (g : Nat),
    s.arbPick = some .verdict → s.store.verdictQ = n :: rest →
    s.openChecks.find? (fun x => x.named n) = some e → e.granule = some g → s.capacity ≤ g →
    exec .recordReadGrant s = .fault (.recordOutsideStore g)) ∧
  (∀ (s : State) (g : Nat),
    (g ∈ s.sweep.requests ∨ s.sweep.held = some g ∨ 4 ≤ s.sweep.requests.length → s.fileRequest g = s) ∧
    (g ∉ s.sweep.requests → s.sweep.held ≠ some g → s.sweep.requests.length < 4 →
      s.fileRequest g = { s with sweep := { s.sweep with requests := s.sweep.requests ++ [g] } })) ∧
  ∀ (s : State) (g : Nat) (who : FoundBy) (img : Image),
    (checkByte img.toList).toNat = (255 - ((img.toList.take 15).map BitVec.toNat).sum % 256) ∧
    (s.sweep.capture = none → s.capture g who img = { s with sweep := { s.sweep with
      capture := some
        { granule := g, foundBy := who, stored := img[15], computed := checkByte img.toList } } }) ∧
    ∀ c : Capture, s.sweep.capture = some c → s.capture g who img = { s with sweep := { s.sweep with
      overflow := if s.sweep.overflow < 255 then s.sweep.overflow + 1 else s.sweep.overflow } }

/-- The issue of a verdict: the VERDICT is handed with its fields; it is cacheable exactly when the nine conditions
hold, the directory being asked when the first eight do, and then and only then the grant is recorded; the entry
closes and its marks are counted down, and a drain or a commit flush that waited for it alone is completed; a logged
denial goes to Q0 with the fields of the entry, as RecordsAndNotify
states the store; a watched match report tells where it went. The recording of a grant adds the link to the
granule's holder set, in the way that holds the granule, else in the lowest-numbered free way of its set, and no other
way changes; it is refused when every way of the set holds another index. The entry offered to a link is the link's first in
DECIDING in the list of open checks, whose order is the order they entered it (log entry 27); a link without one is
offered none, and its issue is not due (log entry 4). The fields of a denial report. The VERDICT goes to the tail of
the link's path, behind the messages already there, and no other message but a NOTIFY is handed in the event; the
statuses raised are those of the store of the denial, WATCH_HIT for a watched check, and COMMIT_DONE when the commit
flush is completed. -/
def Obligations.VerdictIssue : Prop :=
  (∀ (s : State) (l : LinkId) (e : OpenCheck) (o : CheckOutcome), s.offered l = some e →
    e.phase = .deciding o →
    let eight : Prop := (o = .allowRead ∨ o = .allowReadWrite) ∧
      (∃ w, e.window = some w ∧ w.mode = .tagged) ∧ e.cacheWanted = true ∧
      (∃ a, (s.link l).announced = some a ∧ 0 < a.capacity.toNat) ∧ (s.link l).state = .active ∧
      (s.link l).flushOutstanding = false ∧ s.phase = .idle ∧ e.stale = false ∧ e.oldEpoch = false
    let q : ReportQueue DenialRecord := s.reports.q0
    let told : State := match o with
      | .deny r => if r.logged = true then s.storeDenial (s.denialOf e r) else s
      | .allowRead | .allowReadWrite => s
    let raised : State := if (e.classified.bind Classification.watched).isSome = true
      then told.raise .watchHit else told
    ∃ (t : State) (v : VerdictMsg), exec (.verdictIssue l) s = .next t ∧
      .verdict v ∈ (t.link l).outbound ∧
      v.tag = e.tag ∧ v.outcome = o ∧ v.epoch = e.epoch ∧
      v.granuleBase = e.window.map (fun w => (w.base, w.granule)) ∧
      v.granule = (if e.seen.isSome then e.granule else none) ∧
      (∀ r : TagRecord, e.seen = some (.verified r) → v.generation = some r.generation) ∧
      (e.seen = some .unverifiable ∨ e.seen = none → v.generation = none) ∧
      (v.cacheable = true ↔ eight ∧ ∃ g : Nat, e.granule = some g ∧ (s.recordGrant g l).2 = true) ∧
      (∀ g : Nat, eight → e.granule = some g → t.directory = (s.recordGrant g l).1.directory ∧
        t.directoryMisses = (s.recordGrant g l).1.directoryMisses) ∧
      (¬ eight ∨ e.granule = none → t.directory = s.directory ∧
        t.directoryMisses = s.directoryMisses) ∧
      t.openChecks = s.openChecks.filter (fun x => !x.named (e.link, e.tag)) ∧
      t.oldEpochCount = (if e.oldEpoch then s.oldEpochCount - 1 else s.oldEpochCount) ∧
      (∀ (g : Nat) (f : FenceEntry), e.stale = true → e.granule = some g → s.fenceOf g = some f →
        ∃ x : FenceEntry, t.fenceOf g = some x ∧
          x = { f with staleCount := f.staleCount - 1, phase := x.phase }) ∧
      (∀ g : Nat, e.stale = false ∨ e.granule ≠ some g →
        (t.fenceOf g).map (fun f => { f with phase := .fencing }) =
          (s.fenceOf g).map (fun f => { f with phase := .fencing })) ∧
      t = { s with
        links := t.links, openChecks := t.openChecks, oldEpochCount := t.oldEpochCount
        directory := t.directory, directoryMisses := t.directoryMisses, fence := t.fence
        phase := t.phase, watchReport := t.watchReport
        store := { s.store with commandQ := t.store.commandQ }
        reports := { s.reports with
          q0 := t.reports.q0, violations := t.reports.violations
          status := t.reports.status, notifyDue := t.reports.notifyDue } } ∧ s.LinksSend t ∧
      (∃ u : State, t = u.settle.closeEvent ∧ u.phase = s.phase ∧ u.flushSet = s.flushSet ∧
        u.oldEpochCount = t.oldEpochCount ∧ u.store.commandQ = s.store.commandQ ∧
        u.fence = s.fence.map (fun x => if e.stale = true ∧ e.granule = some x.granule
          then { x with staleCount := x.staleCount - 1 } else x) ∧
        (∀ m : LinkId, u.link m = if m = l
          then { s.link l with outbound := (s.link l).outbound ++ [.verdict v] } else s.link m) ∧
        u.reports = raised.reports ∧
        t.reports.status = (if u.phase = .flushing ∧ u.flushSet = 0 ∧ u.oldEpochCount = 0
          then raised.reports.status ||| Status.commitDone.mask else raised.reports.status)) ∧
      (∀ r : DenyReason, o = .deny r → r.logged = true → q.fill < q.size →
        t.reports.q0.records = q.records ++ [s.denialOf e r]) ∧
      (∀ r : DenyReason, o = .deny r → r.logged = true →
        t.reports.q0 = (s.storeDenial (s.denialOf e r)).reports.q0 ∧
        t.reports.violations = (s.storeDenial (s.denialOf e r)).reports.violations ∧
        ∀ st : Status, StatusSet.has (s.storeDenial (s.denialOf e r)).reports.status st = true →
          StatusSet.has t.reports.status st = true) ∧
      ((∀ r : DenyReason, o = .deny r → r.logged = false) →
        t.reports.q0 = q ∧ t.reports.violations = s.reports.violations) ∧
      (e.classified.bind Classification.watched = none → t.watchReport = s.watchReport) ∧
      ∀ n : Nat, e.classified.bind Classification.watched = some n → ∃ place : Placement,
        t.watchReport = some
          { element := n, message := .check, link := l, source := e.source, domain := e.domain?
            placement := place } ∧
        StatusSet.has t.reports.status .watchHit = true ∧
        ((∀ r : DenyReason, o = .deny r → r.logged = false) → place = .none) ∧
        ∀ r : DenyReason, o = .deny r → r.logged = true →
          (q.fill < q.size ∨ (0 < q.size ∧ q.mode = .overwrite) →
            place = .q0 ((q.get + q.fill) % q.size)) ∧
          (q.size ≤ q.fill → q.size = 0 ∨ q.mode = .blocking → place = .lost)) ∧
  (∀ (s : State) (g : Nat) (l : LinkId), s.TablesOk →
    ((s.recordGrant g l).2 = true ↔ (∃ w ∈ dirWays g, ∃ d, s.dirWay w = some d ∧ d.granule = g) ∨
      ∃ w ∈ dirWays g, s.dirWay w = none) ∧
    ((s.recordGrant g l).2 = true →
      (s.recordGrant g l).1.holders g = LinkSet.add (s.holders g) l ∧
      (s.recordGrant g l).1.directoryMisses = s.directoryMisses) ∧
    ((s.recordGrant g l).2 = false → (s.recordGrant g l).1.directory = s.directory ∧
      (s.recordGrant g l).1.directoryMisses =
        (if s.directoryMisses < 2 ^ 32 - 1 then s.directoryMisses + 1 else s.directoryMisses)) ∧
    (∀ h : Nat, h ≠ g → (s.recordGrant g l).1.holders h = s.holders h) ∧
    (∀ w : Nat, w ∈ dirWays g ↔ w / 4 = g % 4096) ∧
    (∀ (w : Nat) (d : DirEntry), w ∈ dirWays g → s.dirWay w = some d → d.granule = g →
      (∀ v ∈ dirWays g, v < w → ∀ x : DirEntry, s.dirWay v = some x → x.granule ≠ g) →
      ∀ v : Nat, (s.recordGrant g l).1.dirWay v = if v = w
        then some { granule := g, holders := LinkSet.add d.holders l } else s.dirWay v) ∧
    (∀ w : Nat, w ∈ dirWays g → s.dirWay w = none →
      (∀ v ∈ dirWays g, v < w → s.dirWay v ≠ none) →
      (∀ v ∈ dirWays g, ∀ x : DirEntry, s.dirWay v = some x → x.granule ≠ g) →
      ∀ v : Nat, (s.recordGrant g l).1.dirWay v = if v = w
        then some { granule := g, holders := 1#4 <<< l.val } else s.dirWay v)) ∧
  (∀ (s : State) (l : LinkId),
    (∀ e : OpenCheck, s.offered l = some e ↔ ∃ pre post : List OpenCheck,
      s.openChecks = pre ++ e :: post ∧ e.link = l ∧ e.phase ≠ .waitRecord ∧
        ∀ x ∈ pre, x.link = l → x.phase = .waitRecord) ∧
    (s.offered l = none ↔ ∀ x ∈ s.openChecks, x.link = l → x.phase = .waitRecord) ∧
    (s.offered l = none → exec (.verdictIssue l) s = .next s)) ∧
  ∀ (s : State) (e : OpenCheck) (r : DenyReason),
    let d : DenialRecord := s.denialOf e r
    d.time = s.timeBase ∧ d.link = e.link ∧ d.source = e.source ∧ d.address = e.address ∧
    d.access = e.access ∧ d.reason = r ∧
    (e.classified = none → d.domain = none ∧ d.decidedBy = none) ∧
    (∀ c : Classification, e.classified = some c → d.decidedBy = some c.decidedBy ∧
      d.domain = match c.result with
        | .domain x => some x
        | .block | .unclassified => none) ∧
    d.window = e.window.map (fun w => w.window) ∧
    d.granule = (if e.seen = none then none else e.granule) ∧
    (e.seen = none → d.stateSeen = none ∧ d.ownerSeen = none ∧ d.labelSeen = none) ∧
    (e.seen = some .unverifiable →
      d.stateSeen = some .unverifiable ∧ d.ownerSeen = none ∧ d.labelSeen = none) ∧
    ∀ x : TagRecord, e.seen = some (.verified x) →
      d.labelSeen = some x.label ∧
      d.ownerSeen = (if x.state = .owned ∨ x.state = .shared then some x.owner else none) ∧
      d.stateSeen = match x.state with
        | .free => some .free | .owned => some .owned | .shared => some .shared
        | .quarantined => some .quarantined | .fenced => none

/-! ### Directory, revocation and flushes -/

/-- A DROP is ignored from a link pending on the granule's fence entry and from one that is no holder; from a
holder it takes the link out of the granule's holder set, and out of no other. -/
def Obligations.DropFrame : Prop :=
  ∀ (s : State) (l : LinkId) (g : Nat), s.Takes l (.drop l g) → s.Serves l →
    (s.pendingOn g l = true ∨ LinkSet.has (s.holders g) l = false →
      exec (.drop l g) s = .next s.closeEvent) ∧
    (s.pendingOn g l = false → LinkSet.has (s.holders g) l = true → s.TablesOk →
      ∃ t : State, exec (.drop l g) s = .next t.closeEvent ∧ t = { s with directory := t.directory } ∧
        (∀ w : Nat, some w ≠ s.dirFind g → t.dirWay w = s.dirWay w) ∧
        ∀ w : Nat, s.dirFind g = some w →
          t.dirWay w = (if LinkSet.del (s.holders g) l = 0 then none
            else some { granule := g, holders := LinkSet.del (s.holders g) l }))

/-- A REVOKE_ACK that matches a fence entry in REVOKING takes the link out of its pending holder set; the timer
stops when the set becomes empty, and the drain is tested. Any other counts UNEXPECTED. What `settle` completes: every
consulted entry in REVOKING with no pending link and no stale check goes to FINISHING, and its final write is placed at
the tail of the COMMAND class queue, in ascending granule index; a commit flush that waits for nothing ends, with
COMMIT_DONE; nothing else changes. That a REVOKE not yet sent stays in the path is the model's choice (log entry
45). -/
def Obligations.RevokeAckFrame : Prop :=
  (∀ (s : State) (l : LinkId) (g : Nat) (n : Half), s.Takes l (.revokeAck l g n) → s.Serves l →
    (∀ e : FenceEntry, s.fenceOf g = some e → e.phase = .revoking → e.consulted = true →
      e.genRead = some n → LinkSet.has e.pending l = true →
      exec (.revokeAck l g n) s = .next ((s.updFence g fun x => x.dropPending l).settle).closeEvent ∧
      LinkSet.has (e.dropPending l).pending l = false ∧
      ((e.dropPending l).pending = 0 → (e.dropPending l).timer = none) ∧
      (∀ m : LinkId, m ≠ l → LinkSet.has (e.dropPending l).pending m = LinkSet.has e.pending m)) ∧
    ((∀ e : FenceEntry, s.fenceOf g = some e → e.phase ≠ .revoking ∨ e.consulted = false ∨
        e.genRead ≠ some n ∨ LinkSet.has e.pending l = false) →
      exec (.revokeAck l g n) s = .next (s.countError l .unexpected).closeEvent)) ∧
  ∀ s : State,
    let drained (e : FenceEntry) : Bool :=
      decide (e.phase = .revoking ∧ e.consulted = true ∧ e.pending = 0 ∧ e.staleCount = 0)
    let ends : Prop := s.phase = .flushing ∧ s.flushSet = 0 ∧ s.oldEpochCount = 0
    let t : State := { s with
      fence := s.fence.map (fun e => if drained e then { e with phase := .finishing } else e)
      store := { s.store with commandQ := s.store.commandQ ++
        (s.fence.filter drained).map (fun e => { granule := e.granule, access := .finalWrite }) } }
    (s.FenceOk → ((s.fence.filter drained).map FenceEntry.granule).Pairwise (· < ·)) ∧
    (ends → s.settle = ({ t with phase := .idle } : State).raise .commitDone) ∧
    (¬ ends → s.settle = t)

/-- A FLUSH_ACK with the flag set clears the flag and the timer and takes the link out of every holder set, every
pending holder set and the commit flush set, no other link leaving one; a directory entry without a holder left is
freed; with the flag clear it counts UNEXPECTED. An entry whose drain that
completes goes to FINISHING with its final write placed, and a FLUSHING phase whose set becomes empty with no old-epoch
check open goes to IDLE with COMMIT_DONE; else the phase and the statuses stay. With the flag set no path loses or
is handed a message other than a NOTIFY: that a FLUSH_ALL or REVOKE not yet sent stays in the path is the model's choice
(log entry 45). -/
def Obligations.FlushAckFrame : Prop :=
  ∀ (s : State) (l : LinkId), s.Takes l (.flushAck l) → s.Serves l →
    ((s.link l).flushOutstanding = true →
      ∃ t, exec (.flushAck l) s = .next t ∧ (∀ g : Nat, LinkSet.has (t.holders g) l = false) ∧
        (s.TablesOk → ∀ w : Nat, t.dirWay w = (s.dirWay w).bind fun d =>
          if LinkSet.del d.holders l = 0 then none
          else some { granule := d.granule, holders := LinkSet.del d.holders l }) ∧
        (∀ e ∈ t.fence, LinkSet.has e.pending l = false) ∧ t.flushSet = LinkSet.del s.flushSet l ∧
        t.link l = { s.link l with
          flushOutstanding := false, flushTimer := none, outbound := (t.link l).outbound } ∧
        s.OthersSend t l ∧ t = { s with
          links := t.links, directory := t.directory, fence := t.fence, flushSet := t.flushSet
          phase := t.phase, store := { s.store with commandQ := t.store.commandQ }
          reports := { s.reports with
            status := t.reports.status, notifyDue := t.reports.notifyDue } } ∧
        let left (e : FenceEntry) : FenceEntry := if LinkSet.has e.pending l then
            { e with
              pending := LinkSet.del e.pending l
              timer := if LinkSet.del e.pending l = 0 then none else e.timer }
          else e
        let drained (e : FenceEntry) : Bool :=
          decide (e.phase = .revoking ∧ e.consulted = true ∧ e.pending = 0 ∧ e.staleCount = 0)
        let ends : Prop := s.phase = .flushing ∧ t.flushSet = 0 ∧ s.oldEpochCount = 0
        t.fence = s.fence.map (fun e =>
          if drained (left e) then { left e with phase := .finishing } else left e) ∧
        t.store.commandQ = s.store.commandQ ++ ((s.fence.map left).filter drained).map (fun e =>
          { granule := e.granule, access := .finalWrite }) ∧
        (ends → t.phase = .idle ∧ t.reports.status = s.reports.status ||| Status.commitDone.mask) ∧
        (¬ ends → t.phase = s.phase ∧ t.reports.status = s.reports.status) ∧
        (∀ m : LinkId, (t.link m).outbound.filter (fun x => !x.isNotify) =
          (s.link m).outbound.filter (fun x => !x.isNotify)) ∧
        ∃ u : State, t = u.settle.closeEvent ∧
          u = { s with
            links := u.links, directory := t.directory, fence := s.fence.map left
            flushSet := LinkSet.del s.flushSet l } ∧
          ∀ m : LinkId, u.link m = if m = l
            then { s.link l with flushOutstanding := false, flushTimer := none } else s.link m) ∧
    ((s.link l).flushOutstanding = false →
      exec (.flushAck l) s = .next (s.countError l .unexpected).closeEvent)

/-- The directory consultation of a fence entry: the holder set becomes the pending holder set, REVOKE with the
generation read goes to each pending link without a flush outstanding and to no other link, and the revoke timer starts
unless the set is empty. The drain or commit flush that is then complete is completed as RevokeAckFrame states, and no
other message but a NOTIFY is sent. That the REVOKE goes behind one still unsent of a revocation that has ended is the
model's choice (log entry 45). What a link set holds, and the holder set of a granule index: that of the entry in the
lowest-numbered way of its set that names the index, empty without one. -/
def Obligations.DirectoryConsultation : Prop :=
  (∀ (x : LinkSet) (l m : LinkId), LinkSet.has x l = x.getLsbD l.val ∧
    (LinkSet.has (LinkSet.add x l) m = true ↔ m = l ∨ LinkSet.has x m = true) ∧
    (LinkSet.has (LinkSet.del x l) m = true ↔ m ≠ l ∧ LinkSet.has x m = true)) ∧
  (∀ (s : State) (g : Nat),
    s.fenceOf g = s.fence.find? (fun e => decide (e.granule = g)) ∧
    (s.fenced g = true ↔ ∃ e : FenceEntry, s.fenceOf g = some e) ∧
    ((∀ w ∈ dirWays g, ∀ d : DirEntry, s.dirWay w = some d → d.granule ≠ g) → s.holders g = 0) ∧
    ∀ (w : Nat) (d : DirEntry), w ∈ dirWays g → s.dirWay w = some d → d.granule = g →
      (∀ v ∈ dirWays g, v < w → ∀ x : DirEntry, s.dirWay v = some x → x.granule ≠ g) →
      s.holders g = d.holders) ∧
  ∀ (s : State) (g : Nat) (e : FenceEntry) (n : Half), s.fenceOf g = some e → e.phase = .revoking →
    e.consulted = false → e.genRead = some n →
    ∃ (t : State) (f : FenceEntry), exec (.directoryConsultation g) s = .next t ∧
      t.fenceOf g = some f ∧ f.pending = s.holders g ∧ f.consulted = true ∧
      f.timer = (if s.holders g = 0 then none
        else some (s.timeBase + BitVec.ofNat 48 s.revokeTimeout)) ∧
      f.phase = (if s.holders g = 0 ∧ e.staleCount = 0 then .finishing else .revoking) ∧
      (∀ l : LinkId, LinkSet.has (s.holders g) l = true → (s.link l).flushOutstanding = false →
        .revoke g n ∈ (t.link l).outbound) ∧
      s.LinksSend t ∧ (∀ h : Nat, h ≠ g → s.fenceOf h = none → t.fenceOf h = none) ∧
      t = { s with
        links := t.links, fence := t.fence, phase := t.phase
        store := { s.store with commandQ := t.store.commandQ }
        reports := { s.reports with status := t.reports.status, notifyDue := t.reports.notifyDue } } ∧
      (∀ l : LinkId, LinkSet.has (s.holders g) l = false ∨ (s.link l).flushOutstanding = true →
        (t.link l).outbound.filter (fun m => !m.isNotify) =
          (s.link l).outbound.filter (fun m => !m.isNotify)) ∧
      ∃ u : State, t = u.settle.closeEvent ∧
        u = { s with
          links := u.links
          fence := s.fence.map (fun x => if x.granule = g then
            { x with pending := f.pending, consulted := true, timer := f.timer } else x) } ∧
        ∀ l : LinkId, u.link l = { s.link l with outbound := (s.link l).outbound ++
          (if LinkSet.has (s.holders g) l = true ∧ (s.link l).flushOutstanding = false
            then [.revoke g n] else []) }

/-! ### Tag commands -/

/-- A TAGCMD of any kind that is carried out enters the direct command queue with its index range fixed, when the
queue has a place, its arguments pass and its range converts. One that a test stops is answered in that event and
changes nothing else: QUEUE_FULL first, then BAD_ARGUMENT, then OUT_OF_RANGE. The argument test of each kind, the content
test of a REBUILD for each state, and the conversion of a range in either form. -/
def Obligations.TagCommandTaking : Prop :=
  (∀ (s t : State) (h : MgmtHeader) (r : RangeArg) (k : StepKind) (frame : Instr) (first : Nat),
    tagcmdFrame h r k = some frame → s.Carries h frame t → t.directQueue.length < 16 →
    k.argsOk = true → t.active.rangeFirst r.form r.first r.count = some first →
    exec frame s = .next ({ t with directQueue := t.directQueue ++
      [{ link := h.link, tag := h.tag, inSession := true, kind := k, first := first, count := r.count
         nextOffset := 0, inFence := 0, done := 0, failed := 0, firstFailed := none }] } :
        State).closeEvent) ∧
  (∀ (s t : State) (h : MgmtHeader) (r : RangeArg) (k : StepKind) (frame : Instr),
    tagcmdFrame h r k = some frame → s.Carries h frame t →
    (16 ≤ t.directQueue.length → exec frame s = .next
      (t.hand h.link (.refuse { kind := .management, tag := h.tag } .queueFull)).closeEvent) ∧
    (t.directQueue.length < 16 → k.argsOk = false → exec frame s = .next
      (t.hand h.link (.commandReply
        { tag := h.tag, result := .rejected, done := 0, failed := 0
          firstOffset := none, firstReason := some .badArgument })).closeEvent) ∧
    (t.directQueue.length < 16 → k.argsOk = true →
      t.active.rangeFirst r.form r.first r.count = none → exec frame s = .next
      (t.hand h.link (.commandReply
        { tag := h.tag, result := .rejected, done := 0, failed := 0
          firstOffset := none, firstReason := some .outOfRange })).closeEvent)) ∧
  (∀ (d e : DomainNo) (pa : Bool) (n : Half) (q : Rights),
    let tenant (x : DomainNo) : Prop := 1 ≤ x.toNat ∧ x.toNat ≤ 1023
    ((StepKind.assign d pa n).argsOk = true ↔ tenant d) ∧
    ((StepKind.release d).argsOk = true ↔ tenant d) ∧
    ((StepKind.setAttr d pa n).argsOk = true ↔ tenant d) ∧
    ((StepKind.share d e q).argsOk = true ↔ tenant d ∧ tenant e ∧ e ≠ d) ∧
    ((StepKind.unshare d e).argsOk = true ↔ tenant d ∧ tenant e ∧ e ≠ d) ∧
    ((StepKind.transfer d e).argsOk = true ↔ tenant d ∧ tenant e)) ∧
  (∀ c : RebuildContent, (StepKind.rebuild c).argsOk = true ↔
    (c.state = .free ∧ c.owner = 0 ∧ c.sharers = []) ∨
    (c.state = .owned ∧ 1 ≤ c.owner.toNat ∧ c.owner.toNat ≤ 1023 ∧ c.sharers = []) ∨
    (c.state = .shared ∧ 1 ≤ c.owner.toNat ∧ c.owner.toNat ≤ 1023 ∧ 1 ≤ c.sharers.length ∧
      c.sharers.length ≤ 3 ∧ (c.sharers.map Prod.fst).Nodup ∧
      ∀ x ∈ c.sharers, 1 ≤ x.1.toNat ∧ x.1.toNat ≤ 1023 ∧ x.1 ≠ c.owner)) ∧
  ∀ (p : PolicyCopy) (a n : Nat), p.rangeFirst .index a n = some a ∧
    ∀ i : Nat, p.rangeFirst .address a n = some i ↔ ∃ (m : Nat) (w : Window),
      p.lookup a = some (m, w) ∧ w.mode = .tagged ∧
      (a - w.effBase) / 2 ^ (match w.granule with | .kib4 => 12 | .mib2 => 21) + n ≤ w.effSize ∧
      i = w.tagBase + (a - w.effBase) / 2 ^ (match w.granule with | .kib4 => 12 | .mib2 => 21)

/-- An allocation gives one free fence entry to the next step of the first ready source from the source pointer
on, in the fixed cyclic order DIRECT, CHAIN0, CHAIN1, RETIRE, SWEEP; it finds one whenever a source is ready. A ready
source is one that offers a step whose granule no fence entry names: the entry is in FENCING, its command read waits,
and the pointer moves past the source. What each source offers, and how its next step moves on when its step is given
an entry: the offset and the steps in fence of a direct command and of a channel advance, the scanner and the sweep
let go of a held step and move, a listed request is removed. An allocation without a ready source or a free entry is not
due and changes nothing: the model's choice (log entry 4). -/
def Obligations.FenceAllocation : Prop :=
  (∀ s : State,
    (s.directQueue = [] → s.offer .direct = none) ∧
    (∀ (e : DirectEntry) (rest : List DirectEntry), s.directQueue = e :: rest →
      s.offer .direct =
        (if e.nextOffset < e.count ∧ e.first + e.nextOffset < s.capacity then
          some (e.first + e.nextOffset, e.kind) else none)) ∧
    (∀ c : ChannelId,
      let k : Channel := s.chan c
      (k.block = none → s.offer (.chain c) = none) ∧
      ∀ b : Block, k.block = some b → s.offer (.chain c) = b.step.bind fun kind =>
        if k.state = .executing ∧ k.stopRequested = false ∧ k.errorStop = false ∧ k.linkLost = false ∧
          k.nextOffset < k.rangeCount ∧ k.rangeFirst + k.nextOffset < s.capacity
        then some (k.rangeFirst + k.nextOffset, kind) else none) ∧
    s.offer .retire = s.retire.held ∧
    (∀ g : Nat, s.sweep.held = some g → s.offer .sweep = some (g, .quarantine)) ∧
    (s.sweep.held = none → s.offer .sweep = s.sweep.requests.head?.map fun g => (g, .quarantine))) ∧
  (∀ (s : State) (src : StepSource) (g : Nat) (k : StepKind), s.chosen = some (src, g, k) →
    s.offer src = some (g, k) ∧ s.fenceOf g = none ∧
      ∃ pre post : List StepSource, s.sourcePtr.cycle = pre ++ src :: post ∧
        ∀ p ∈ pre, s.readyStep p = none) ∧
  (StepSource.next .direct = .chain 0 ∧ StepSource.next (.chain 0) = .chain 1 ∧
    StepSource.next (.chain 1) = .retire ∧ StepSource.next .retire = .sweep ∧
    StepSource.next .sweep = .direct ∧
    StepSource.cycle .direct = [.direct, .chain 0, .chain 1, .retire, .sweep] ∧
    StepSource.cycle (.chain 0) = [.chain 0, .chain 1, .retire, .sweep, .direct] ∧
    StepSource.cycle (.chain 1) = [.chain 1, .retire, .sweep, .direct, .chain 0] ∧
    StepSource.cycle .retire = [.retire, .sweep, .direct, .chain 0, .chain 1] ∧
    StepSource.cycle .sweep = [.sweep, .direct, .chain 0, .chain 1, .retire]) ∧
  (∀ (s : State) (src : StepSource) (g : Nat) (k : StepKind),
    (s.readyStep src = some (g, k) ↔ s.offer src = some (g, k) ∧ s.fenceOf g = none) ∧
    (s.readyStep src = some (g, k) → s.chosen ≠ none)) ∧
  (∀ s : State, s.chosen = none ∨ 8 ≤ s.fence.length → exec .fenceAllocation s = .next s) ∧
  ∀ (s : State) (src : StepSource) (g : Nat) (k : StepKind), s.Between → s.fence.length < 8 →
    s.chosen = some (src, g, k) →
    ∃ t, exec .fenceAllocation s = .next t ∧
      t.fence.Perm ({ granule := g, source := src, kind := k, phase := .fencing, prior := none
                      genRead := none, consulted := false, pending := 0, staleCount := 0
                      timer := none } :: s.fence) ∧
      t = { s with
        fence := t.fence, sourcePtr := src.next, directQueue := t.directQueue, chains := t.chains
        retire := t.retire, sweep := t.sweep
        store := { s.store with
          commandQ := s.store.commandQ ++ [{ granule := g, access := .read }]
          retireQ := t.store.retireQ } } ∧
      (src ≠ .direct → t.directQueue = s.directQueue) ∧
      (∀ (e : DirectEntry) (rest : List DirectEntry), src = .direct → s.directQueue = e :: rest →
        t.directQueue = { e with nextOffset := e.nextOffset + 1, inFence := e.inFence + 1 } :: rest) ∧
      (∀ c : ChannelId, t.chan c = (if src = .chain c then
        { s.chan c with nextOffset := (s.chan c).nextOffset + 1, inFence := (s.chan c).inFence + 1 }
        else s.chan c)) ∧
      (src ≠ .retire → t.retire = s.retire ∧ t.store.retireQ = s.store.retireQ) ∧
      (src = .retire → t.retire = { s.retire with
          held := none, stepsInFence := s.retire.stepsInFence + 1
          position := match s.retire.position with
            | some (w, o) => s.active.nextPosition w o
            | none => none } ∧
        t.store.retireQ = (match s.retire.position with
          | some (w, o) => (match s.active.nextPosition w o with
            | some (x, y) => some (s.active.positionIndex x y)
            | none => s.store.retireQ)
          | none => s.store.retireQ)) ∧
      (src ≠ .sweep → t.sweep = s.sweep) ∧
      (src = .sweep → s.sweep.held = none →
        t.sweep = { s.sweep with requests := s.sweep.requests.tail }) ∧
      (src = .sweep → s.sweep.held ≠ none → t.sweep = { s.sweepMoves.sweep with held := none })

/-- A direct command or a channel fails the granule at its next offset OUT_OF_RANGE, without a fence entry, when
its index is at or above the capacity: the offset is passed and the failure counted as that of a step, so that the last
offset finishes the command or completes the block and a block with STOP_ON_ERROR stops, as StepResults states. With
offsets left afterwards and no error stop nothing else changes. -/
def Obligations.GranuleOutOfRange : Prop :=
  (∀ (s : State) (e : DirectEntry) (rest : List DirectEntry), s.directQueue = e :: rest →
    e.nextOffset < e.count → s.capacity ≤ e.first + e.nextOffset →
    exec (.granuleOutOfRange .direct) s = .next ((({ s with directQueue :=
      { e with nextOffset := e.nextOffset + 1, inFence := e.inFence + 1 } :: rest } : State).stepResult
        .direct (e.first + e.nextOffset) (some .outOfRange)).closeEvent)) ∧
  (∀ (s : State) (c : ChannelId) (g : Nat) (k : StepKind), s.chainNext c = some (g, k) →
    s.capacity ≤ g → exec (.granuleOutOfRange (.chain c)) s = .next (((s.updChan c fun k => { k with
      nextOffset := k.nextOffset + 1, failed := k.failed + 1
      firstFailed := lowestFailure k.firstFailed k.nextOffset .outOfRange
      errorStop := k.errorStop || k.block.any Block.stopOnError }).settleChannel c).closeEvent)) ∧
  (∀ (s : State) (c : ChannelId) (g : Nat) (k : StepKind), s.chainNext c = some (g, k) ↔
    ∃ b : Block, (s.chan c).block = some b ∧ b.step = some k ∧ (s.chan c).state = .executing ∧
      (s.chan c).stopRequested = false ∧ (s.chan c).errorStop = false ∧ (s.chan c).linkLost = false ∧
      (s.chan c).nextOffset < (s.chan c).rangeCount ∧
      g = (s.chan c).rangeFirst + (s.chan c).nextOffset) ∧
  (∀ (s : State) (e : DirectEntry) (rest : List DirectEntry), s.directQueue = e :: rest →
    e.nextOffset < e.count → s.capacity ≤ e.first + e.nextOffset →
    e.done + (e.failed + 1) ≠ e.count →
    exec (.granuleOutOfRange .direct) s = .next ({ s with directQueue :=
      { e with nextOffset := e.nextOffset + 1, failed := e.failed + 1
               firstFailed := lowestFailure e.firstFailed e.nextOffset .outOfRange } :: rest } :
        State).closeEvent) ∧
  ∀ (s : State) (c : ChannelId) (g : Nat) (k : StepKind), s.chainNext c = some (g, k) →
    s.capacity ≤ g → (s.chan c).nextOffset + 1 ≠ (s.chan c).rangeCount →
    ((s.chan c).block.any Block.stopOnError) = false →
    exec (.granuleOutOfRange (.chain c)) s = .next (s.updChan c fun k => { k with
      nextOffset := k.nextOffset + 1, failed := k.failed + 1
      firstFailed := lowestFailure k.firstFailed k.nextOffset .outOfRange }).closeEvent

/-! ### Granule steps -/

/-- The grant of a command read: a quarantine step on a record that verifies ends; a step whose tests hold keeps
the record and its generation and has its fence write placed; a step that fails frees its entry and writes
nothing. -/
def Obligations.CommandReadGrant : Prop :=
  ∀ (s : State) (g : Nat) (e : FenceEntry) (rest : List CommandRequest), s.arbPick = some .command →
    s.store.commandQ = { granule := g, access := .read } :: rest → s.fenceOf g = some e →
    g < s.capacity →
    let u : State := { s.countGrant .command with
      store := { (s.countGrant .command).store with commandQ := rest } }
    (∀ r : TagRecord, e.kind = .quarantine → s.readRecord g = .verified r →
      exec .commandReadGrant s = .next (u.freeFence g).closeEvent) ∧
    (∀ img : Image, e.kind = .quarantine → s.readRecord g = .unverifiable img →
      exec .commandReadGrant s = .next ((u.updFence g fun x => { x with
        prior := some (.unverifiable img)
        genRead := some (halfOf img[10] img[11]) }).placeCommand g .fenceWrite).closeEvent) ∧
    (e.kind ≠ .quarantine → s.stepFails e.kind (s.readRecord g) = none →
      exec .commandReadGrant s = .next ((u.updFence g fun x => { x with
        prior := some (s.readRecord g)
        genRead := some (s.readRecord g).fields.generation }).placeCommand g .fenceWrite).closeEvent) ∧
    ∀ r : FailReason, e.kind ≠ .quarantine → s.stepFails e.kind (s.readRecord g) = some r →
      ∃ t, exec .commandReadGrant s = .next t ∧
        t.fence = s.fence.filter (fun x => x.granule != g) ∧ s.LinksSend t ∧
        t = { s with
          links := t.links, fence := t.fence, retire := t.retire, domains := t.domains
          directQueue := t.directQueue, chains := t.chains
          store := { s.store with
            commandQ := rest, passOver := t.store.passOver, retireQ := t.store.retireQ }
          sweep := { s.sweep with
            requests := t.sweep.requests, capture := t.sweep.capture, overflow := t.sweep.overflow }
          reports := { s.reports with
            q1 := t.reports.q1, status := t.reports.status, notifyDue := t.reports.notifyDue } }

/-- The tests of each kind but the quarantine step at its command read, in order, and the record that the final
write of each kind leaves. -/
def Obligations.StepTestsAndFinalRecords : Prop :=
  (∀ (s : State) (k : StepKind) (img : Image), (∀ c, k ≠ .rebuild c) → k ≠ .quarantine →
    s.stepFails k (.unverifiable img) = some .integrity) ∧
  (∀ (s : State) (k : StepKind) (r : TagRecord), (∀ c, k ≠ .rebuild c) → k ≠ .quarantine →
    (r.state = .fenced → s.stepFails k (.verified r) = some .granuleFenced) ∧
    (r.state = .quarantined → s.stepFails k (.verified r) = some .integrity)) ∧
  (∀ (s : State) (c : RebuildContent) (p : ReadRecord),
    s.stepFails (.rebuild c) p = (if s.contentActive c then none else some .domainState) ∧
    (s.contentActive c = true ↔ c.state = .owned ∨ c.state = .shared →
      s.domainActive c.owner = true ∧ ∀ x ∈ c.sharers, s.domainActive x.1 = true)) ∧
  (∀ (c : RebuildContent) (p : ReadRecord),
    let slot (n : Nat) : Half := match c.sharers[n]? with
      | some (d, q) => slotOf d q
      | none => 0
    finalRecord (.rebuild c) p =
      { state := c.state, fencedFrom := .free, owner := c.owner, slot1 := slot 0, slot2 := slot 1
        slot3 := slot 2
        generation := match p with
          | .verified r => r.generation + 1
          | .unverifiable _ => 0
        platformAccess := c.platformAccess, label := c.label }) ∧
  (∀ img : Image, finalRecord .quarantine (.unverifiable img) =
    { state := .quarantined, fencedFrom := .free, owner := halfOf img[2] img[3]
      slot1 := halfOf img[4] img[5], slot2 := halfOf img[6] img[7], slot3 := halfOf img[8] img[9]
      generation := halfOf img[10] img[11] + 1, platformAccess := img[1].getLsbD 0
      label := halfOf img[12] img[13] }) ∧
  ∀ (s : State) (r : TagRecord) (d e : DomainNo) (q : Rights) (pa : Bool) (n : Half),
    r.state = .free ∨ r.state = .owned ∨ r.state = .shared →
    s.stepFails (.assign d pa n) (.verified r) =
      (if s.domainActive d = false then some .domainState
       else if r.state ≠ .free then some .notFree else none) ∧
    s.stepFails (.release d) (.verified r) =
      (if r.state = .free then some .notOwned else if r.owner ≠ d then some .wrongOwner else none) ∧
    s.stepFails (.setAttr d pa n) (.verified r) =
      (if r.state = .free then some .notOwned else if r.owner ≠ d then some .wrongOwner else none) ∧
    s.stepFails (.transfer d e) (.verified r) =
      (if s.domainActive e = false then some .domainState else if r.state = .free then some .notOwned
       else if r.owner ≠ d then some .wrongOwner else none) ∧
    s.stepFails (.unshare d e) (.verified r) =
      (if r.state = .free then some .notOwned else if r.owner ≠ d then some .wrongOwner
       else if r.hasSharer e then none else some .notSharer) ∧
    s.stepFails (.share d e q) (.verified r) =
      (if s.domainActive e = false then some .domainState else if r.state = .free then some .notOwned
       else if r.owner ≠ d then some .wrongOwner else if r.hasSharer e then some .alreadySharer
       else if r.slots.all slotPresent then some .shareFull else none) ∧
    finalRecord (.assign d pa n) (.verified r) =
      { state := .owned, fencedFrom := .free, owner := d, slot1 := 0, slot2 := 0, slot3 := 0
        generation := r.generation + 1, platformAccess := pa, label := n } ∧
    finalRecord (.release d) (.verified r) =
      { state := .free, fencedFrom := .free, owner := 0, slot1 := 0, slot2 := 0, slot3 := 0
        generation := r.generation + 1, platformAccess := false, label := 0 } ∧
    finalRecord (.transfer d e) (.verified r) =
      { r with state := .owned, fencedFrom := .free, owner := e, slot1 := 0, slot2 := 0, slot3 := 0
               generation := r.generation + 1 } ∧
    finalRecord (.setAttr d pa n) (.verified r) =
      { r with fencedFrom := .free, generation := r.generation + 1, platformAccess := pa, label := n } ∧
    (slotPresent r.slot1 = false → finalRecord (.share d e q) (.verified r) =
      { r with state := .shared, fencedFrom := .free, generation := r.generation + 1
               slot1 := slotOf e q }) ∧
    (slotPresent r.slot1 = true → slotPresent r.slot2 = false →
      finalRecord (.share d e q) (.verified r) =
        { r with state := .shared, fencedFrom := .free, generation := r.generation + 1
                 slot2 := slotOf e q }) ∧
    (slotPresent r.slot1 = true → slotPresent r.slot2 = true → slotPresent r.slot3 = false →
      finalRecord (.share d e q) (.verified r) =
        { r with state := .shared, fencedFrom := .free, generation := r.generation + 1
                 slot3 := slotOf e q }) ∧
    (let slot (w : Half) : Half := if slotPresent w = true ∧ slotDomain w = e then 0 else w
      let left : TagRecord := { r with
        fencedFrom := .free, generation := r.generation + 1
        slot1 := slot r.slot1, slot2 := slot r.slot2, slot3 := slot r.slot3 }
      finalRecord (.unshare d e) (.verified r) =
        (if slotPresent left.slot1 = true ∨ slotPresent left.slot2 = true ∨ slotPresent left.slot3 = true
         then { left with state := .shared }
         else { left with state := .owned, slot1 := 0, slot2 := 0, slot3 := 0 })) ∧
    ((finalRecord (.unshare d e) (.verified r)).hasSharer e = false ∧
      (finalRecord (.unshare d e) (.verified r)).owner = r.owner ∧
      (finalRecord (.unshare d e) (.verified r)).platformAccess = r.platformAccess ∧
      (finalRecord (.unshare d e) (.verified r)).label = r.label ∧
      (finalRecord (.unshare d e) (.verified r)).generation = r.generation + 1 ∧
      (finalRecord (.unshare d e) (.verified r)).sharers = r.sharers.filter (fun x => x.1 != e) ∧
      (finalRecord (.unshare d e) (.verified r)).state =
        (if r.sharers.filter (fun x => x.1 != e) = [] then .owned else .shared))

/-- R6: every record that TABLE_INIT, a fence write or a final write leaves has its check computed afresh: the
sixteen bytes sum to 255 modulo 256, and byte 15 is 255 minus the sum of bytes 0 to 14. -/
def Obligations.CheckCodeOfWrites : Prop :=
  (∀ (s : State) (i : Nat) (r : TagRecord), s.MemoryOk →
    let img : Image := Memory.readImage (s.writeRecord i r).dram i
    (img.toList.map BitVec.toNat).sum % 256 = 255 ∧
      img[15].toNat = (255 - ((img.toList.take 15).map BitVec.toNat).sum % 256)) ∧
  (∀ s : State, s.initWrite.dram = (s.writeRecord s.store.initProgress freeRecord).dram) ∧
  ∀ (s : State) (e : FenceEntry) (p : ReadRecord), e.prior = some p →
    (s.fenceWrite e).dram = (s.writeRecord e.granule (fencedRecord p)).dram ∧
      (s.finalWrite e).dram = (s.writeRecord e.granule (finalRecord e.kind p)).dram

/-- The grant of a fence write: the record stands FENCED from its prior state (from QUARANTINED over one that does
not verify; one left FENCED, which a REBUILD alone meets, keeps its fenced_from, sections 6.5, 1.2 and 9.3) with every
other field kept, those found in one that does not verify as log entry 28 reads them; the open checks that read
it earlier are marked stale and counted, the entry is REVOKING and else as it was; no byte outside the record changes. -/
def Obligations.FenceWriteGrant : Prop :=
  ∀ (s : State) (g : Nat) (e : FenceEntry) (p : ReadRecord) (rest : List CommandRequest),
    s.arbPick = some .command →
    s.store.commandQ = { granule := g, access := .fenceWrite } :: rest → s.fenceOf g = some e →
    e.prior = some p → g < s.capacity → s.MemoryOk →
    ∃ (t : State) (f : FenceEntry), exec .fenceWriteGrant s = .next t.closeEvent ∧
      Memory.readImage t.dram g = recordImage (fencedRecord p) ∧
      (∀ a : Nat, a < recordBase g ∨ recordBase g + 16 ≤ a →
        Memory.read t.dram a = Memory.read s.dram a) ∧
      (fencedRecord p).state = .fenced ∧
      (∀ img : Image, p = .unverifiable img → (fencedRecord p).fencedFrom = .quarantined) ∧
      (∀ r : TagRecord, p = .verified r → (fencedRecord p).fencedFrom = match r.state with
        | .free => .free | .owned => .owned | .shared => .shared | .quarantined => .quarantined
        | .fenced => r.fencedFrom) ∧
      { fencedRecord p with state := p.fields.state, fencedFrom := p.fields.fencedFrom } = p.fields ∧
      t.openChecks = s.openChecks.map (fun x =>
        if x.phase ≠ .waitRecord ∧ x.granule = some g then { x with stale := true } else x) ∧
      t.fenceOf g = some f ∧ f.phase = .revoking ∧ f.consulted = e.consulted ∧
      f.staleCount = s.openChecks.countP
        (fun x => decide (x.phase ≠ .waitRecord ∧ x.granule = some g)) ∧
      f = { e with phase := .revoking, staleCount := f.staleCount } ∧
      (∀ h : Nat, h ≠ g → t.fenceOf h = s.fenceOf h) ∧
      t = { s with
        dram := t.dram, openChecks := t.openChecks, fence := t.fence
        store := { s.store with commandQ := rest, passOver := t.store.passOver } }

/-- The grant of a final write: the record is replaced by the content of the step's kind, the directory entry of the
granule and no other way, and the fence entry are freed and the owned counts are adjusted; no byte outside the record changes. The last step of a
retire whose walk is over ends it: COUNT_RESIDUE for a count above 0, the domain ABSENT, RETIRE_DONE. A count whose
owner does not change stays as it was, at 0 and at the capacity too (log entry 8). -/
def Obligations.FinalWriteGrant : Prop :=
  (∀ (s : State) (g : Nat) (e : FenceEntry) (p : ReadRecord) (rest : List CommandRequest),
    s.arbPick = some .command →
    s.store.commandQ = { granule := g, access := .finalWrite } :: rest → s.fenceOf g = some e →
    e.prior = some p → g < s.capacity → s.MemoryOk →
    let a : State := s.adjustOwned e.kind p (finalRecord e.kind p)
    let d : DomainNo := s.retire.domain
    let ends : Prop := e.source = .retire ∧ s.retire.running = true ∧ s.retire.position = none ∧
      s.retire.held = none ∧ s.retire.stepsInFence ≤ 1
    ∃ t, exec .finalWriteGrant s = .next t ∧
      Memory.readImage t.dram g = recordImage (finalRecord e.kind p) ∧
      (∀ a : Nat, a < recordBase g ∨ recordBase g + 16 ≤ a →
        Memory.read t.dram a = Memory.read s.dram a) ∧
      t.directory = (s.freeGranule g).directory ∧
      (s.DirectoryOk → ∀ w : Nat, t.dirWay w = (s.dirWay w).bind fun x =>
        if x.granule = g then none else some x) ∧
      t.fence = s.fence.filter (fun x => x.granule != g) ∧
      (¬ ends → t.domains = a.domains ∧ t.retire.running = s.retire.running) ∧
      (ends → s.TablesOk → d ≠ 0 → t.domainEntry d = { state := .absent, owned := 0 } ∧
        (∀ x : DomainNo, x ≠ d → t.domainEntry x = a.domainEntry x) ∧ t.retire.running = false ∧
        StatusSet.has t.reports.status .retireDone = true ∧
        ((a.domainEntry d).owned = 0 → t.reports.q1 = s.reports.q1) ∧
        ((a.domainEntry d).owned ≠ 0 → s.reports.q1.fill < s.reports.q1.size →
          t.reports.q1.records = s.reports.q1.records ++
            [{ time := s.timeBase, kind := .countResidue, link := none, granule := none
               domain := some d, detail := .count (a.domainEntry d).owned }])) ∧ s.LinksSend t ∧
      t = { s with
        dram := t.dram, links := t.links, directory := t.directory, fence := t.fence
        domains := t.domains, retire := t.retire, directQueue := t.directQueue, chains := t.chains
        store := { s.store with
          commandQ := rest, passOver := t.store.passOver, retireQ := t.store.retireQ }
        reports := { s.reports with
          q1 := t.reports.q1, status := t.reports.status, notifyDue := t.reports.notifyDue } }) ∧
  (∀ (k : StepKind) (p : ReadRecord), (finalRecord k p).generation =
    (match k, p with
     | .rebuild _, .unverifiable _ => 0
     | _, q => q.fields.generation + 1)) ∧
  (∀ (s : State) (k : StepKind) (p : ReadRecord) (w : TagRecord) (d : DomainNo), s.TablesOk →
    k ≠ .quarantine → d ≠ 0 →
    ((s.adjustOwned k p w).domainEntry d).owned =
      (if p.countedOwner = w.countedOwner then (s.domainEntry d).owned
       else if p.countedOwner = some d then (s.domainEntry d).owned - 1
       else if w.countedOwner = some d ∧ (s.domainEntry d).owned < s.capacity then
         (s.domainEntry d).owned + 1
       else (s.domainEntry d).owned)) ∧
  ∀ (s : State) (p : ReadRecord) (w : TagRecord) (d : DomainNo), s.TablesOk → d ≠ 0 →
    d.toNat ≤ 1023 →
    ((s.adjustOwned .quarantine p w).domainEntry d).owned =
      (if p.fields.owner = d then (s.domainEntry d).owned - 1 else (s.domainEntry d).owned)

/-- How a step's result reaches its source. A granted final write hands DONE, a command read whose tests fail hands
its reason. A direct command counts it, and at its last result sends TAGCMD_REPLY when its link is ACTIVE in the
command's session and stores COMMAND_FAILURE when a granule failed. A channel counts it, and when no step of it is
left in a fence entry its block completes, or it comes to rest for a lost link, an error stop or a stop; a completed
block is posted and left for the next one. A retire scanner reports a failure, and the retire ends when its walk is
over and no step is left. A quarantine step's result goes nowhere. That a lost link's COMMAND_FAILURE comes before its
CHAIN_FAULT is log entry 13; that a command keeps whether it is in its session is log entry 18, and that a channel keeps
the write of POSTING it waits for is log entry 25. Which of an entry's results is the last, and that
a failed count above 0 comes with a first failure, are read from the entry. The code of every failure reason, and the
little-endian bytes of the counts, the offset and the notify word. -/
def Obligations.StepResults : Prop :=
  (∀ r : FailReason, (reasonCode r).toNat = (match r with
    | .notFree => 1 | .notOwned => 2 | .wrongOwner => 3 | .shareFull => 4 | .alreadySharer => 5
    | .notSharer => 6 | .domainState => 7 | .granuleFenced => 8 | .integrity => 9 | .outOfRange => 10
    | .badArgument => 11)) ∧
  (∀ n : Nat, (bytes4 n).map BitVec.toNat =
    [n % 256, n / 256 % 256, n / 256 ^ 2 % 256, n / 256 ^ 3 % 256]) ∧
  (∀ q : Quad, (bytes8 q).map BitVec.toNat =
    (List.range 8).map (fun i => q.toNat / 256 ^ i % 256)) ∧
  (∀ (s : State) (g : Nat) (e : FenceEntry) (p : ReadRecord) (rest : List CommandRequest),
    s.arbPick = some .command → s.store.commandQ = { granule := g, access := .finalWrite } :: rest →
    s.fenceOf g = some e → e.prior = some p → g < s.capacity →
    let u : State := { s.countGrant .command with
      store := { (s.countGrant .command).store with commandQ := rest } }
    exec .finalWriteGrant s = .next ((((((u.writeRecord g (finalRecord e.kind p)).freeGranule g).adjustOwned
      e.kind p (finalRecord e.kind p)).freeFence g).stepResult e.source g none).closeEvent)) ∧
  (∀ (s : State) (g : Nat) (e : FenceEntry) (r : FailReason) (rest : List CommandRequest),
    s.arbPick = some .command → s.store.commandQ = { granule := g, access := .read } :: rest →
    s.fenceOf g = some e → e.kind ≠ .quarantine → s.stepFails e.kind (s.readRecord g) = some r →
    g < s.capacity →
    let u : State := { s.countGrant .command with
      store := { (s.countGrant .command).store with commandQ := rest } }
    let found : State := match e.kind, s.readRecord g with
      | .rebuild _, _ => u
      | _, .unverifiable img => (u.fileRequest g).capture g .command img
      | _, .verified _ => u
    exec .commandReadGrant s = .next ((found.freeFence g).stepResult e.source g (some r)).closeEvent) ∧
  (∀ (o n : Nat) (q r : FailReason), lowestFailure none n r = some (n, r) ∧
    lowestFailure (some (o, q)) n r = (if n < o then some (n, r) else some (o, q))) ∧
  (∀ (s : State) (e : DirectEntry) (rest : List DirectEntry) (g : Nat) (r : Option FailReason),
    s.directQueue = e :: rest →
    let d : DirectEntry := match r with
      | none => { e with inFence := e.inFence - 1, done := e.done + 1 }
      | some q => { e with
          inFence := e.inFence - 1, failed := e.failed + 1
          firstFailed := lowestFailure e.firstFailed (g - e.first) q }
    let u : State := { s with directQueue := rest }
    let v : State := if (s.link e.link).state = .active ∧ e.inSession = true then
        u.hand e.link (.commandReply
          { tag := e.tag, result := if d.failed = 0 then .done else .partialDone, done := d.done
            failed := d.failed, firstOffset := d.firstFailed.map Prod.fst
            firstReason := d.firstFailed.map Prod.snd })
      else u
    (d.done + d.failed ≠ e.count →
      s.stepResult .direct g r = { s with directQueue := d :: rest }) ∧
    (d.done + d.failed = e.count → d.firstFailed = none → s.stepResult .direct g r = v) ∧
    ∀ (o : Nat) (q : FailReason), d.done + d.failed = e.count → d.firstFailed = some (o, q) →
      s.stepResult .direct g r = v.storeEvent
        { time := s.timeBase, kind := .commandFailure, link := some e.link
          granule := some (e.first + o)
          domain := (match e.kind with
            | .assign d _ _ | .release d | .share d _ _ | .unshare d _ | .transfer d _
            | .setAttr d _ _ => some d
            | .rebuild _ | .quarantine => none)
          detail := .failure q }) ∧
  (∀ (s : State) (c : ChannelId) (g : Nat) (r : Option FailReason),
    s.stepResult (.chain c) g r = (s.updChan c fun k => match r with
      | none => { k with inFence := k.inFence - 1, done := k.done + 1 }
      | some q => { k with
          inFence := k.inFence - 1, failed := k.failed + 1
          firstFailed := lowestFailure k.firstFailed (g - k.rangeFirst) q
          errorStop := k.errorStop || (k.state == .executing && k.block.any Block.stopOnError)
      }).settleChannel c) ∧
  (∀ (s : State) (c : ChannelId) (b : Block), (s.chan c).state = .executing →
    (s.chan c).block = some b →
    let k : Channel := s.chan c
    let t : State := match k.firstFailed with
      | some (o, q) => s.storeEvent
          { time := s.timeBase, kind := .commandFailure, link := some k.fetchLink
            granule := some (k.rangeFirst + o), domain := some b.domain, detail := .failure q }
      | none => s
    (k.inFence ≠ 0 → s.settleChannel c = s) ∧
    (k.inFence = 0 → k.nextOffset = k.rangeCount →
      (k.linkLost = true → s.settleChannel c = t.restChannel c .idle .linkLost k.nextOffset) ∧
      (k.linkLost = false → s.settleChannel c = t.enterPosting c b)) ∧
    (k.inFence = 0 → k.nextOffset ≠ k.rangeCount →
      (k.linkLost = true → s.settleChannel c = s.restChannel c .idle .linkLost k.nextOffset) ∧
      (k.linkLost = false → k.errorStop = true →
        s.settleChannel c = s.restChannel c .stopped .stepErrorStop k.nextOffset) ∧
      (k.linkLost = false → k.errorStop = false → k.stopRequested = true →
        s.settleChannel c = s.restChannel c .stopped .stoppedByRequest k.nextOffset) ∧
      (k.linkLost = false → k.errorStop = false → k.stopRequested = false →
        s.settleChannel c = s))) ∧
  (∀ (s : State) (c : ChannelId) (b : Block),
    let k : Channel := s.chan c
    let tag : Byte := BitVec.ofNat 8 (128 * c.val + k.sequence)
    let write (stage : PostStage) (a : Quad) (bytes : List Byte) : State :=
      (s.hand k.fetchLink (.memWrite tag a bytes)).updChan c fun k => { k with
        state := .posting, posting := stage, sequence := (k.sequence + 1) % 128
        memRequest := some
          { kind := .write, tag := tag, expiry := s.timeBase + BitVec.ofNat 48 s.memoryTimeout } }
    (b.postStatus = true → s.enterPosting c b = write .status b.statusAddr
      ([if k.failed = 0 then 0 else 1, (match k.firstFailed with | some (_, q) => reasonCode q | none => 0),
        BitVec.ofNat 8 c.val, 0] ++ bytes4 k.done ++ bytes4 k.failed ++
        bytes4 (match k.firstFailed with | some (o, _) => o | none => 4294967295))) ∧
    (∀ a : Quad, b.postStatus = false → k.notifyAddr = some a → b.notify = true ∨ b.nextAddr = 0 →
      s.enterPosting c b = write .notify a (bytes8 k.notifyValue)) ∧
    (b.postStatus = false → k.notifyAddr = none ∨ (b.notify = false ∧ b.nextAddr ≠ 0) →
      s.enterPosting c b = (s.updChan c fun k => { k with state := .posting }).leavePosting c b)) ∧
  (∀ (s : State) (c : ChannelId) (b : Block),
    let k : Channel := s.chan c
    let t : State := s.updChan c fun k => { k with blockAddr := b.nextAddr, block := none }
    let tag : Byte := BitVec.ofNat 8 (128 * c.val + k.sequence)
    (b.nextAddr = 0 → s.leavePosting c b = s.restChannel c .idle .normalEnd k.rangeCount) ∧
    (b.nextAddr ≠ 0 → k.errorStop = true →
      s.leavePosting c b = t.restChannel c .stopped .stepErrorStop 0) ∧
    (b.nextAddr ≠ 0 → k.errorStop = false → k.stopRequested = true →
      s.leavePosting c b = t.restChannel c .stopped .stoppedByRequest 0) ∧
    (b.nextAddr ≠ 0 → k.errorStop = false → k.stopRequested = false → b.stopAfter = true →
      s.leavePosting c b = t.restChannel c .stopped .stoppedByBlock 0) ∧
    (b.nextAddr ≠ 0 → k.errorStop = false → k.stopRequested = false → b.stopAfter = false →
      s.leavePosting c b = (t.hand k.fetchLink (.memRead tag b.nextAddr)).updChan c fun k => { k with
        state := .fetching, posting := .none, sequence := (k.sequence + 1) % 128
        memRequest := some
          { kind := .read, tag := tag, expiry := s.timeBase + BitVec.ofNat 48 s.memoryTimeout } })) ∧
  (∀ (s : State) (c : ChannelId) (x : ChannelState) (q : ChainCause) (o : Nat),
    let t : State := (s.updChan c fun k => { k with
      state := x, stopRequested := false, errorStop := false, linkLost := false, memRequest := none
      posting := .none
      termination := some { cause := q, block := k.blockAddr, offset := o } }).raise
        (if c = 0 then .chain0End else .chain1End)
    (q = .fetchTimeout ∨ q = .writeTimeout ∨ q = .linkLost ∨ q = .badBlock →
      s.restChannel c x q o = t.storeEvent
        { time := s.timeBase, kind := .chainFault, link := some (s.chan c).fetchLink, granule := none
          domain := none, detail := .chain q }) ∧
    (q = .normalEnd ∨ q = .stoppedByRequest ∨ q = .stoppedByBlock ∨ q = .stepErrorStop ∨
      q = .cancelled → s.restChannel c x q o = t)) ∧
  (∀ (s : State) (g : Nat) (r : Option FailReason),
    let t : State := { s with retire := { s.retire with stepsInFence := s.retire.stepsInFence - 1 } }
    s.stepResult .retire g r = (match r with
      | some q => t.storeEvent
          { time := s.timeBase, kind := .commandFailure, link := none, granule := some g
            domain := some s.retire.domain, detail := .failure q }
      | none => t).retireTest) ∧
  (∀ s : State,
    let d : DomainNo := s.retire.domain
    let n : Nat := (s.domainEntry d).owned
    let ends : Prop := s.retire.running = true ∧ s.retire.position = none ∧ s.retire.held = none ∧
      s.retire.stepsInFence = 0
    let told : State := if n = 0 then s else s.storeEvent
      { time := s.timeBase, kind := .countResidue, link := none, granule := none, domain := some d
        detail := .count n }
    (¬ ends → s.retireTest = s) ∧
    (ends → s.TablesOk → d ≠ 0 → StatusSet.has s.retireTest.reports.status .retireDone = true ∧
      s.retireTest.retire.running = false ∧ s.retireTest.domainEntry d = { state := .absent, owned := 0 } ∧
      (∀ x : DomainNo, x ≠ d → s.retireTest.domainEntry x = s.domainEntry x) ∧
      s.retireTest.reports.q1 = told.reports.q1 ∧
      s.retireTest = { s with
        domains := s.retireTest.domains, retire := s.retireTest.retire
        reports := { s.reports with
          q1 := s.retireTest.reports.q1, status := s.retireTest.reports.status
          notifyDue := s.retireTest.reports.notifyDue } })) ∧
  ∀ (s : State) (g : Nat) (r : Option FailReason), s.stepResult .sweep g r = s

/-! ### Domains and the retire scanner -/

/-- R108: CONTROL DOMAIN_OPEN is refused BAD_ARGUMENT above 1023, DOMAIN_STATE for domain 0 and a domain not
ABSENT; otherwise the domain is ACTIVE with count 0 and no violation. -/
def Obligations.DomainOpen : Prop :=
  ∀ (s t : State) (h : MgmtHeader) (d : DomainNo), s.Carries h (.domainOpen h d) t →
    (1023 < d.toNat → exec (.domainOpen h d) s = .next
      (t.hand h.link (.controlReply h.tag (.refused .badArgument))).closeEvent) ∧
    (d.toNat ≤ 1023 → d = 0 ∨ (t.domainEntry d).state ≠ .absent →
      exec (.domainOpen h d) s = .next
        (t.hand h.link (.controlReply h.tag (.refused .domainState))).closeEvent) ∧
    (d.toNat ≤ 1023 → d ≠ 0 → (t.domainEntry d).state = .absent → t.TablesOk →
      ∃ u : State, exec (.domainOpen h d) s = .next
          (u.hand h.link (.controlReply h.tag .accepted)).closeEvent ∧
        u = { t with domains := u.domains
                     reports := { t.reports with violations := u.reports.violations } } ∧
        u.domainEntry d = { state := .active, owned := 0 } ∧ u.domainActive d = true ∧
        u.violation d.toNat = { flag := false, count := 0 } ∧
        (∀ e : DomainNo, e ≠ d → u.domainEntry e = t.domainEntry e) ∧
        ∀ n : Nat, n ≠ d.toNat → u.violation n = t.violation n)

/-- CONTROL DOMAIN_RETIRE: its refusals in order, and the start of a retire: the domain is RETIRING and the
scanner reads the first granule of the tagged index sequence; with an empty sequence the retire ends in the same event:
COUNT_RESIDUE is reported when the owned count is above 0, the domain is ABSENT with count 0, the scanner IDLE and
RETIRE_DONE raised. What the scanner's other fields hold while it is IDLE (domain 0, no position, no step) is the model's
choice (log entry 26). CONTROL_REPLY ACCEPTED then goes to the tail of the path, and nothing else but a NOTIFY is sent. -/
def Obligations.DomainRetire : Prop :=
  ∀ (s t : State) (h : MgmtHeader) (d : DomainNo), s.Carries h (.domainRetire h d) t →
    (1023 < d.toNat → exec (.domainRetire h d) s = .next
      (t.hand h.link (.controlReply h.tag (.refused .badArgument))).closeEvent) ∧
    (d.toNat ≤ 1023 → d = 0 → exec (.domainRetire h d) s = .next
      (t.hand h.link (.controlReply h.tag (.refused .domainState))).closeEvent) ∧
    (d.toNat ≤ 1023 → d ≠ 0 → t.retire.running = true → exec (.domainRetire h d) s = .next
      (t.hand h.link (.controlReply h.tag (.refused .retireBusy))).closeEvent) ∧
    (d.toNat ≤ 1023 → d ≠ 0 → t.retire.running = false → (t.domainEntry d).state = .absent →
      exec (.domainRetire h d) s = .next
        (t.hand h.link (.controlReply h.tag (.refused .domainState))).closeEvent) ∧
    (d.toNat ≤ 1023 → d ≠ 0 → t.retire.running = false → (t.domainEntry d).state ≠ .absent →
      t.TablesOk →
      ∃ u, exec (.domainRetire h d) s = .next u ∧
        .controlReply h.tag .accepted ∈ (u.link h.link).outbound ∧
        (∀ w o : Nat, t.active.firstTagged 0 = some (w, o) →
          u.domainEntry d = { t.domainEntry d with state := .retiring } ∧ u.retire.running = true ∧
          u.retire.domain = d ∧ u.retire.position = some (w, o) ∧ u.retire.held = none ∧
          u.retire.stepsInFence = 0 ∧ u.store.retireQ = some (t.active.positionIndex w o) ∧
          u = (({ t with
            domains := u.domains
            retire := { running := true, domain := d, position := some (w, o), held := none
                        setAside := none, stepsInFence := 0 }
            store := { t.store with retireQ := some (t.active.positionIndex w o) } } : State).hand
              h.link (.controlReply h.tag .accepted)).closeEvent) ∧
        (t.active.firstTagged 0 = none →
          u.domainEntry d = { state := .absent, owned := 0 } ∧ u.retire.running = false ∧
          StatusSet.has u.reports.status .retireDone = true ∧
          let told : State := if (t.domainEntry d).owned = 0 then t else t.storeEvent
            { time := t.timeBase, kind := .countResidue, link := none, granule := none, domain := some d
              detail := .count (t.domainEntry d).owned }
          u = ((({ told with
            domains := u.domains
            retire := { running := false, domain := 0, position := none, held := none
                        setAside := none, stepsInFence := 0 } } : State).raise .retireDone).hand
              h.link (.controlReply h.tag .accepted)).closeEvent) ∧
        (∀ e : DomainNo, e ≠ d → u.domainEntry e = t.domainEntry e) ∧ t.LinksSend u ∧
        u = { t with
          links := u.links, domains := u.domains, retire := u.retire
          store := { t.store with retireQ := u.store.retireQ }
          reports := { t.reports with
            q1 := u.reports.q1, status := u.reports.status, notifyDue := u.reports.notifyDue } })

/-- The grant of a scanning read: set aside under a fence entry, and placed again when that entry is freed, at a
final write or at a command read that ends the step; a record owned by the retiring domain makes the
scanner hold a RELEASE, one shared with it an UNSHARE; any other lets the scanner move. The tagged index sequence: its
first position from a window on, the next position, and the index of a position; a move places the next read, or passes
the end and may end the retire, as StepResults states. -/
def Obligations.ScanningReadGrant : Prop :=
  (∀ (p : PolicyCopy) (n : Nat),
    (∀ x y : Nat, p.firstTagged n = some (x, y) → y = 0 ∧ n ≤ x ∧
      (∃ i : Fin 16, i.val = x ∧ (p.windows[i]).walks = true) ∧
      ∀ i : Fin 16, n ≤ i.val → i.val < x → (p.windows[i]).walks = false) ∧
    (p.firstTagged n = none → ∀ i : Fin 16, n ≤ i.val → (p.windows[i]).walks = false)) ∧
  (∀ (p : PolicyCopy) (i : Fin 16) (o : Nat),
    (p.positionStands i.val o = true ↔ (p.windows[i]).walks = true ∧ o < (p.windows[i]).effSize) ∧
    p.positionIndex i.val o = (p.windows[i]).tagBase + o ∧
    p.nextPosition i.val o =
      (if (p.windows[i]).walks = true ∧ o + 1 < (p.windows[i]).effSize then some (i.val, o + 1)
       else p.firstTagged (i.val + 1))) ∧
  (∀ (s : State) (w o : Nat), s.retire.position = some (w, o) →
    (∀ x y : Nat, s.active.nextPosition w o = some (x, y) → s.scannerMoves = { s with
      retire := { s.retire with position := some (x, y) }
      store := { s.store with retireQ := some (s.active.positionIndex x y) } }) ∧
    (s.active.nextPosition w o = none → s.scannerMoves =
      ({ s with retire := { s.retire with position := none } } : State).retireTest)) ∧
  (∀ (s : State) (g : Nat),
    let t : State := { s with fence := s.fence.filter (fun e => e.granule != g) }
    (s.retire.setAside = some g → s.freeFence g = { t with
      retire := { s.retire with setAside := none }, store := { s.store with retireQ := some g } }) ∧
    (s.retire.setAside ≠ some g → s.freeFence g = t)) ∧
  (∀ (s : State) (g : Nat) (e : FenceEntry) (rest : List CommandRequest), s.arbPick = some .command →
    s.fenceOf g = some e → g < s.capacity → s.retire.setAside = some g →
    (s.store.commandQ = { granule := g, access := .finalWrite } :: rest → e.prior.isSome = true →
      ∃ t, exec .finalWriteGrant s = .next t ∧ t.store.retireQ = some g ∧
        (e.source ≠ .retire → t.retire = { s.retire with setAside := none })) ∧
    (s.store.commandQ = { granule := g, access := .read } :: rest → e.kind ≠ .quarantine →
      s.stepFails e.kind (s.readRecord g) ≠ none →
      ∃ t, exec .commandReadGrant s = .next t ∧ t.store.retireQ = some g ∧
        (e.source ≠ .retire → t.retire = { s.retire with setAside := none }))) ∧
  ∀ (s : State) (g : Nat), s.arbPick = some .retire → s.store.retireQ = some g → g < s.capacity →
    let u : State := { s.countGrant .retire with
      store := { (s.countGrant .retire).store with retireQ := none } }
    (s.fenced g = true → exec .scanningReadGrant s = .next
      ({ u with retire := { s.retire with setAside := some g } } : State).closeEvent) ∧
    (s.fenced g = false → ∀ r : TagRecord, s.readRecord g = .verified r →
      (r.countedOwner = some s.retire.domain → exec .scanningReadGrant s = .next
        ({ u with retire := { s.retire with held := some (g, .release s.retire.domain) } } :
          State).closeEvent) ∧
      (∀ d : DomainNo, r.countedOwner = some d → d ≠ s.retire.domain →
        r.hasSharer s.retire.domain = true → exec .scanningReadGrant s = .next
        ({ u with retire := { s.retire with held := some (g, .unshare d s.retire.domain) } } :
          State).closeEvent) ∧
      (r.countedOwner ≠ some s.retire.domain →
        r.countedOwner = none ∨ r.hasSharer s.retire.domain = false →
        exec .scanningReadGrant s = .next u.scannerMoves.closeEvent)) ∧
    (s.fenced g = false → ∀ img : Image, s.readRecord g = .unverifiable img →
      exec .scanningReadGrant s = .next
        ((u.fileRequest g).capture g .retire img).scannerMoves.closeEvent)

/-! ### The sweep -/

/-- The placement of a sweep read: at a position that stands, or at the next one of the sequence; without a TAGGED
window in use the credit is discarded. At the grant, a record under a fence entry, or one that verifies, lets the
sweep move; one that does not is captured, as RecordReadGrant states, reported as INTEGRITY, with INTEGRITY_ERROR
raised, and held for quarantine, its request leaves the list, the sweep stays, and no message but a NOTIFY is handed. A
move goes to the next position of the tagged index sequence, which ScanningReadGrant states; past its end it goes to the
first position, or to window 0, offset 0 of an empty one, and the pass count advances. -/
def Obligations.SweepReads : Prop :=
  (∀ s : State,
    let at_ (w o n : Nat) : State :=
      { s with sweep := { s.sweep with window := w, offset := o, passes := n } }
    (∀ w o : Nat, s.active.nextPosition s.sweep.window s.sweep.offset = some (w, o) →
      s.sweepMoves = at_ w o s.sweep.passes) ∧
    (s.active.nextPosition s.sweep.window s.sweep.offset = none →
      (∀ w o : Nat, s.active.firstTagged 0 = some (w, o) →
        s.sweepMoves = at_ w o ((s.sweep.passes + 1) % 2 ^ 32)) ∧
      (s.active.firstTagged 0 = none →
        s.sweepMoves = at_ 0 0 ((s.sweep.passes + 1) % 2 ^ 32)))) ∧
  (∀ s : State, s.sweep.creditPending = true → s.store.sweepQ = none → s.sweep.held = none →
    s.sweep.requests = [] →
    (s.active.firstTagged 0 = none → exec .sweepReadPlacement s = .next
      { s with sweep := { s.sweep with creditPending := false } }) ∧
    (s.active.firstTagged 0 ≠ none →
      s.active.positionStands s.sweep.window s.sweep.offset = true →
      exec .sweepReadPlacement s = .next { s with
        sweep := { s.sweep with creditPending := false }
        store := { s.store with
          sweepQ := some (s.active.positionIndex s.sweep.window s.sweep.offset) } }) ∧
    (∀ w o : Nat, s.active.firstTagged 0 ≠ none →
      s.active.positionStands s.sweep.window s.sweep.offset = false →
      s.active.nextPosition s.sweep.window s.sweep.offset = some (w, o) →
      exec .sweepReadPlacement s = .next { s with
        sweep := { s.sweep with creditPending := false, window := w, offset := o }
        store := { s.store with sweepQ := some (s.active.positionIndex w o) } }) ∧
    (∀ w o : Nat, s.active.firstTagged 0 = some (w, o) →
      s.active.positionStands s.sweep.window s.sweep.offset = false →
      s.active.nextPosition s.sweep.window s.sweep.offset = none →
      exec .sweepReadPlacement s = .next { s with
        sweep := { s.sweep with creditPending := false, window := w, offset := o
                                passes := (s.sweep.passes + 1) % 2 ^ 32 }
        store := { s.store with sweepQ := some (s.active.positionIndex w o) } })) ∧
  ∀ (s : State) (g : Nat), s.arbPick = some .sweep → s.store.sweepQ = some g → g < s.capacity →
    let u : State := { s.countGrant .sweep with
      store := { (s.countGrant .sweep).store with sweepQ := none } }
    (s.fenced g = true ∨ (∃ r : TagRecord, s.readRecord g = .verified r) →
      exec .sweepReadGrant s = .next u.sweepMoves.closeEvent) ∧
    (s.fenced g = false → ∀ img : Image, s.readRecord g = .unverifiable img →
      ∃ t, exec .sweepReadGrant s = .next t ∧ t.sweep.held = some g ∧
        t.sweep.requests = s.sweep.requests.filter (fun i => i != g) ∧
        StatusSet.has t.reports.status .integrityError = true ∧
        (s.sweep.capture = none → t.sweep.capture = some
          { granule := g, foundBy := .sweep, stored := img[15], computed := checkByte img.toList }) ∧
        (∀ c : Capture, s.sweep.capture = some c → t.sweep.capture = some c ∧
          t.sweep.overflow = (if s.sweep.overflow < 255 then s.sweep.overflow + 1
            else s.sweep.overflow)) ∧
        (s.reports.q1.fill < s.reports.q1.size → t.reports.q1.records = s.reports.q1.records ++
          [{ time := s.timeBase, kind := .integrity, link := none, granule := some g, domain := none
             detail := .checks img[15] (checkByte img.toList) }]) ∧
        s.LinksSend t ∧ t = { s with
          links := t.links
          store := { s.store with sweepQ := none, passOver := t.store.passOver }
          sweep := { s.sweep with
            held := some g, requests := t.sweep.requests, capture := t.sweep.capture
            overflow := t.sweep.overflow }
          reports := { s.reports with
            q1 := t.reports.q1, status := t.reports.status, notifyDue := t.reports.notifyDue } } ∧
        (∀ l : LinkId, (t.link l).outbound.filter (fun m => !m.isNotify) =
          (s.link l).outbound.filter (fun m => !m.isNotify)) ∧
        let told : State := ((u.capture g .sweep img).storeEvent
          { time := s.timeBase, kind := .integrity, link := none, granule := some g, domain := none
            detail := .checks img[15] (checkByte img.toList) }).raise .integrityError
        t = ({ told with sweep := { told.sweep with
          held := some g, requests := s.sweep.requests.filter (fun i => i != g) } } : State).closeEvent)

/-! ### The tag store -/

/-- R12: CONTROL TABLE_INIT, its conditions in order and its acceptance. -/
def Obligations.TableInitControl : Prop :=
  ∀ (s t : State) (h : MgmtHeader), s.Carries h (.tableInit h) t →
    (t.mode = .operating → exec (.tableInit h) s = .next
      (t.hand h.link (.controlReply h.tag (.refused .notStartup))).closeEvent) ∧
    (t.mode = .startup → t.store.geometry = none → exec (.tableInit h) s = .next
      (t.hand h.link (.controlReply h.tag (.refused .noGeometry))).closeEvent) ∧
    (t.mode = .startup → t.store.geometry ≠ none → t.store.initRunning = true →
      exec (.tableInit h) s = .next
        (t.hand h.link (.controlReply h.tag (.refused .tableBusy))).closeEvent) ∧
    (t.mode = .startup → t.store.geometry ≠ none → t.store.initRunning = false →
      exec (.tableInit h) s = .next (({ t with store := { t.store with
        tableValid := false, initRunning := true, initProgress := 0, softTurn := .initWrite } } :
          State).hand h.link (.controlReply h.tag .accepted)).closeEvent)

/-- A granted write of TABLE_INIT: the FREE record, check 255, at the progress index, which advances; the last
write ends TABLE_INIT, sets the table-valid flag and raises TABLE_INIT_DONE and no other
status. No byte outside the record changes; beside what is named, the turn of the SOFTWARE class goes to the software
reads and the grant is counted, as ArbiterChoice states, and no message but a NOTIFY is handed. -/
def Obligations.TableInitWriteGrant : Prop :=
  ∀ s : State, s.softOffer = some .initWrite → s.arbPick = some .software →
    s.store.initProgress < s.capacity → s.MemoryOk →
    ∃ t, exec .tableInitWriteGrant s = .next t ∧
      Memory.readImage t.dram s.store.initProgress =
        #v[0, 0, 0, 0, 0, 0, 0, 0, 0, 0, 0, 0, 0, 0, 0, 255] ∧
      (∀ a : Nat, a < recordBase s.store.initProgress ∨ recordBase s.store.initProgress + 16 ≤ a →
        Memory.read t.dram a = Memory.read s.dram a) ∧
      t.store.initProgress = s.store.initProgress + 1 ∧
      (s.store.initProgress + 1 = s.capacity → t.store.initRunning = false ∧
        t.store.tableValid = true ∧ StatusSet.has t.reports.status .tableInitDone = true ∧
        t.reports.status = s.reports.status ||| Status.tableInitDone.mask) ∧
      (s.store.initProgress + 1 ≠ s.capacity → t.store.initRunning = s.store.initRunning ∧
        t.store.tableValid = s.store.tableValid ∧ t.reports.status = s.reports.status) ∧
      s.LinksSend t ∧ t = { s with
        dram := t.dram, links := t.links
        store := { s.store with
          initProgress := t.store.initProgress, softTurn := .softwareRead
          initRunning := t.store.initRunning, tableValid := t.store.tableValid
          passOver := t.store.passOver }
        reports := { s.reports with status := t.reports.status, notifyDue := t.reports.notifyDue } } ∧
      (∀ l : LinkId, (t.link l).outbound.filter (fun m => !m.isNotify) =
        (s.link l).outbound.filter (fun m => !m.isNotify)) ∧
      let u : State := { s.countGrant .software with
        dram := t.dram
        store := { (s.countGrant .software).store with
          initProgress := s.store.initProgress + 1, softTurn := .softwareRead } }
      (s.store.initProgress + 1 = s.capacity → t = (({ u with
        store := { u.store with initRunning := false, tableValid := true } } : State).raise
          .tableInitDone).closeEvent) ∧
      (s.store.initProgress + 1 ≠ s.capacity → t = u.closeEvent)

/-- The arbiter's choice: a class whenever one is eligible with a request waiting, and none that is held or has
nothing waiting; the highest promoted class in the fixed
order, and without one the highest class; the class granted has its count set to 0 and each other class that was
eligible and waiting has its count advanced up to 64. When each class is eligible with a request waiting: the COMMAND,
RETIRE and SWEEP classes not while TABLE_INIT runs. What the SOFTWARE class offers: of a TABLE_INIT write and a software
read the one that waits, and when both do the one whose turn it is. -/
def Obligations.ArbiterChoice : Prop :=
  (∀ (s : State) (c : ArbClass), s.arbPick = some c → s.classReady c = true ∧
    ∃ pre post : List ArbClass,
      [ArbClass.verdict, .command, .retire, .software, .sweep] = pre ++ c :: post ∧
      (64 ≤ s.store.passOver.count c →
        ∀ d ∈ pre, s.classReady d = true → s.store.passOver.count d < 64) ∧
      (s.store.passOver.count c < 64 → (∀ d ∈ pre, s.classReady d = false) ∧
        ∀ d : ArbClass, s.classReady d = true → s.store.passOver.count d < 64)) ∧
  (∀ (s : State) (c d : ArbClass), (s.countGrant c).store.passOver.count d =
    (if d = c then 0
     else if s.classReady d = true ∧ s.store.passOver.count d < 64 then s.store.passOver.count d + 1
     else s.store.passOver.count d)) ∧
  (∀ s : State, s.store.initRunning = true →
    s.classReady .command = false ∧ s.classReady .retire = false ∧ s.classReady .sweep = false) ∧
  (∀ (s : State) (c : ArbClass), s.classReady c = true → s.arbPick ≠ none) ∧
  (∀ s : State,
    (s.classReady .verdict = true ↔ s.store.verdictQ ≠ []) ∧
    (s.classReady .command = true ↔ s.store.commandQ ≠ [] ∧ s.store.initRunning = false) ∧
    (s.classReady .retire = true ↔ s.store.retireQ ≠ none ∧ s.store.initRunning = false) ∧
    (s.classReady .software = true ↔ s.store.softRead ≠ none ∨ s.store.initRunning = true) ∧
    (s.classReady .sweep = true ↔ s.store.sweepQ ≠ none ∧ s.store.initRunning = false)) ∧
  ∀ s : State,
    (s.store.initRunning = false → s.store.softRead = none → s.softOffer = none) ∧
    (s.store.initRunning = false → s.store.softRead ≠ none → s.softOffer = some .softwareRead) ∧
    (s.store.initRunning = true → s.store.softRead = none → s.softOffer = some .initWrite) ∧
    (s.store.initRunning = true → s.store.softRead ≠ none → s.softOffer = some s.store.softTurn)

/-- TAG_READ and TAG_SCAN are refused NO_GEOMETRY, then OUT_OF_RANGE; otherwise they enter the software request
queue, the count taken as 1 to 4 and the span as at most 65,536, cut at the store end. That the cut is made with the
capacity of the event in which the request is taken is log entry 31. -/
def Obligations.SoftwareRequests : Prop :=
  ∀ (s t : State) (h : MgmtHeader) (i : Nat) (frame : Instr) (r : SoftRequest),
    (∃ n : Nat, frame = .tagRead h i n ∧ r =
      { link := h.link, tag := h.tag, first := i, next := i
        stop := min (i + min (max n 1) 4) t.capacity, kind := .read [] }) ∨
    (∃ (w : WantedState) (o : Option DomainNo), frame = .tagScan h i w o ∧ r =
      { link := h.link, tag := h.tag, first := i, next := i
        stop := min (i + 65536) t.capacity, kind := .scan w o }) →
    s.Carries h frame t →
    (t.store.geometry = none → exec frame s = .next
      (t.hand h.link (.refuse { kind := .management, tag := h.tag } .noGeometry)).closeEvent) ∧
    (t.store.geometry ≠ none → t.capacity ≤ i → exec frame s = .next
      (t.hand h.link (.refuse { kind := .management, tag := h.tag } .outOfRange)).closeEvent) ∧
    (t.store.geometry ≠ none → i < t.capacity → exec frame s = .next
      (({ t with store := { t.store with softQueue := t.store.softQueue ++ [r] } } :
        State).placeSoftRead).closeEvent)

/-- The grant of the head request's read: a TAG_READ collects the record and ends with TAG_DATA at its last one;
a TAG_SCAN ends at the first match, or at the end of its span with the next index. The grant of a read whose request was
removed discards its result and places the read of the new head, which waited for it (log entry 17). What a scan matches,
what an entry of TAG_DATA gives (the sharers of a verified QUARANTINED record are read from its present bits, log entry
23), and how the next read is placed. -/
def Obligations.SoftwareReadGrant : Prop :=
  (∀ (s : State) (g : Nat), s.softOffer = some .softwareRead → s.arbPick = some .software →
    s.store.softRead = some { granule := g, live := false } →
    exec .softwareReadGrant s = .next ({ s.countGrant .software with
      store := { (s.countGrant .software).store with
        softRead := none, softTurn := .initWrite } } : State).placeSoftRead) ∧
  (∀ s : State,
    (s.store.softQueue = [] ∨ s.store.softRead ≠ none → s.placeSoftRead = s) ∧
    ∀ (r : SoftRequest) (rest : List SoftRequest), s.store.softQueue = r :: rest →
      s.store.softRead = none → s.placeSoftRead = { s with
        store := { s.store with softRead := some { granule := r.next, live := true } } }) ∧
  (∀ (w : WantedState) (o : Option DomainNo) (img : Image) (r : TagRecord),
    (scanMatches w o (.unverifiable img) = true ↔ w = .unverifiable) ∧
    (scanMatches w o (.verified r) = true ↔
      ((w = .free ∧ r.state = .free) ∨ (w = .owned ∧ r.state = .owned) ∨
        (w = .shared ∧ r.state = .shared) ∨ (w = .fenced ∧ r.state = .fenced) ∨
        (w = .quarantined ∧ r.state = .quarantined)) ∧
      ∀ d : DomainNo, o = some d → r.owner = d)) ∧
  (∀ (s : State) (i : Nat),
    (∀ img : Image, s.readRecord i = .unverifiable img → s.tagEntry i = .unverifiable img) ∧
    ∀ r : TagRecord, s.readRecord i = .verified r → s.tagEntry i = .verified
      { state := r.state, fencedFrom := if r.state = .fenced then some r.fencedFrom else none
        owner := r.owner
        sharers := ([r.slot1, r.slot2, r.slot3].filter fun x => decide (2 ^ 15 ≤ x.toNat)).map fun x =>
          (BitVec.ofNat 16 (x.toNat % 1024), if x.toNat / 2 ^ 14 % 2 = 1 then .readWrite else .read)
        generation := r.generation, platformAccess := r.platformAccess, label := r.label
        check := Memory.read s.dram (16 * i + 15) }) ∧
  ∀ (s : State) (r : SoftRequest) (rest : List SoftRequest), s.softOffer = some .softwareRead →
    s.arbPick = some .software → s.store.softRead = some { granule := r.next, live := true } →
    s.store.softQueue = r :: rest → r.next < s.capacity →
    let u : State := { s.countGrant .software with store := { (s.countGrant .software).store with
      softRead := none, softTurn := .initWrite } }
    let goesOn (q : SoftRequest) : Prop := exec .softwareReadGrant s = .next
      (({ u with store := { u.store with softQueue := q :: rest } } : State).placeSoftRead).closeEvent
    let ends (d : TagData) : Prop := exec .softwareReadGrant s = .next
      ((if s.isActive r.link then
          ({ u with store := { u.store with softQueue := rest } } : State).hand r.link (.tagData r.tag d)
        else ({ u with store := { u.store with softQueue := rest } } : State)).placeSoftRead).closeEvent
    (∀ got : List TagEntry, r.kind = .read got → r.next + 1 < r.stop →
      goesOn { r with next := r.next + 1, kind := .read (got ++ [s.tagEntry r.next]) }) ∧
    (∀ got : List TagEntry, r.kind = .read got → r.stop ≤ r.next + 1 →
      ends (.records r.first (got ++ [s.tagEntry r.next]))) ∧
    ∀ (w : WantedState) (o : Option DomainNo), r.kind = .scan w o →
      (scanMatches w o (s.readRecord r.next) = true → ends (.found r.next)) ∧
      (scanMatches w o (s.readRecord r.next) = false → r.next + 1 < r.stop →
        goesOn { r with next := r.next + 1 }) ∧
      (scanMatches w o (s.readRecord r.next) = false → r.stop ≤ r.next + 1 →
        ends (.noneFound (r.next + 1)))

/-! ### The outbound path -/

/-- A link's path sends its oldest message, in ANNOUNCING its oldest ANNOUNCE_REPLY; with no frame held nothing
else changes. The first held frame is then taken when the message frees a place that it waits for (a reply or a REFUSE
for a frame that may call for one, a VERDICT for a CHECK behind 64 VERDICT places) and it has to wait for no other;
otherwise the frames stay held, behind a reply place that a dropped reply left free too. The frames behind it follow in
turn, each in an event of its own, until one has to wait or the link leaves its session. A held frame is taken as the
command that brings it is (log entry 12). That a HELD link sends its oldest message also when that is a NOTIFY, handed
before the link went to HELD, is log entry 22. -/
def Obligations.OutboundMessageSent : Prop :=
  (∀ (s : State) (l : LinkId) (m : OutMsg),
    ((s.link l).state = .announcing ∧ (s.link l).outbound.find? OutMsg.isAnnounceReply = some m) ∨
      (((s.link l).state = .admitWait ∨ (s.link l).state = .active ∨ (s.link l).state = .held ∨
        (s.link l).state = .refused) ∧ (s.link l).outbound.head? = some m) →
    let u : State := s.setLink l { s.link l with outbound := (s.link l).outbound.erase m }
    let frees (f : Instr) : Prop := (m.isReply = true ∧ repliesTo f = true) ∨
      (m.isVerdict = true ∧ isCheck f = true ∧ 64 ≤ s.verdictPlacesUsed l)
    ((s.link l).held = [] → exec (.outboundMessageSent l) s = .next u) ∧
    (∀ f : Instr, (s.link l).held = [f] → (s.link l).state ≠ .refused → frees f →
      u.mustHold l f = false →
      exec (.outboundMessageSent l) s = .next ((u.takeFrame f).closeEvent.setHeld l [])) ∧
    (∀ (f : Instr) (rest : List Instr), (s.link l).held = f :: rest →
      ¬ frees f ∨ u.mustHold l f = true → exec (.outboundMessageSent l) s = .next u) ∧
    ∀ (f : Instr) (rest : List Instr), (s.link l).held = f :: rest → frees f →
      exec (.outboundMessageSent l) s = .next (drainHeld l (f :: rest) u) ∧
      ((s.link l).state ≠ .refused → u.mustHold l f = false →
        exec (.outboundMessageSent l) s = .next (drainHeld l rest (u.takeFrame f).closeEvent))) ∧
  (∀ (s : State) (l : LinkId) (f : Instr) (rest : List Instr),
    (∀ fs : List Instr, s.setHeld l fs = s.setLink l { s.link l with held := fs }) ∧
    drainHeld l [] s = s.setHeld l [] ∧
    ((s.link l).state.inSession = false → drainHeld l (f :: rest) s = s) ∧
    ((s.link l).state.inSession = true → s.mustHold l f = true →
      drainHeld l (f :: rest) s = s.setHeld l (f :: rest)) ∧
    ((s.link l).state.inSession = true → s.mustHold l f = false →
      drainHeld l (f :: rest) s = drainHeld l rest (s.takeFrame f).closeEvent)) ∧
  ∀ (s : State) (l : LinkId) (f : Instr), s.Takes l f →
    (∃ h : MgmtHeader, managedHeader f = some h ∧ h.link = l) ∨ (∃ m, f = .announce l m) ∨
      (∃ w, f = .frameRejected l w) ∨ (∃ m, f = .check l m) ∨ (∃ g, f = .drop l g) ∨
      (∃ g n, f = .revokeAck l g n) ∨ f = .flushAck l ∨ (∃ t d, f = .memData l t d) ∨
      (∃ t, f = .memDone l t) →
    exec f s = .next (s.takeFrame f).closeEvent

/-! ### Commit and start -/

/-- CONTROL COMMIT: refused COMMIT_BUSY, EPOCH_LIMIT, then for the first validation test that fails, with nothing
changed; accepted, the switch makes the shadow copy active, advances the epoch, marks the open checks, forms the
commit flush set and flushes the ACTIVE links, by a FLUSH_ALL and a timer to those with no flush outstanding and by
nothing to any other link; with the set empty and no check open the flush is complete in the same
event. A commit flush is complete when the phase is FLUSHING, the set is empty and the old-epoch count is 0: the phase
goes to IDLE and COMMIT_DONE is raised; otherwise nothing changes. -/
def Obligations.CommitControl : Prop :=
  (∀ s : State,
    (s.phase = .flushing → s.flushSet = 0 → s.oldEpochCount = 0 →
      s.completeCommit = ({ s with phase := .idle } : State).raise .commitDone ∧
      s.completeCommit.phase = .idle ∧
      StatusSet.has s.completeCommit.reports.status .commitDone = true) ∧
    (s.phase ≠ .flushing ∨ s.flushSet ≠ 0 ∨ s.oldEpochCount ≠ 0 → s.completeCommit = s) ∧
    s.settle = s.completeDrains.completeCommit) ∧
  ∀ (s t : State) (h : MgmtHeader), s.Carries h (.commit h) t →
    (t.phase = .flushing → exec (.commit h) s = .next
      (t.hand h.link (.controlReply h.tag (.refused .commitBusy))).closeEvent) ∧
    (t.phase = .idle → t.epoch = 4294967295 → exec (.commit h) s = .next
      (t.hand h.link (.controlReply h.tag (.refused .epochLimit))).closeEvent) ∧
    (∀ r : ControlReason, t.phase = .idle → t.epoch ≠ 4294967295 →
      t.shadow.validate t.capacity = some r → exec (.commit h) s = .next
        (t.hand h.link (.controlReply h.tag (.refused r))).closeEvent) ∧
    (t.phase = .idle → t.epoch ≠ 4294967295 → t.shadow.validate t.capacity = none →
      ∃ u, exec (.commit h) s = .next u ∧
        u.openChecks = t.openChecks.map (fun e => { e with oldEpoch := true }) ∧
        (∀ l : LinkId, LinkSet.has u.flushSet l = true ↔ (t.link l).state = .active ∨
          ((t.link l).state = .held ∧ (t.link l).flushOutstanding = true)) ∧
        u.phase = (if u.flushSet = 0 ∧ t.openChecks = [] then .idle else .flushing) ∧
        u.reports.status = (if u.flushSet = 0 ∧ t.openChecks = []
          then t.reports.status ||| Status.commitDone.mask else t.reports.status) ∧
        (∀ l : LinkId, (t.link l).state = .active → (t.link l).flushOutstanding = false →
          .flushAll ∈ (u.link l).outbound ∧ (u.link l).flushOutstanding = true ∧
            (u.link l).flushTimer = some (t.timeBase + BitVec.ofNat 48 t.revokeTimeout)) ∧
        (∀ l : LinkId, (t.link l).state ≠ .active ∨ (t.link l).flushOutstanding = true →
          (u.link l).flushTimer = (t.link l).flushTimer) ∧
        (∀ l : LinkId, u.link l = { t.link l with
          flushOutstanding := (u.link l).flushOutstanding, flushTimer := (u.link l).flushTimer
          outbound := (u.link l).outbound }) ∧
        (∀ l : LinkId, (u.link l).flushOutstanding = true ↔
          (t.link l).flushOutstanding = true ∨ (t.link l).state = .active) ∧
        (∀ l : LinkId, (u.link l).outbound.filter (fun m => !m.isNotify) =
          (t.link l).outbound.filter (fun m => !m.isNotify) ++
            (if (t.link l).state = .active ∧ (t.link l).flushOutstanding = false
              then [.flushAll] else []) ++
            (if l = h.link then [.controlReply h.tag (.acceptedEpoch (t.epoch + 1))] else [])) ∧
        .controlReply h.tag (.acceptedEpoch (t.epoch + 1)) ∈ (u.link h.link).outbound ∧
        u = { t with
          links := u.links, active := t.shadow, epoch := t.epoch + 1, openChecks := u.openChecks
          oldEpochCount := t.openChecks.length, flushSet := u.flushSet, phase := u.phase
          reports := { t.reports with
            status := u.reports.status, notifyDue := u.reports.notifyDue } })

/-- CONTROL START: its tests in order, the trial last; accepted, the mode is OPERATING and each link in ADMIT_WAIT
whose admission is set is ACTIVE. A trial that a watched element decides writes the watched match report and raises
WATCH_HIT, whether START is then accepted or refused; that the trial is made on the lead link is log entry 30. `t`
is the state after the authority test, which in OPERATING keeps the report that test wrote: the model's choice (log
entry 46). That the NOTIFY of a WATCH_HIT of the trial goes also to a link that START makes ACTIVE is the model's choice
(log entry 47). -/
def Obligations.StartControl : Prop :=
  ∀ (s t : State) (h : MgmtHeader), s.Carries h (.start h) t →
    let refused (r : ControlReason) : Prop := exec (.start h) s = .next
      (t.hand h.link (.controlReply h.tag (.refused r))).closeEvent
    (t.mode = .operating → refused .notStartup) ∧
    (t.mode = .startup →
      (t.store.geometry = none → refused .noGeometry) ∧
      (t.store.geometry ≠ none →
        (t.store.initRunning = true → refused .tableBusy) ∧
        (t.store.initRunning = false →
          (t.store.tableValid = false → refused .tableNotValid) ∧
          (t.store.tableValid = true →
            (t.epoch = 0 → refused .noPolicy) ∧
            (t.epoch ≠ 0 →
              ((t.active.classify t.leadLink h.source).result ≠ .domain 0 →
                (t.active.classify t.leadLink h.source).watched = none →
                refused .noPlatformRoute) ∧
              (let c : Classification := t.active.classify t.leadLink h.source
               let w : State := match c.watched with
                 | none => t
                 | some n => ({ t with
                   watchReport := some
                     { element := n, message := .management, link := t.leadLink, source := h.source
                       domain := (match c.result with
                         | .domain d => some d
                         | .block | .unclassified => none)
                       placement := .none } } : State).raise .watchHit
               (c.result ≠ .domain 0 → exec (.start h) s = .next
                 (w.hand h.link (.controlReply h.tag (.refused .noPlatformRoute))).closeEvent) ∧
               (c.result = .domain 0 → exec (.start h) s = .next (({ w with
                 mode := .operating
                 links := w.links.map (fun k =>
                   if k.state = .admitWait ∧ k.admission = true then { k with state := .active }
                   else k) } : State).hand h.link (.controlReply h.tag .accepted)).closeEvent) ∧
               ∀ u, exec (.start h) s = .next u →
                 (c.watched = none →
                   u.watchReport = t.watchReport ∧ u.reports.status = t.reports.status) ∧
                 ∀ n : Nat, c.watched = some n →
                   u.reports.status = t.reports.status ||| Status.watchHit.mask ∧
                   ∃ r : WatchReport, u.watchReport = some r ∧ r.element = n ∧
                     r.message = .management ∧ r.link = t.leadLink ∧ r.source = h.source ∧
                     r.placement = .none ∧
                     ∀ d : DomainNo, r.domain = some d ↔ c.result = .domain d) ∧
              ((t.active.classify t.leadLink h.source).result = .domain 0 →
                ∃ u, exec (.start h) s = .next u ∧
                  (∀ l : LinkId, u.link l = { t.link l with
                    state := if (t.link l).state = .admitWait ∧ (t.link l).admission = true
                      then .active else (t.link l).state
                    outbound := (u.link l).outbound }) ∧
                  .controlReply h.tag .accepted ∈ (u.link h.link).outbound ∧
                  u = { t with
                    mode := .operating, links := u.links, watchReport := u.watchReport
                    reports := { t.reports with
                      status := u.reports.status, notifyDue := u.reports.notifyDue } }))))))

/-! ### Chain channels -/

/-- CONTROL CHAIN_START: its tests in order; accepted, the channel is in FETCHING with the chain's values and a
MEM_READ at the first block on the fetch link, its memory timer running. -/
def Obligations.ChainStart : Prop :=
  ∀ (s t : State) (h : MgmtHeader) (a : ChainStartArg), s.Carries h (.chainStart h a) t →
    let refused (r : ControlReason) : Prop := exec (.chainStart h a) s = .next
      (t.hand h.link (.controlReply h.tag (.refused r))).closeEvent
    (1 < a.channel.toNat ∨ 3 < a.fetchLink.toNat ∨ a.firstBlock.toNat % 32 ≠ 0 ∨
      2 ^ 52 ≤ a.firstBlock.toNat ∨
      (∃ n, a.notifyAddr = some n ∧ (n.toNat % 8 ≠ 0 ∨ 2 ^ 52 ≤ n.toNat)) → refused .badArgument) ∧
    ∀ (c : ChannelId) (l : LinkId), a.channel.toNat = c.val → a.fetchLink.toNat = l.val →
      a.firstBlock.toNat % 32 = 0 → a.firstBlock.toNat < 2 ^ 52 →
      (∀ n, a.notifyAddr = some n → n.toNat % 8 = 0 ∧ n.toNat < 2 ^ 52) →
      ((t.chan c).state ≠ .idle → refused .channelBusy) ∧
      ((t.chan c).state = .idle → (t.link l).state ≠ .active → refused .linkNotActive) ∧
      ((t.chan c).state = .idle → (t.link l).state = .active →
        let tag : Byte := BitVec.ofNat 8 (128 * c.val + (t.chan c).sequence)
        exec (.chainStart h a) s = .next ((((t.hand l (.memRead tag a.firstBlock)).updChan c
          fun k => { k with
            state := .fetching, fetchLink := l, notifyAddr := a.notifyAddr
            notifyValue := a.notifyValue, blockAddr := a.firstBlock, block := none
            stopRequested := false, errorStop := false, linkLost := false, posting := .none
            sequence := (k.sequence + 1) % 128
            memRequest := some
              { kind := .read, tag := tag
                expiry := t.timeBase + BitVec.ofNat 48 t.memoryTimeout } }).hand h.link
          (.controlReply h.tag .accepted))).closeEvent)

/-- CONTROL CHAIN_STOP, CHAIN_RESUME and CHAIN_STATUS on a channel, by its state, and their refusal of a channel
above 1. A channel that CHAIN_STOP stops at once comes to rest as StepResults states `restChannel`, with CHAINn_END. -/
def Obligations.ChainControl : Prop :=
  (∀ (s t : State) (h : MgmtHeader) (b : Byte), 1 < b.toNat →
    (s.Carries h (.chainStop h b) t → exec (.chainStop h b) s = .next
      (t.hand h.link (.controlReply h.tag (.refused .badArgument))).closeEvent) ∧
    (s.Carries h (.chainResume h b) t → exec (.chainResume h b) s = .next
      (t.hand h.link (.controlReply h.tag (.refused .badArgument))).closeEvent) ∧
    (s.Carries h (.chainStatus h b) t → exec (.chainStatus h b) s = .next
      (t.hand h.link (.controlReply h.tag (.refused .badArgument))).closeEvent)) ∧
  (∀ (s t : State) (h : MgmtHeader) (b : Byte) (c : ChannelId), b.toNat = c.val →
    s.Carries h (.chainStop h b) t →
    ((t.chan c).state = .idle → exec (.chainStop h b) s = .next
      (t.hand h.link (.controlReply h.tag (.refused .channelIdle))).closeEvent) ∧
    ((t.chan c).state = .stopped → exec (.chainStop h b) s = .next
      (t.hand h.link (.controlReply h.tag .accepted)).closeEvent) ∧
    ((t.chan c).state = .fetching ∨ (t.chan c).state = .posting ∨
      ((t.chan c).state = .executing ∧ (t.chan c).inFence ≠ 0) →
      exec (.chainStop h b) s = .next
        ((t.updChan c fun k => { k with stopRequested := true }).hand h.link
          (.controlReply h.tag .accepted)).closeEvent) ∧
    ((t.chan c).state = .executing → (t.chan c).block.isSome = true → (t.chan c).inFence = 0 →
      (t.chan c).nextOffset ≠ (t.chan c).rangeCount → (t.chan c).errorStop = false →
      (t.chan c).linkLost = false →
      ∃ u, exec (.chainStop h b) s = .next u ∧ (u.chan c).state = .stopped ∧
        (u.chan c).block = (t.chan c).block ∧ (u.chan c).nextOffset = (t.chan c).nextOffset ∧
        (u.chan c).stopRequested = false ∧
        (u.chan c).termination = some
          { cause := .stoppedByRequest, block := (t.chan c).blockAddr
            offset := (t.chan c).nextOffset } ∧
        .controlReply h.tag .accepted ∈ (u.link h.link).outbound ∧ t.OnlyChannel u c ∧
        u = (((t.updChan c fun k => { k with stopRequested := true }).restChannel c .stopped
          .stoppedByRequest (t.chan c).nextOffset).hand h.link
            (.controlReply h.tag .accepted)).closeEvent)) ∧
  (∀ (s t : State) (h : MgmtHeader) (b : Byte) (c : ChannelId), b.toNat = c.val →
    s.Carries h (.chainResume h b) t →
    ((t.chan c).state ≠ .stopped → exec (.chainResume h b) s = .next
      (t.hand h.link (.controlReply h.tag (.refused .channelNotStopped))).closeEvent) ∧
    ((t.chan c).state = .stopped → (t.chan c).block.isSome = true →
      exec (.chainResume h b) s = .next ((t.updChan c fun k => { k with
        state := .executing, stopRequested := false, errorStop := false }).hand h.link
          (.controlReply h.tag .accepted)).closeEvent) ∧
    ((t.chan c).state = .stopped → (t.chan c).block = none →
      let tag : Byte := BitVec.ofNat 8 (128 * c.val + (t.chan c).sequence)
      exec (.chainResume h b) s = .next ((((t.hand (t.chan c).fetchLink
        (.memRead tag (t.chan c).blockAddr)).updChan c fun k => { k with
          state := .fetching, stopRequested := false, errorStop := false, posting := .none
          sequence := (k.sequence + 1) % 128
          memRequest := some
            { kind := .read, tag := tag
              expiry := t.timeBase + BitVec.ofNat 48 t.memoryTimeout } }).hand h.link
          (.controlReply h.tag .accepted))).closeEvent)) ∧
  ∀ (s t : State) (h : MgmtHeader) (b : Byte) (c : ChannelId), b.toNat = c.val →
    s.Carries h (.chainStatus h b) t →
    exec (.chainStatus h b) s = .next ((t.updChan c fun k => { k with termination := none }).hand
      h.link (.controlReply h.tag
        (.chainStatus (t.chan c).state (t.chan c).termination))).closeEvent

/-- R130: CONTROL CHAIN_CANCEL. -/
def Obligations.ChainCancel : Prop :=
  ∀ (s t : State) (h : MgmtHeader) (b : Byte), s.Carries h (.chainCancel h b) t →
    (1 < b.toNat → exec (.chainCancel h b) s = .next
      (t.hand h.link (.controlReply h.tag (.refused .badArgument))).closeEvent) ∧
    ∀ c : ChannelId, b.toNat = c.val →
      ((t.chan c).state ≠ .stopped → exec (.chainCancel h b) s = .next
        (t.hand h.link (.controlReply h.tag (.refused .channelNotStopped))).closeEvent) ∧
      ((t.chan c).state = .stopped →
        exec (.chainCancel h b) s = .next (((t.updChan c fun k => { k with
          state := .idle, stopRequested := false, errorStop := false, linkLost := false
          memRequest := none, posting := .none
          termination := some
            { cause := .cancelled, block := k.blockAddr
              offset := if k.block.isSome then k.nextOffset else 0 } }).raise
            (if c = 0 then .chain0End else .chain1End)).hand h.link
              (.controlReply h.tag .accepted)).closeEvent)

/-- A MEM_DATA or MEM_DONE that no channel's outstanding request matches counts UNEXPECTED. The bytes of a fetch
are validated: a valid block is taken and executes, or stops under a stop request; a bad one ends the chain, or
has its status record posted first: with POST_STATUS set and tests 1 to 3 passed (log entry 29). A channel that ends or
stops so comes to rest as StepResults states `restChannel`. The MEM_DONE of a
status record is followed by the notify word when that is due. The MEM_DONE of the last write due takes a valid block
out of POSTING, as StepResults states: to the end of the chain, to a stop or to the next fetch. The order of the writes
is kept in the channel's posting field (log entry 25). A request that is answered unsent stays in the path, before the
next one (log entry 43), and a bad block leaves the channel the counts of the block before it (log entry 48): both are
the model's choice. Which channel a response answers; the fields of the 32 bytes of a block; the five tests of a block
in order, with the reason of the first one not met. -/
def Obligations.MemoryAnswers : Prop :=
  (∀ (s : State) (l : LinkId) (kind : MemKind) (g : Byte),
    let answers (c : ChannelId) : Prop := (s.chan c).fetchLink = l ∧
      ∃ m : MemRequest, (s.chan c).memRequest = some m ∧ m.kind = kind ∧ m.tag = g
    (∀ c : ChannelId, s.answered l kind g = some c → answers c) ∧
    (s.answered l kind g = none → ∀ c : ChannelId, ¬ answers c)) ∧
  (∀ v : Vector Byte 32,
    let b : Block := blockOf v
    let word (first n : Nat) : Nat :=
      ((List.range n).map fun i => (v.toList.getD (first + i) 0).toNat * 256 ^ i).sum
    b.kindCode = v[0] ∧ b.stopAfter = decide (v[1].toNat % 2 = 1) ∧
    b.postStatus = decide (v[1].toNat / 2 % 2 = 1) ∧ b.notify = decide (v[1].toNat / 4 % 2 = 1) ∧
    b.stopOnError = decide (v[1].toNat / 8 % 2 = 1) ∧
    b.addressForm = decide (v[1].toNat / 16 % 2 = 1) ∧
    b.platformAccess = decide (v[1].toNat / 32 % 2 = 1) ∧
    b.count = word 2 2 + 1 ∧ b.domain.toNat = word 4 2 ∧ b.second.toNat = word 6 2 ∧
    b.domainE.toNat = word 6 2 % 2 ^ 15 ∧
    b.rights = (if 2 ^ 15 ≤ word 6 2 then .readWrite else .read) ∧
    b.first.toNat = word 8 8 ∧ b.statusAddr.toNat = word 16 8 ∧ b.nextAddr.toNat = word 24 8) ∧
  (∀ b : Block, b.step = (match b.kindCode.toNat with
    | 1 => some (.assign b.domain b.platformAccess b.second)
    | 2 => some (.release b.domain)
    | 3 => some (.share b.domain b.domainE b.rights)
    | 4 => some (.unshare b.domain b.domainE)
    | 5 => some (.transfer b.domain b.domainE)
    | 6 => some (.setAttr b.domain b.platformAccess b.second)
    | _ => none)) ∧
  (∀ (b : Block) (p : PolicyCopy),
    let aligned (n : Nat) (a : Quad) : Prop := a.toNat % n = 0 ∧ a.toNat < 2 ^ 52
    let bad : Prop := b.validate p = .error .badArgument
    (b.step = none → bad ∧ b.postsWhenBad = false) ∧
    ∀ k : StepKind, b.step = some k →
      (k.argsOk = false → bad ∧ b.postsWhenBad = false) ∧
      (k.argsOk = true → b.postStatus = true → ¬ aligned 16 b.statusAddr →
        bad ∧ b.postsWhenBad = false) ∧
      (k.argsOk = true → (b.postStatus = true → aligned 16 b.statusAddr) →
        b.postsWhenBad = b.postStatus ∧ (¬ aligned 32 b.nextAddr → bad) ∧
        (aligned 32 b.nextAddr → b.validate p =
          (match p.rangeFirst (if b.addressForm = true then .address else .index) b.first.toNat b.count with
          | some i => .ok i
          | none => .error .outOfRange)))) ∧
  (∀ (s : State) (l : LinkId) (g : Byte) (v : Vector Byte 32), s.Takes l (.memData l g v) →
    s.Serves l →
    (s.answered l .read g = none →
      exec (.memData l g v) s = .next (s.countError l .unexpected).closeEvent) ∧
    ∀ c : ChannelId, s.answered l .read g = some c →
      (∀ i : Nat, (blockOf v).validate s.active = .ok i → (s.chan c).stopRequested = false →
        exec (.memData l g v) s = .next (s.updChan c fun k => { k with
          memRequest := none, block := some (blockOf v), rangeFirst := i
          rangeCount := (blockOf v).count, nextOffset := 0, done := 0, failed := 0
          firstFailed := none, state := .executing }).closeEvent) ∧
      (∀ i : Nat, (blockOf v).validate s.active = .ok i → (s.chan c).stopRequested = true →
        ∃ u, exec (.memData l g v) s = .next u ∧ (u.chan c).state = .stopped ∧
          (u.chan c).block = some (blockOf v) ∧ (u.chan c).rangeFirst = i ∧
          (u.chan c).termination = some
            { cause := .stoppedByRequest, block := (s.chan c).blockAddr, offset := 0 } ∧
          s.OnlyChannel u c ∧
          u = ((s.updChan c fun k => { k with
            memRequest := none, block := some (blockOf v), rangeFirst := i
            rangeCount := (blockOf v).count, nextOffset := 0, done := 0, failed := 0
            firstFailed := none }).restChannel c .stopped .stoppedByRequest 0).closeEvent) ∧
      (∀ r : FailReason, (blockOf v).validate s.active = .error r →
        (blockOf v).postsWhenBad = false →
        ∃ u, exec (.memData l g v) s = .next u ∧ (u.chan c).state = .idle ∧
          (u.chan c).termination = some
            { cause := .badBlock, block := (s.chan c).blockAddr, offset := 0 } ∧
          s.OnlyChannel u c ∧
          u = ((s.updChan c fun k => { k with memRequest := none }).restChannel c .idle .badBlock
            0).closeEvent) ∧
      ∀ r : FailReason, (blockOf v).validate s.active = .error r →
        (blockOf v).postsWhenBad = true →
        let tag : Byte := BitVec.ofNat 8 (128 * c.val + (s.chan c).sequence)
        exec (.memData l g v) s = .next ((s.hand (s.chan c).fetchLink (.memWrite tag
          (blockOf v).statusAddr ([2, reasonCode r, BitVec.ofNat 8 c.val, 0, 0, 0, 0, 0, 0, 0, 0, 0,
            255, 255, 255, 255]))).updChan c fun k => { k with
              state := .posting, posting := .badStatus, sequence := (k.sequence + 1) % 128
              memRequest := some
                { kind := .write, tag := tag
                  expiry := s.timeBase + BitVec.ofNat 48 s.memoryTimeout } }).closeEvent) ∧
  ∀ (s : State) (l : LinkId) (g : Byte), s.Takes l (.memDone l g) → s.Serves l →
    (s.answered l .write g = none →
      exec (.memDone l g) s = .next (s.countError l .unexpected).closeEvent) ∧
    ∀ c : ChannelId, s.answered l .write g = some c →
      ((s.chan c).posting = .badStatus →
        ∃ u, exec (.memDone l g) s = .next u ∧ (u.chan c).state = .idle ∧
          (u.chan c).termination = some
            { cause := .badBlock, block := (s.chan c).blockAddr, offset := 0 } ∧
          s.OnlyChannel u c ∧
          u = ((s.updChan c fun k => { k with memRequest := none }).restChannel c .idle .badBlock
            0).closeEvent) ∧
      (∀ (b : Block) (a : Quad), (s.chan c).posting = .status → (s.chan c).block = some b →
        (s.chan c).notifyAddr = some a → b.notify = true ∨ b.nextAddr = 0 →
        let tag : Byte := BitVec.ofNat 8 (128 * c.val + (s.chan c).sequence)
        exec (.memDone l g) s = .next ((s.hand (s.chan c).fetchLink
          (.memWrite tag a (bytes8 (s.chan c).notifyValue))).updChan c fun k => { k with
            state := .posting, posting := .notify, sequence := (k.sequence + 1) % 128
            memRequest := some
              { kind := .write, tag := tag
                expiry := s.timeBase + BitVec.ofNat 48 s.memoryTimeout } }).closeEvent) ∧
      (∀ b : Block, (s.chan c).block = some b →
        (s.chan c).posting = .notify ∨ ((s.chan c).posting = .status ∧
          ((s.chan c).notifyAddr = none ∨ (b.notify = false ∧ b.nextAddr ≠ 0))) →
        exec (.memDone l g) s = .next
          ((s.updChan c fun k => { k with memRequest := none }).leavePosting c b).closeEvent) ∧
      (∀ b : Block, (s.chan c).posting = .notify → (s.chan c).block = some b → b.nextAddr = 0 →
        ∃ u, exec (.memDone l g) s = .next u ∧ (u.chan c).state = .idle ∧
          (u.chan c).termination = some
            { cause := .normalEnd, block := (s.chan c).blockAddr
              offset := (s.chan c).rangeCount } ∧
          s.OnlyChannel u c ∧
          u = ((s.updChan c fun k => { k with memRequest := none }).restChannel c .idle .normalEnd
            (s.chan c).rangeCount).closeEvent)

/-! ### Reports -/

/-- Storing a record in Q1 or a denial in Q0: lost in a queue of size 0 and in a full BLOCKING queue; otherwise it
is the newest, in the put position, replacing the oldest in a full OVERWRITE queue. A store that brings the fill from
watermark − 1 to the watermark raises QnWATERMARK; a loss sets the lost flag and raises QnLOST. A denial that names a
domain, stored or lost, sets that domain's violation flag and advances its count up to 65,535. The end of an event:
nothing without a NOTIFY due; otherwise each link of the notify link set that is ACTIVE there gets one NOTIFY behind
its other messages, with the time, the whole status set and the cause set joined with that of an unsent earlier one,
which is removed. That ACTIVE is judged at the end of the event, and the causes kept in notifyDue until then, is log
entry 14; that the notify link set is the one at the end of the event is log entry 38; that a link which the event made
ACTIVE gets the NOTIFY is log entry 47. A store changes nothing but its queue, the one status it may raise and, for a
denial, the violation flags. The bit of every status; handing a message puts it at the tail of the link's path; the
cause set of the unsent NOTIFYs of a path. -/
def Obligations.RecordsAndNotify : Prop :=
  (∀ (s : State) (r : EventRecord),
    let q : ReportQueue EventRecord := s.reports.q1
    let u (x : ReportQueue EventRecord) : State := { s with reports := { s.reports with q1 := x } }
    (q.fill < q.size → s.storeEvent r = (if q.fill + 1 = q.watermark
      then (u { q with records := q.records ++ [r] }).raise .q1Watermark
      else u { q with records := q.records ++ [r] })) ∧
    (q.size ≤ q.fill → q.size = 0 ∨ q.mode = .blocking →
      s.storeEvent r = (u { q with lost := true }).raise .q1Lost) ∧
    (0 < q.size → q.size ≤ q.fill → q.mode = .overwrite → s.storeEvent r =
      u { q with records := q.records.tail ++ [r], get := (q.get + 1) % q.size })) ∧
  (∀ (s : State) (r : DenialRecord),
    let q : ReportQueue DenialRecord := s.reports.q0
    let u (x : ReportQueue DenialRecord) : State := { s with reports := { s.reports with
      q0 := x, violations := (s.storeDenial r).reports.violations } }
    (q.fill < q.size → s.storeDenial r = (if q.fill + 1 = q.watermark
      then (u { q with records := q.records ++ [r] }).raise .q0Watermark
      else u { q with records := q.records ++ [r] })) ∧
    (q.size ≤ q.fill → q.size = 0 ∨ q.mode = .blocking →
      s.storeDenial r = (u { q with lost := true }).raise .q0Lost) ∧
    (0 < q.size → q.size ≤ q.fill → q.mode = .overwrite → s.storeDenial r =
      u { q with records := q.records.tail ++ [r], get := (q.get + 1) % q.size })) ∧
  (∀ (x : StatusSet) (st : Status),
    let bit : Nat := match st with
      | .q0Watermark => 0 | .q0Lost => 1 | .q1Watermark => 2 | .q1Lost => 3 | .watchHit => 4
      | .chain0End => 5 | .chain1End => 6 | .commitDone => 7 | .retireDone => 8 | .tableInitDone => 9
      | .linkEvent => 10 | .integrityError => 11 | .ackRange => 12
    StatusSet.has x st = x.getLsbD bit ∧ st.mask.toNat = 2 ^ bit) ∧
  (∀ (s : State) (l m : LinkId) (k : Link) (x : OutMsg),
    (s.setLink l k).link m = (if m = l then k else s.link m) ∧
    s.setLink l k = { s with links := (s.setLink l k).links } ∧
    s.hand l x = s.setLink l { s.link l with outbound := (s.link l).outbound ++ [x] }) ∧
  (pendingCauses [] = 0 ∧ ∀ (x : OutMsg) (rest : List OutMsg), pendingCauses (x :: rest) = (match x with
    | .notify _ _ c => c ||| pendingCauses rest
    | _ => pendingCauses rest)) ∧
  (∀ (s : State) (r : EventRecord),
    let q : ReportQueue EventRecord := s.reports.q1
    (q.fill < q.size → (s.storeEvent r).reports.q1 = { q with records := q.records ++ [r] } ∧
      (StatusSet.has (s.storeEvent r).reports.status .q1Watermark = true ↔
        StatusSet.has s.reports.status .q1Watermark = true ∨ q.fill + 1 = q.watermark)) ∧
    (q.size = 0 ∨ (q.size ≤ q.fill ∧ q.mode = .blocking) → q.size ≤ q.fill →
      (s.storeEvent r).reports.q1 = { q with lost := true } ∧
      StatusSet.has (s.storeEvent r).reports.status .q1Lost = true) ∧
    (0 < q.size → q.size ≤ q.fill → q.mode = .overwrite →
      (s.storeEvent r).reports.q1 =
        { q with records := q.records.tail ++ [r], get := (q.get + 1) % q.size } ∧
      (s.storeEvent r).reports.status = s.reports.status)) ∧
  (∀ (s : State) (r : DenialRecord),
    let q : ReportQueue DenialRecord := s.reports.q0
    (q.fill < q.size → (s.storeDenial r).reports.q0 = { q with records := q.records ++ [r] } ∧
      (StatusSet.has (s.storeDenial r).reports.status .q0Watermark = true ↔
        StatusSet.has s.reports.status .q0Watermark = true ∨ q.fill + 1 = q.watermark)) ∧
    (q.size ≤ q.fill → q.size = 0 ∨ q.mode = .blocking →
      (s.storeDenial r).reports.q0 = { q with lost := true } ∧
      StatusSet.has (s.storeDenial r).reports.status .q0Lost = true) ∧
    (0 < q.size → q.size ≤ q.fill → q.mode = .overwrite →
      (s.storeDenial r).reports.q0 =
        { q with records := q.records.tail ++ [r], get := (q.get + 1) % q.size } ∧
      (s.storeDenial r).reports.status = s.reports.status) ∧
    (r.domain = none → (s.storeDenial r).reports.violations = s.reports.violations) ∧
    (∀ d : DomainNo, r.domain = some d → s.TablesOk → ∀ n : Nat, (s.storeDenial r).violation n =
      (if n = d.toNat then { flag := true
                             count := if (s.violation n).count < 65535 then (s.violation n).count + 1
                               else (s.violation n).count }
       else s.violation n)) ∧
    s.storeDenial r = { s with reports := { s.reports with
      q0 := (s.storeDenial r).reports.q0, violations := (s.storeDenial r).reports.violations
      status := (s.storeDenial r).reports.status
      notifyDue := (s.storeDenial r).reports.notifyDue } }) ∧
  (∀ s : State, s.reports.notifyDue = 0 → s.closeEvent = s) ∧
  (∀ (s : State) (l : LinkId), s.reports.notifyDue ≠ 0 →
    s.closeEvent.link l = (if LinkSet.has s.reports.notifyLinks l = true ∧ (s.link l).state = .active
      then { s.link l with outbound :=
        (s.link l).outbound.filter (fun m => !m.isNotify) ++
          [.notify s.timeBase s.reports.status
            (pendingCauses (s.link l).outbound ||| s.reports.notifyDue)] }
      else s.link l)) ∧
  (∀ s : State, s.closeEvent = { s with
    links := s.closeEvent.links, reports := { s.reports with notifyDue := 0 } }) ∧
  ∀ (s : State) (st : Status), (s.raise st).reports.status = s.reports.status ||| st.mask ∧
    (s.raise st).reports.notifyDue = (if StatusSet.has s.reports.status st then s.reports.notifyDue
      else s.reports.notifyDue ||| (st.mask &&& s.reports.enable)) ∧
    s.raise st = { s with reports := { s.reports with
      status := (s.raise st).reports.status, notifyDue := (s.raise st).reports.notifyDue } }

/-- LOG_READ gives the records of up to four positions, each with its position, cut at the end of the occupied
span and without removing them, and none for a position out of the span. LOG_ACK removes the records up to a position
in the span, and is ignored with ACK_RANGE raised for any other position. Both hold for Q0 and for Q1. -/
def Obligations.LogReadAndAck : Prop :=
  (∀ (s t : State) (h : MgmtHeader) (q : QueueId) (p n : Nat), s.Carries h (.logRead h q p n) t →
    exec (.logRead h q p n) s = .next (t.hand h.link
      (.logData h.tag q .none (t.queueView q) (t.logRecords q p n))).closeEvent) ∧
  (∀ (s : State) (p n : Nat), s.QueuesOk →
    let q : ReportQueue _ := s.reports.q0
    (∀ k : Nat, k < q.fill → p = (q.get + k) % q.size →
      (s.logRecords .q0 p n).length = min (min (max n 1) 4) (q.fill - k) ∧
      ∀ (i : Nat) (r : DenialRecord), i < min (max n 1) 4 → q.records[k + i]? = some r →
        (s.logRecords .q0 p n)[i]? = some (.denial ((p + i) % q.size) r)) ∧
    ((∀ k : Nat, k < q.fill → p ≠ (q.get + k) % q.size) → s.logRecords .q0 p n = []) ∧
    s.queueView .q0 =
      { put := if q.size = 0 then 0 else (q.get + q.records.length) % q.size, get := q.get
        fill := q.records.length, full := decide (q.records.length = q.size), lost := q.lost }) ∧
  (∀ (s : State) (p n : Nat), s.QueuesOk →
    let q : ReportQueue _ := s.reports.q1
    (∀ k : Nat, k < q.fill → p = (q.get + k) % q.size →
      (s.logRecords .q1 p n).length = min (min (max n 1) 4) (q.fill - k) ∧
      ∀ (i : Nat) (r : EventRecord), i < min (max n 1) 4 → q.records[k + i]? = some r →
        (s.logRecords .q1 p n)[i]? = some (.event ((p + i) % q.size) r)) ∧
    ((∀ k : Nat, k < q.fill → p ≠ (q.get + k) % q.size) → s.logRecords .q1 p n = []) ∧
    s.queueView .q1 =
      { put := if q.size = 0 then 0 else (q.get + q.records.length) % q.size, get := q.get
        fill := q.records.length, full := decide (q.records.length = q.size), lost := q.lost }) ∧
  (∀ (s t : State) (h : MgmtHeader) (p : Nat), s.Carries h (.logAck h .q0 p) t → t.QueuesOk →
    let q : ReportQueue _ := t.reports.q0
    (∀ k : Nat, k < q.fill → p = (q.get + k) % q.size →
      let u : State := { t with reports := { t.reports with
        q0 := { q with get := (p + 1) % q.size, records := q.records.drop (k + 1) } } }
      exec (.logAck h .q0 p) s = .next (u.hand h.link
        (.logData h.tag .q0 .acked (u.queueView .q0) [])).closeEvent) ∧
    ((∀ k : Nat, k < q.fill → p ≠ (q.get + k) % q.size) →
      exec (.logAck h .q0 p) s = .next ((t.raise .ackRange).hand h.link
        (.logData h.tag .q0 .outOfSpan (t.queueView .q0) [])).closeEvent)) ∧
  ∀ (s t : State) (h : MgmtHeader) (p : Nat), s.Carries h (.logAck h .q1 p) t → t.QueuesOk →
    let q : ReportQueue _ := t.reports.q1
    (∀ k : Nat, k < q.fill → p = (q.get + k) % q.size →
      let u : State := { t with reports := { t.reports with
        q1 := { q with get := (p + 1) % q.size, records := q.records.drop (k + 1) } } }
      exec (.logAck h .q1 p) s = .next (u.hand h.link
        (.logData h.tag .q1 .acked (u.queueView .q1) [])).closeEvent) ∧
    ((∀ k : Nat, k < q.fill → p ≠ (q.get + k) % q.size) →
      exec (.logAck h .q1 p) s = .next ((t.raise .ackRange).hand h.link
        (.logData h.tag .q1 .outOfSpan (t.queueView .q1) [])).closeEvent)

/-- CONTROL CAPTURE_CLEAR, FLAGS_CLEAR and NOTIFY_CLEAR. A NOTIFY_CLEAR leaves due what its own authority test raised
(log entry 40). -/
def Obligations.ReportClears : Prop :=
  (∀ (s t : State) (h : MgmtHeader), s.Carries h (.captureClear h) t →
    exec (.captureClear h) s = .next (({ t with sweep := { t.sweep with
      capture := none, overflow := 0 } } : State).hand h.link
        (.controlReply h.tag .accepted)).closeEvent) ∧
  (∀ (s t : State) (h : MgmtHeader) (a b : DomainNo), s.Carries h (.flagsClear h a b) t →
    t.TablesOk →
    ∃ u : State, exec (.flagsClear h a b) s = .next
        (u.hand h.link (.controlReply h.tag .accepted)).closeEvent ∧
      u = { t with reports := { t.reports with violations := u.reports.violations } } ∧
      ∀ d : Nat, u.violation d =
        (if min a.toNat 1023 ≤ d ∧ d ≤ min b.toNat 1023 then { t.violation d with flag := false }
         else t.violation d)) ∧
  ∀ (s t : State) (h : MgmtHeader) (n : StatusSet), s.Carries h (.notifyClear h n) t →
    exec (.notifyClear h n) s = .next (({ t with reports := { t.reports with
      status := t.reports.status &&& ~~~n
      q0 := { t.reports.q0 with lost := t.reports.q0.lost && !(n.getLsbD 1) }
      q1 := { t.reports.q1 with lost := t.reports.q1.lost && !(n.getLsbD 3) } } } : State).hand
        h.link (.controlReply h.tag .accepted)).closeEvent

/-! ### Parameters -/

/-- CFG_READ gives a parameter's value, or BAD_INDEX for a qualifier beyond its range. A CFG_WRITE is answered
with the value stored after it; a shadow, read-write or read-only parameter is written as its class says, each field
stored as its rule clamps it. A qualifier beyond its range is refused BAD_INDEX before any BAD_ACCESS, and that answer
carries no value (log entry 15). A CFG_WRITE of a parameter that has a command of its own does what that command does:
the model's choice (log entry 21). The value of every parameter, and the qualifiers beyond their range; that a queue
number above 1 in QUEUE_STATE is one of them, and a counter type or a copy never, is log entry 39; that FAULT_MASK drops
the bits above its three is log entry 41. That a yes or a set reads as 1 is the model's choice (WINDOW_ENABLE,
CLASS_WATCH, CLASS_ENABLE and ADMISSION: log entry 44; SWEEP_ENABLE: log entry 37). -/
def Obligations.ParameterAccess : Prop :=
  (∀ (s t : State) (h : MgmtHeader) (p : Param) (v : CfgValue), s.Carries h (.cfgRead h p) t →
    t.readParam p = some v →
    exec (.cfgRead h p) s = .next (t.hand h.link (.cfgData h.tag p .done (some v))).closeEvent) ∧
  (∀ (s t : State) (h : MgmtHeader) (p : Param), s.Carries h (.cfgRead h p) t →
    t.readParam p = none →
    exec (.cfgRead h p) s = .next
      (t.hand h.link (.cfgData h.tag p (.refused .badIndex) none)).closeEvent) ∧
  (∀ (s t : State) (h : MgmtHeader) (p : Param) (v : Quad), s.Carries h (.cfgWrite h p v) t →
    ∃ (u : State) (o : CfgOutcome), exec (.cfgWrite h p v) s = .next (u.hand h.link (.cfgData h.tag p o
        (if o = .refused .badIndex then none else u.readParam p))).closeEvent ∧
      (∀ r : CfgReason, o = .refused r → u = t) ∧
      (p = .revokeTimeout → o = .done ∧
        u = { t with revokeTimeout := min (max v.toNat 1) 1023 }) ∧
      (p = .memoryTimeout → o = .done ∧
        u = { t with memoryTimeout := min (max v.toNat 1) 255 }) ∧
      (p = .errorThreshold → o = .done ∧
        u = { t with errorThreshold := min (max v.toNat 1) 255 }) ∧
      (p = .classLength .shadow → o = .done ∧
        u = { t with shadow := { t.shadow with length := min v.toNat 256 } }) ∧
      (∀ (f : WindowField) (w : Nat), p = .window f w .shadow → w < 16 → o = .done ∧
        u = { t with shadow := { t.shadow with windows := u.shadow.windows } } ∧
        (∀ i : Fin 16, i.val ≠ w → u.shadow.windows[i] = t.shadow.windows[i]) ∧
        ∀ i : Fin 16, i.val = w → u.shadow.windows[i] = (t.shadow.windows[i]).store f v) ∧
      (∀ (f : WindowField) (w : Nat), p = .window f w .active → w < 16 →
        o = .refused .badAccess) ∧
      (∀ (f : WindowField) (w : Nat) (c : Copy), p = .window f w c → 16 ≤ w →
        o = .refused .badIndex) ∧
      (∀ (f : ElementField) (n : Nat), p = .classElement f n .shadow → n < 256 → o = .done ∧
        u = { t with shadow := { t.shadow with elements := u.shadow.elements } } ∧
        (t.ElementsOk → u.shadow.element n = (t.shadow.element n).store f v ∧
          ∀ m : Nat, m ≠ n → u.shadow.element m = t.shadow.element m)) ∧
      (∀ (f : NonMatchField) (l : LinkId), p = .nonMatch f l.val .shadow → o = .done ∧
        u = { t with shadow := { t.shadow with nonMatch := u.shadow.nonMatch } } ∧
        u.shadow.nonMatch[l] = (t.shadow.nonMatch[l]).store f v ∧
        ∀ m : LinkId, m ≠ l → u.shadow.nonMatch[m] = t.shadow.nonMatch[m]) ∧
      (p = .classLength .active → o = .refused .badAccess) ∧
      (∀ (f : ElementField) (n : Nat), p = .classElement f n .active → n < 256 →
        o = .refused .badAccess) ∧
      (∀ (f : ElementField) (n : Nat) (c : Copy), p = .classElement f n c → 256 ≤ n →
        o = .refused .badIndex) ∧
      (∀ (f : NonMatchField) (n : Nat), p = .nonMatch f n .active → n < 4 → o = .refused .badAccess) ∧
      (∀ (f : NonMatchField) (n : Nat) (c : Copy), p = .nonMatch f n c → 4 ≤ n →
        o = .refused .badIndex) ∧
      (∀ l : LinkId,
        (p = .linkExpectRole l.val → o = .done ∧ u = t.setLink l { t.link l with
          expectRole := if v.toNat = 1 then some .socket else if v.toNat = 2 then some .ioRoot
            else none }) ∧
        (p = .linkMinRevision l.val → o = .done ∧ u = t.setLink l { t.link l with
          minRevision := min (max v.toNat 1) 15 }) ∧
        (p = .errorMode l.val → o = .done ∧ u = t.setLink l { t.link l with
          errorMode := v.setWidth 3 }) ∧
        (p = .faultMask l.val → o = .done ∧ u = t.setLink l { t.link l with
          faultMask := v.setWidth 3 })) ∧
      (∀ n : Nat, 4 ≤ n → p = .linkExpectRole n ∨ p = .linkMinRevision n ∨ p = .errorMode n ∨
        p = .faultMask n → o = .refused .badIndex) ∧
      (p = .queueMode .q0 → o = .done ∧ u = { t with reports := { t.reports with
        q0 := { t.reports.q0 with mode := if v.toNat = 1 then .overwrite else .blocking } } }) ∧
      (p = .queueMode .q1 → o = .done ∧ u = { t with reports := { t.reports with
        q1 := { t.reports.q1 with mode := if v.toNat = 1 then .overwrite else .blocking } } }) ∧
      (p = .queueWatermark .q0 → o = .done ∧ u = { t with reports := { t.reports with
        q0 := { t.reports.q0 with watermark := min v.toNat 4096 } } }) ∧
      (p = .queueWatermark .q1 → o = .done ∧ u = { t with reports := { t.reports with
        q1 := { t.reports.q1 with watermark := min v.toNat 4096 } } }) ∧
      (p = .notifyLinks → o = .done ∧ u = { t with reports := { t.reports with
        notifyLinks := v.setWidth 4 } }) ∧
      (p = .pacerPhaseMode → o = .done ∧ u = { t with sweep := { t.sweep with
        restart := decide (v.toNat = 1) } }) ∧
      (p ∈ [.deviceMode, .leadLink, .timeBase, .tableValid, .tableInitProgress, .watchReport,
          .oldEpochOpen, .directoryInUse, .directoryMisses, .fenceInUse, .directQueueFill,
          .retireStatus, .policyEpoch, .commitPhase, .pacerState, .sweepSlips, .sweepPosition,
          .sweepPasses, .quarantineList, .errorCapture, .violationFirst, .notifyStatus] →
        o = .refused .badAccess) ∧
      ∀ n : Nat,
        (p = .openChecks n ∨ p = .flushOutstanding n ∨ p = .linkState n →
          o = .refused (if n < 4 then .badAccess else .badIndex)) ∧
        (p = .domainEntry n ∨ p = .domainViolation n →
          o = .refused (if n < 1024 then .badAccess else .badIndex)) ∧
        (p = .chainProgress n ∨ p = .queueState n →
          o = .refused (if n < 2 then .badAccess else .badIndex))) ∧
  (∀ s : State,
    let num (p : Param) (n : Nat) : Prop := s.readParam p = some (.num n)
    let bit (b : Bool) : Nat := if b = true then 1 else 0
    s.readParam .storeGeometry = some (.optional s.store.geometry) ∧
    num .errorThreshold s.errorThreshold ∧ num .revokeTimeout s.revokeTimeout ∧
    num .memoryTimeout s.memoryTimeout ∧
    num (.queueSize .q0) s.reports.q0.size ∧ num (.queueSize .q1) s.reports.q1.size ∧
    num (.queueMode .q0) (match s.reports.q0.mode with | .blocking => 0 | .overwrite => 1) ∧
    num (.queueMode .q1) (match s.reports.q1.mode with | .blocking => 0 | .overwrite => 1) ∧
    num (.queueWatermark .q0) s.reports.q0.watermark ∧
    num (.queueWatermark .q1) s.reports.q1.watermark ∧
    num .notifyEnable s.reports.enable.toNat ∧ num .notifyLinks s.reports.notifyLinks.toNat ∧
    num (.pacer .x) s.sweep.pacerX ∧ num (.pacer .a) s.sweep.pacerA ∧ num (.pacer .b) s.sweep.pacerB ∧
    num .sweepEnable (bit s.sweep.enable) ∧ num .pacerPhaseMode (bit s.sweep.restart) ∧
    s.readParam .deviceMode = some (.mode s.mode) ∧ num .leadLink s.leadLink.val ∧
    s.readParam .tableValid = some (.flag s.store.tableValid) ∧
    num .tableInitProgress s.store.initProgress ∧
    s.readParam .watchReport = some (.watch s.watchReport) ∧ num .oldEpochOpen s.oldEpochCount ∧
    num .directoryMisses s.directoryMisses ∧ num .fenceInUse s.fence.length ∧
    num .directQueueFill s.directQueue.length ∧
    s.readParam .retireStatus = some (if s.retire.running = true then
      .retire (some s.retire.domain) s.retire.position s.retire.stepsInFence else .retire none none 0) ∧
    num .policyEpoch s.epoch.toNat ∧ s.readParam .commitPhase = some (.phase s.phase s.flushSet) ∧
    s.readParam .pacerState =
      some (.pacer s.sweep.phase s.sweep.residue s.sweep.creditPending) ∧
    num .sweepSlips s.sweep.slips ∧
    s.readParam .sweepPosition = some (.position s.sweep.window s.sweep.offset) ∧
    num .sweepPasses s.sweep.passes ∧
    s.readParam .quarantineList = some (.granules s.sweep.requests) ∧
    s.readParam .errorCapture = some (.capture s.sweep.capture s.sweep.overflow) ∧
    num .notifyStatus s.reports.status.toNat ∧
    (s.TablesOk → ∃ ws : List Nat, ws.Nodup ∧ (∀ w : Nat, w ∈ ws ↔ s.dirWay w ≠ none) ∧
      num .directoryInUse ws.length) ∧
    (s.TablesOk → ∃ o : Option Nat, s.readParam .violationFirst = some (.optional o) ∧
      (o = none → ∀ d : Nat, (s.violation d).flag = false) ∧
      ∀ d : Nat, o = some d → (s.violation d).flag = true ∧
        ∀ e : Nat, e < d → (s.violation e).flag = false) ∧
    (∀ c : Copy, num (.classLength c) (s.policy c).length ∧
      (∀ i : Fin 16,
        let w : Window := (s.policy c).windows[i]
        num (.window .enable i.val c) (bit w.enabled) ∧ num (.window .base i.val c) w.base.toNat ∧
        num (.window .size i.val c) w.size ∧
        num (.window .granule i.val c) (match w.granule with | .kib4 => 12 | .mib2 => 21) ∧
        num (.window .tagBase i.val c) w.tagBase ∧
        num (.window .mode i.val c) (match w.mode with
          | .tagged => 0 | .openAll => 1 | .platformOnly => 2 | .closed => 3)) ∧
      (∀ n : Nat, n < 256 →
        let e : Element := (s.policy c).element n
        num (.classElement .kind n c) (match e.kind with
          | .exact => 0 | .range => 1 | .masked => 2) ∧
        num (.classElement .first n c) e.first.toNat ∧
        num (.classElement .second n c) e.second.toNat ∧
        num (.classElement .links n c) e.links.toNat ∧
        num (.classElement .action n c) (match e.action with | .block => 0 | .domain => 1) ∧
        num (.classElement .domain n c) e.domain.toNat ∧
        num (.classElement .watch n c) (bit e.watch) ∧
        num (.classElement .enable n c) (bit e.enabled)) ∧
      ∀ l : LinkId, num (.nonMatch .action l.val c) (bit ((s.policy c).nonMatch[l]).isDomain) ∧
        num (.nonMatch .domain l.val c) ((s.policy c).nonMatch[l]).domain.toNat) ∧
    (∀ l : LinkId,
      let k : Link := s.link l
      num (.admission l.val) (bit k.admission) ∧
      num (.linkExpectRole l.val) (match k.expectRole with
        | none => 0 | some .socket => 1 | some .ioRoot => 2) ∧
      num (.linkMinRevision l.val) k.minRevision ∧ num (.errorMode l.val) k.errorMode.toNat ∧
      num (.faultMask l.val) k.faultMask.toNat ∧
      s.readParam (.errorCounter l.val .frameCheck) = some (.counter k.counters.frameCheck) ∧
      s.readParam (.errorCounter l.val .malformed) = some (.counter k.counters.malformed) ∧
      s.readParam (.errorCounter l.val .unexpected) = some (.counter k.counters.unexpected) ∧
      num (.openChecks l.val) (s.openChecks.countP fun e => decide (e.link = l)) ∧
      s.readParam (.flushOutstanding l.val) = some (.flag k.flushOutstanding) ∧
      s.readParam (.linkState l.val) =
        some (.link k.state k.announced k.lastReply k.lastFault k.sessionCount)) ∧
    (∀ d : DomainNo, d.toNat < 1024 →
      s.readParam (.domainEntry d.toNat) = some (.domain (s.domainEntry d)) ∧
      s.readParam (.domainViolation d.toNat) = some (.violation (s.violation d.toNat))) ∧
    (∀ c : ChannelId,
      let k : Channel := s.chan c
      s.readParam (.chainProgress c.val) = some (.chain
        { state := k.state, fetchLink := k.fetchLink, notifyAddr := k.notifyAddr
          notifyValue := k.notifyValue, blockAddr := k.blockAddr, blockHeld := k.block.isSome
          rangeFirst := k.rangeFirst, rangeCount := k.rangeCount, nextOffset := k.nextOffset
          inFence := k.inFence, done := k.done, failed := k.failed, firstFailed := k.firstFailed
          stopRequested := k.stopRequested, errorStop := k.errorStop, linkLost := k.linkLost
          memRequest := k.memRequest, sequence := k.sequence })) ∧
    s.readParam (.queueState 0) = some (.queue (s.queueView .q0).put (s.queueView .q0).get
      (s.queueView .q0).fill (s.queueView .q0).full (s.queueView .q0).lost) ∧
    s.readParam (.queueState 1) = some (.queue (s.queueView .q1).put (s.queueView .q1).get
      (s.queueView .q1).fill (s.queueView .q1).full (s.queueView .q1).lost) ∧
    ∀ (n : Nat) (p : Param),
      (4 ≤ n ∧ (p = .admission n ∨ p = .linkExpectRole n ∨ p = .linkMinRevision n ∨ p = .errorMode n ∨
          p = .faultMask n ∨ (∃ c, p = .errorCounter n c) ∨ p = .openChecks n ∨
          p = .flushOutstanding n ∨ p = .linkState n ∨ ∃ f c, p = .nonMatch f n c)) ∨
        (16 ≤ n ∧ ∃ f c, p = .window f n c) ∨ (256 ≤ n ∧ ∃ f c, p = .classElement f n c) ∨
        (1024 ≤ n ∧ (p = .domainEntry n ∨ p = .domainViolation n)) ∨
        (2 ≤ n ∧ (p = .chainProgress n ∨ p = .queueState n)) → s.readParam p = none) ∧
  (∀ (s : State) (h : MgmtHeader) (v : Quad),
    (s.Takes h.link (.cfgWrite h .storeGeometry v) →
      exec (.cfgWrite h .storeGeometry v) s = exec (.storeGeometry h v) s) ∧
    (∀ n : Nat, s.Takes h.link (.cfgWrite h (.admission n) v) →
      exec (.cfgWrite h (.admission n) v) s = exec (.admission h n v) s) ∧
    (∀ (n : Nat) (c : CounterType), s.Takes h.link (.cfgWrite h (.errorCounter n c) v) →
      exec (.cfgWrite h (.errorCounter n c) v) s = exec (.errorCounter h n c v) s) ∧
    (∀ q : QueueId, s.Takes h.link (.cfgWrite h (.queueSize q) v) →
      exec (.cfgWrite h (.queueSize q) v) s = exec (.queueSizeWrite h q v) s) ∧
    (s.Takes h.link (.cfgWrite h .notifyEnable v) →
      exec (.cfgWrite h .notifyEnable v) s = exec (.notifyEnable h v) s) ∧
    (∀ r : PacerParam, s.Takes h.link (.cfgWrite h (.pacer r) v) →
      exec (.cfgWrite h (.pacer r) v) s = exec (.pacerParameterWrite h r v) s) ∧
    (s.Takes h.link (.cfgWrite h .sweepEnable v) →
      exec (.cfgWrite h .sweepEnable v) s = exec (.sweepEnable h v) s)) ∧
  (∀ (e : Element) (m : NonMatch) (v : Quad),
    e.store .kind v = { e with kind := if v.toNat = 1 then .range else if v.toNat = 2 then .masked
      else .exact } ∧
    e.store .first v = { e with first := BitVec.ofNat 16 v.toNat } ∧
    e.store .second v = { e with second := BitVec.ofNat 16 v.toNat } ∧
    e.store .links v = { e with links := BitVec.ofNat 4 v.toNat } ∧
    e.store .action v = { e with action := if v.toNat = 1 then .domain else .block } ∧
    e.store .domain v = { e with domain := BitVec.ofNat 16 v.toNat } ∧
    e.store .watch v = { e with watch := decide (v.toNat ≠ 0) } ∧
    e.store .enable v = { e with enabled := decide (v.toNat ≠ 0) } ∧
    m.store .action v = { m with isDomain := decide (v.toNat = 1) } ∧
    m.store .domain v = { m with domain := BitVec.ofNat 16 v.toNat }) ∧
  ∀ (w : Window) (v : Quad),
    (w.store .enable v).enabled = decide (v.toNat ≠ 0) ∧
    (w.store .base v).base.toNat = v.toNat % 2 ^ 52 / 2 ^ 12 * 2 ^ 12 ∧
    (w.store .size v).size = min v.toNat (2 ^ 28) ∧
    (w.store .granule v).granule = (if v.toNat = 21 then .mib2 else .kib4) ∧
    (w.store .tagBase v).tagBase = min v.toNat (2 ^ 28 - 1) ∧
    (w.store .mode v).mode = (if v.toNat = 0 then .tagged else if v.toNat = 1 then .openAll
      else if v.toNat = 2 then .platformOnly else .closed) ∧
    w.store .enable v = { w with enabled := (w.store .enable v).enabled } ∧
    w.store .base v = { w with base := (w.store .base v).base } ∧
    w.store .size v = { w with size := (w.store .size v).size } ∧
    w.store .granule v = { w with granule := (w.store .granule v).granule } ∧
    w.store .tagBase v = { w with tagBase := (w.store .tagBase v).tagBase } ∧
    w.store .mode v = { w with mode := (w.store .mode v).mode }

/-- The parameter writes that are commands of their own: what each stores, and what else it does. An ADMISSION
cleared in OPERATING takes an ACTIVE link to HELD, with FLUSH_ALL and its timer when no flush was outstanding, and its
chain channels act as SignalLossClearsLink states `chainsLinkLost`; one set takes a link from ADMIT_WAIT or HELD to
ACTIVE, which sends nothing and leaves the flush as it was; that the NOTIFY of a WATCH_HIT of the write's own authority
test goes also to a link so made ACTIVE is log entry 47. A link that goes to HELD keeps its unsent messages: that an
unsent MEM_READ or MEM_WRITE is among them is log entry 43, that an unsent NOTIFY is is log entry 22. A link number
above 3 is refused BAD_INDEX, and that answer carries no value (log entry 15). A NOTIFY is due for the enables that a
write takes from clear to set (log entry 14); a SWEEP_ENABLE of 0 is clear and of any other value set (log entry 37). An ADMISSION that is
set reads back as 1 (log entry 44). -/
def Obligations.ParameterWrites : Prop :=
  (∀ (s t : State) (h : MgmtHeader) (v : Quad), s.Carries h (.storeGeometry h v) t →
    let g : Nat := min (max v.toNat 24) 28
    let answer (u : State) (o : CfgOutcome) : Prop := exec (.storeGeometry h v) s = .next (u.hand h.link
      (.cfgData h.tag .storeGeometry o (some (.optional u.store.geometry)))).closeEvent
    (t.mode = .operating → answer t (.refused .badAccess)) ∧
    (t.mode = .startup →
      (t.store.initRunning = true → answer t (.refused .tableBusy)) ∧
      (t.store.initRunning = false →
        ((∃ i : Fin 16, (t.active.windows[i]).walks = true ∧
            2 ^ g < (t.active.windows[i]).tagBase + (t.active.windows[i]).effSize) →
          answer t (.refused .range)) ∧
        ((∀ i : Fin 16, (t.active.windows[i]).walks = true →
            (t.active.windows[i]).tagBase + (t.active.windows[i]).effSize ≤ 2 ^ g) →
          (t.fence ≠ [] ∨ t.store.softQueue ≠ [] ∨ t.sweep.requests ≠ [] →
            answer t (.refused .tableBusy)) ∧
          (t.fence = [] → t.store.softQueue = [] → t.sweep.requests = [] → t.TablesOk →
            ∃ u, answer u .done ∧
              u = { t with
                domains := u.domains
                store := { t.store with geometry := some g, tableValid := false } } ∧
              ∀ d : DomainNo, u.domainEntry d =
                { t.domainEntry d with owned := min (t.domainEntry d).owned (2 ^ g) }))))) ∧
  (∀ (s t : State) (h : MgmtHeader) (l : LinkId) (v : Quad), s.Carries h (.admission h l v) t →
    ∃ u : State, exec (.admission h l v) s = .next (u.hand h.link (.cfgData h.tag (.admission l) .done
        (some (.num (if v = 0 then 0 else 1))))).closeEvent ∧
      (u.link l).admission = decide (v ≠ 0) ∧
      (∀ m : LinkId, m ≠ l → u.link m = t.link m) ∧
      (t.mode = .startup → (u.link l).state = (t.link l).state) ∧
      (t.mode = .operating → v ≠ 0 → (u.link l).state =
        (if (t.link l).state = .admitWait ∨ (t.link l).state = .held then .active
         else (t.link l).state)) ∧
      (t.mode = .operating → v = 0 → (u.link l).state =
        (if (t.link l).state = .active then .held else (t.link l).state)) ∧
      (t.mode = .operating → v = 0 → (t.link l).state = .active →
        (u.link l).flushOutstanding = true) ∧
      (t.mode = .startup → u = t.setLink l { t.link l with admission := decide (v ≠ 0) }) ∧
      (t.mode = .operating → v ≠ 0 → u = t.setLink l { t.link l with
        admission := true
        state := if (t.link l).state = .admitWait ∨ (t.link l).state = .held then .active
          else (t.link l).state }) ∧
      (t.mode = .operating → v = 0 → (t.link l).state ≠ .active →
        u = t.setLink l { t.link l with admission := false }) ∧
      (t.mode = .operating → v = 0 → (t.link l).state = .active →
        let flush : Bool := !(t.link l).flushOutstanding
        u = (t.setLink l { t.link l with
          admission := false, state := .held, flushOutstanding := true
          flushTimer := if flush then some (t.timeBase + BitVec.ofNat 48 t.revokeTimeout)
            else (t.link l).flushTimer
          outbound := (t.link l).outbound ++ (if flush then [.flushAll] else [])
        }).chainsLinkLost l) ∧
      u.link l = { t.link l with
        state := (u.link l).state, admission := decide (v ≠ 0), outbound := (u.link l).outbound
        flushOutstanding := (u.link l).flushOutstanding, flushTimer := (u.link l).flushTimer } ∧
      u = { t with
        links := u.links, chains := u.chains
        reports := { t.reports with
          q1 := u.reports.q1, status := u.reports.status, notifyDue := u.reports.notifyDue } }) ∧
  (∀ (s t : State) (h : MgmtHeader) (l : LinkId) (c : CounterType) (v : Quad),
    s.Carries h (.errorCounter h l c v) t →
    exec (.errorCounter h l c v) s = .next ((t.setLink l { t.link l with
      counters := (t.link l).counters.set c { value := 0, reached := false } }).hand h.link
        (.cfgData h.tag (.errorCounter l c) .done
          (some (.counter { value := 0, reached := false })))).closeEvent) ∧
  (∀ (s t : State) (h : MgmtHeader) (n : Nat) (c : CounterType) (v : Quad), 4 ≤ n →
    (s.Carries h (.admission h n v) t → exec (.admission h n v) s = .next (t.hand h.link
      (.cfgData h.tag (.admission n) (.refused .badIndex) none)).closeEvent) ∧
    (s.Carries h (.errorCounter h n c v) t → exec (.errorCounter h n c v) s = .next (t.hand h.link
      (.cfgData h.tag (.errorCounter n c) (.refused .badIndex) none)).closeEvent)) ∧
  (∀ (s t : State) (h : MgmtHeader) (v : Quad), s.Carries h (.queueSizeWrite h .q0 v) t →
    exec (.queueSizeWrite h .q0 v) s = .next (({ t with reports := { t.reports with
      q0 := { t.reports.q0 with size := min v.toNat 4096, get := 0, records := [] }
      q1 := { t.reports.q1 with
        size := min t.reports.q1.size (4096 - min v.toNat 4096), get := 0, records := [] } } } :
          State).hand h.link (.cfgData h.tag (.queueSize .q0) .done
            (some (.num (min v.toNat 4096))))).closeEvent) ∧
  (∀ (s t : State) (h : MgmtHeader) (v : Quad), s.Carries h (.queueSizeWrite h .q1 v) t →
    exec (.queueSizeWrite h .q1 v) s = .next (({ t with reports := { t.reports with
      q0 := { t.reports.q0 with get := 0, records := [] }
      q1 := { t.reports.q1 with
        size := min v.toNat (4096 - t.reports.q0.size), get := 0, records := [] } } } :
          State).hand h.link (.cfgData h.tag (.queueSize .q1) .done
            (some (.num (min v.toNat (4096 - t.reports.q0.size)))))).closeEvent) ∧
  (∀ (s t : State) (h : MgmtHeader) (v : Quad), s.Carries h (.notifyEnable h v) t →
    exec (.notifyEnable h v) s = .next (({ t with reports := { t.reports with
      enable := v.setWidth 13
      notifyDue := t.reports.notifyDue |||
        (v.setWidth 13 &&& ~~~t.reports.enable &&& t.reports.status) } } : State).hand h.link
          (.cfgData h.tag .notifyEnable .done (some (.num (v.toNat % 2 ^ 13))))).closeEvent) ∧
  (∀ (s t : State) (h : MgmtHeader) (p : PacerParam) (v : Quad),
    s.Carries h (.pacerParameterWrite h p v) t →
    let n : Nat := v.toNat % 2 ^ 32
    exec (.pacerParameterWrite h p v) s = .next (({ t with sweep := { t.sweep with
      pacerX := if p = .x then n else t.sweep.pacerX
      pacerA := if p = .a then n else t.sweep.pacerA
      pacerB := if p = .b then n else t.sweep.pacerB
      phase := if t.sweep.restart then 0 else t.sweep.phase
      residue := if t.sweep.restart then 0 else t.sweep.residue } } : State).hand h.link
        (.cfgData h.tag (.pacer p) .done (some (.num n)))).closeEvent) ∧
  ∀ (s t : State) (h : MgmtHeader) (v : Quad), s.Carries h (.sweepEnable h v) t →
    exec (.sweepEnable h v) s = .next (({ t with sweep := { t.sweep with
      enable := decide (v ≠ 0)
      creditPending := t.sweep.creditPending && !(t.sweep.enable && decide (v = 0)) } } :
        State).hand h.link (.cfgData h.tag .sweepEnable .done
          (some (.num (if v = 0 then 0 else 1))))).closeEvent

/-! ### Invariants -/

/-- Every step keeps the tag DRAM and the other sparse tables, the classifier elements of both policy copies among
them, in their canonical form: the model's own representation (log entries 1 and 27). -/
def Obligations.StepKeepsTables : Prop :=
  (∀ s t : State, s.MemoryOk → s.TablesOk → step s = .next t → t.MemoryOk ∧ t.TablesOk) ∧
  ∀ s t : State, s.ElementsOk → step s = .next t → t.ElementsOk

/-- R75: every step keeps at most eight fence entries, no two for one granule; that they stand in ascending granule
index is the model's own representation (log entry 27). -/
def Obligations.StepKeepsFence : Prop := ∀ s t : State, s.FenceOk → step s = .next t → t.FenceOk

/-- Every step keeps the active copy such that it passes the commit's validation under the present capacity: no
two windows in use overlap, every tag range lies in the store and meets no other, every domain is at most 1023. -/
def Obligations.StepKeepsPolicy : Prop :=
  (∀ s t : State, s.PolicyOk → step s = .next t → t.PolicyOk) ∧
  ∀ s : State, s.PolicyOk →
    (∀ i j : Fin 16, i ≠ j → (s.active.windows[i]).inUse = true → (s.active.windows[j]).inUse = true →
      (s.active.windows[i]).limit ≤ (s.active.windows[j]).effBase ∨
        (s.active.windows[j]).limit ≤ (s.active.windows[i]).effBase) ∧
    (∀ i : Fin 16, (s.active.windows[i]).walks = true →
      (s.active.windows[i]).tagBase + (s.active.windows[i]).effSize ≤ s.capacity) ∧
    (∀ i j : Fin 16, i ≠ j → (s.active.windows[i]).walks = true → (s.active.windows[j]).walks = true →
      (s.active.windows[i]).tagBase + (s.active.windows[i]).effSize ≤ (s.active.windows[j]).tagBase ∨
        (s.active.windows[j]).tagBase + (s.active.windows[j]).effSize ≤
          (s.active.windows[i]).tagBase) ∧
    ∀ (l : LinkId) (i : SourceId) (d : DomainNo), (s.active.classify l i).result = .domain d →
      d.toNat ≤ 1023

/-- Every step keeps the report queues within their sizes, the parameters, error counters and owned counts in
their ranges, and the command lists within their places. -/
def Obligations.StepKeepsBounds : Prop :=
  ∀ s t : State, s.QueuesOk → s.RangesOk → s.CountersOk → s.OwnedOk → s.ListsOk → step s = .next t →
    t.QueuesOk ∧ t.RangesOk ∧ t.CountersOk ∧ t.OwnedOk ∧ t.ListsOk

/-- R144: every step keeps the commit phase in accord with what the commit flush waits for. -/
def Obligations.StepKeepsCommitPhase : Prop :=
  ∀ s t : State, s.CommitOk → step s = .next t → t.CommitOk

/-- Every step keeps the Grant Directory such that each entry stands in a way of its granule index's set, no two
entries name one granule index, and every holder set is non-empty and names only links in ACTIVE or HELD; its table
of ways keeps the model's own sparse form (log entry 27). -/
def Obligations.StepKeepsDirectory : Prop :=
  ∀ s t : State, s.DirectoryOk → step s = .next t → t.DirectoryOk

end Statements
end

