-- ==== Sys2Proof/Laws/Memory.lean ====
section
/-! SUPPORT. The laws of sparse tables and of the tag DRAM: what a read after a write gives, and that every
operation keeps the canonical form. -/

namespace Sys2Proof.Machine

/-! ### Sparse tables -/

/-- A key below every listed key holds the default. -/
theorem Table.get_below {α : Type} (d : α) (t : List (Nat × α)) (x : Nat) (h : ∀ p ∈ t, x < p.1) :
    Table.get d t x = d := by
  induction t with
  | nil => rfl
  | cons p rest ih =>
    obtain ⟨k, v⟩ := p
    have hk : x < k := h (k, v) (by simp)
    simp only [Table.get]
    rw [if_neg (by omega)]
    exact ih fun q hq => h q (by simp [hq])

/-- A listed key of a table whose keys rise holds the listed value. -/
theorem Table.get_listed {α : Type} (d : α) (t : List (Nat × α)) (p : Nat × α)
    (s : t.Pairwise fun p q => p.1 < q.1) (m : p ∈ t) : Table.get d t p.1 = p.2 := by
  induction t with
  | nil => simp at m
  | cons q rest ih =>
    obtain ⟨k, v⟩ := q
    rw [List.pairwise_cons] at s
    simp only [Table.get]
    rcases List.mem_cons.mp m with e | m
    · subst e; simp
    · have := s.1 p m
      simp only at this
      rw [if_neg (by omega)]
      exact ih s.2 m

/-- A read after a write, in a table whose keys rise. -/
theorem Table.get_set {α : Type} [DecidableEq α] (d : α) (t : List (Nat × α)) (x y : Nat) (v : α)
    (s : t.Pairwise fun p q => p.1 < q.1) :
    Table.get d (Table.set d t x v) y = if y = x then v else Table.get d t y := by
  induction t with
  | nil =>
    simp only [Table.set]
    by_cases hv : v = d
    · simp only [hv, ↓reduceIte, Table.get]; split <;> rfl
    · simp only [hv, ↓reduceIte, Table.get, eq_comm]
  | cons p rest ih =>
    obtain ⟨k, w⟩ := p
    rw [List.pairwise_cons] at s
    obtain ⟨lo, s⟩ := s
    have below (z : Nat) (hz : z ≤ k) : Table.get d rest z = d :=
      Table.get_below d rest z fun q hq => lt_of_le_of_lt hz (lo q hq)
    simp only [Table.set]
    by_cases h1 : x < k
    · rw [if_pos h1]
      by_cases hv : v = d
      · rw [if_pos hv, hv]
        by_cases hy : y = x
        · subst hy
          simp only [↓reduceIte, Table.get]
          rw [if_neg (by omega)]
          exact below y (by omega)
        · rw [if_neg hy]
      · rw [if_neg hv]
        simp only [Table.get, eq_comm]
    · rw [if_neg h1]
      by_cases h2 : x = k
      · rw [if_pos h2]
        subst h2
        by_cases hv : v = d
        · rw [if_pos hv, hv]
          by_cases hy : y = x
          · subst hy; simp only [↓reduceIte]; exact below y le_rfl
          · simp only [Table.get, hy, ↓reduceIte]; rw [if_neg (fun h => hy h.symm)]
        · rw [if_neg hv]
          by_cases hy : y = x
          · subst hy; simp [Table.get]
          · simp only [Table.get]
            rw [if_neg (fun h => hy h.symm), if_neg hy, if_neg (fun h => hy h.symm)]
      · rw [if_neg h2]
        simp only [Table.get]
        by_cases hy : k = y
        · rw [if_pos hy, if_pos hy, if_neg (by omega)]
        · rw [if_neg hy, if_neg hy]
          exact ih s

/-- The keys of a table after a write. -/
theorem Table.key_of_set {α : Type} [DecidableEq α] (d : α) (t : List (Nat × α)) (x : Nat) (v : α)
    (p : Nat × α) (m : p ∈ Table.set d t x v) : p ∈ t ∨ (p = (x, v) ∧ v ≠ d) := by
  induction t with
  | nil =>
    simp only [Table.set] at m
    split at m
    · simp at m
    · rename_i hv; exact Or.inr ⟨by simpa using m, hv⟩
  | cons q rest ih =>
    obtain ⟨k, w⟩ := q
    simp only [Table.set] at m
    split at m
    · split at m
      · exact Or.inl m
      · rename_i hv
        rcases List.mem_cons.mp m with e | m
        · exact Or.inr ⟨e, hv⟩
        · exact Or.inl m
    · split at m
      · split at m
        · exact Or.inl (List.mem_cons_of_mem _ m)
        · rename_i hv
          rcases List.mem_cons.mp m with e | m
          · exact Or.inr ⟨e, hv⟩
          · exact Or.inl (List.mem_cons_of_mem _ m)
      · rcases List.mem_cons.mp m with e | m
        · exact Or.inl (by simp [e])
        · rcases ih m with h | h
          · exact Or.inl (List.mem_cons_of_mem _ h)
          · exact Or.inr h

/-- A write keeps the canonical form. -/
theorem Table.wf_set {α : Type} [DecidableEq α] (d : α) (t : List (Nat × α)) (x : Nat) (v : α)
    (h : Table.wf d t) : Table.wf d (Table.set d t x v) := by
  constructor
  · have s := h.1
    clear h
    induction t with
    | nil => simp only [Table.set]; split <;> simp
    | cons q rest ih =>
      obtain ⟨k, w⟩ := q
      have s' := s
      rw [List.pairwise_cons] at s'
      obtain ⟨lo, sr⟩ := s'
      simp only [Table.set]
      split
      · rename_i lt
        split
        · exact s
        · rw [List.pairwise_cons]
          refine ⟨fun p hp => ?_, s⟩
          rcases List.mem_cons.mp hp with e | hp
          · rw [e]; exact lt
          · exact Nat.lt_trans lt (lo p hp)
      · split
        · rename_i e
          split
          · exact sr
          · rw [List.pairwise_cons]
            exact ⟨fun p hp => by rw [e]; exact lo p hp, sr⟩
        · rename_i ge ne
          rw [List.pairwise_cons]
          refine ⟨fun p hp => ?_, ih sr⟩
          rcases Table.key_of_set d rest x v p hp with hp | ⟨e, _⟩
          · exact lo p hp
          · rw [e]; simp only; omega
  · intro p m
    rcases Table.key_of_set d t x v p m with m | ⟨e, hv⟩
    · exact h.2 p m
    · rw [e]; exact hv

/-- The entries of a mapped table are images of the old ones. -/
theorem Table.mem_mapListed {α : Type} [DecidableEq α] (d : α) (f : Nat → α → α) (t : List (Nat × α))
    (p : Nat × α) (m : p ∈ Table.mapListed d f t) :
    ∃ q ∈ t, p = (q.1, f q.1 q.2) ∧ p.2 ≠ d := by
  induction t with
  | nil => simp [Table.mapListed] at m
  | cons q rest ih =>
    obtain ⟨k, w⟩ := q
    simp only [Table.mapListed] at m
    split at m
    · obtain ⟨q, hq, e⟩ := ih m
      exact ⟨q, List.mem_cons_of_mem _ hq, e⟩
    · rename_i hv
      rcases List.mem_cons.mp m with e | m
      · exact ⟨(k, w), by simp, e, by rw [e]; exact hv⟩
      · obtain ⟨q, hq, e⟩ := ih m
        exact ⟨q, List.mem_cons_of_mem _ hq, e⟩

/-- A mapped table is in canonical form. -/
theorem Table.wf_mapListed {α : Type} [DecidableEq α] (d : α) (f : Nat → α → α) (t : List (Nat × α))
    (h : Table.wf d t) : Table.wf d (Table.mapListed d f t) := by
  constructor
  · have s := h.1
    clear h
    induction t with
    | nil => simp [Table.mapListed]
    | cons q rest ih =>
      obtain ⟨k, w⟩ := q
      rw [List.pairwise_cons] at s
      simp only [Table.mapListed]
      split
      · exact ih s.2
      · rw [List.pairwise_cons]
        refine ⟨fun p hp => ?_, ih s.2⟩
        obtain ⟨q, hq, e, _⟩ := Table.mem_mapListed d f rest p hp
        rw [e]
        exact s.1 q hq
  · intro p m
    obtain ⟨_, _, _, hv⟩ := Table.mem_mapListed d f t p m
    exact hv

/-- A value other than the default is listed. -/
theorem Table.listed_of_get {α : Type} (d : α) (t : List (Nat × α)) (x : Nat) (v : α) (h : Table.get d t x = v)
    (n : v ≠ d) : (x, v) ∈ t := by
  induction t with
  | nil => exact absurd h.symm n
  | cons p rest ih =>
    obtain ⟨k, w⟩ := p
    simp only [Table.get] at h
    split at h
    · rename_i e
      rw [e, h]
      exact List.mem_cons_self
    · exact List.mem_cons_of_mem _ (ih h)

/-- A read of a mapped table, for a map that keeps the default. -/
theorem Table.get_mapListed {α : Type} [DecidableEq α] (d : α) (f : Nat → α → α) (t : List (Nat × α)) (x : Nat)
    (s : t.Pairwise fun p q => p.1 < q.1) (h : f x d = d) :
    Table.get d (Table.mapListed d f t) x = f x (Table.get d t x) := by
  induction t with
  | nil => exact h.symm
  | cons p rest ih =>
    obtain ⟨k, w⟩ := p
    rw [List.pairwise_cons] at s
    simp only [Table.mapListed]
    by_cases e : x = k
    · subst e
      have g : Table.get d ((x, w) :: rest) x = w := by simp [Table.get]
      rw [g]
      split
      · rename_i z
        rw [z]
        refine Table.get_below d _ x fun q m => ?_
        obtain ⟨r, hr, e, _⟩ := Table.mem_mapListed d f rest q m
        rw [e]
        exact s.1 r hr
      · simp [Table.get]
    · have g : Table.get d ((k, w) :: rest) x = Table.get d rest x := by
        simp only [Table.get]
        rw [if_neg (by omega)]
      rw [g]
      split
      · exact ih s.2
      · simp only [Table.get]
        rw [if_neg (by omega)]
        exact ih s.2

/-! ### The tag DRAM -/

/-- The empty tag DRAM is in canonical form. -/
theorem Memory.wf_nil : Memory.wf [] := by simp [Memory.wf, Table.wf]

theorem Memory.wf_write (m : List Host.Cell) (a : Nat) (b : Byte) (h : Memory.wf m) :
    Memory.wf (Memory.write m a b) := Table.wf_set _ m a b h

theorem Memory.wf_writeBytes (bs : List Byte) (m : List Host.Cell) (a : Nat) (h : Memory.wf m) :
    Memory.wf (Memory.writeBytes m a bs) := by
  induction bs generalizing m a with
  | nil => exact h
  | cons b bs ih => exact ih _ _ (Memory.wf_write m a b h)

theorem Memory.wf_writeImage (m : List Host.Cell) (i : Nat) (img : Image) (h : Memory.wf m) :
    Memory.wf (Memory.writeImage m i img) := Memory.wf_writeBytes _ m _ h

/-- One byte after one byte was written. -/
theorem Memory.read_write (m : List Host.Cell) (a x : Nat) (b : Byte) (h : Memory.wf m) :
    Memory.read (Memory.write m a b) x = if x = a then b else Memory.read m x :=
  Table.get_set _ m a x b h.1

/-- A byte outside the written run reads as before. -/
theorem Memory.read_writeBytes_outside (bs : List Byte) (m : List Host.Cell) (a x : Nat) (h : Memory.wf m)
    (o : x < a ∨ a + bs.length ≤ x) : Memory.read (Memory.writeBytes m a bs) x = Memory.read m x := by
  induction bs generalizing m a with
  | nil => rfl
  | cons b bs ih =>
    simp only [List.length_cons] at o
    rw [Memory.writeBytes, ih _ _ (Memory.wf_write m a b h) (by omega), Memory.read_write m a x b h,
      if_neg (by omega)]

/-- A byte of the written run reads as written. -/
theorem Memory.read_writeBytes_inside (bs : List Byte) (m : List Host.Cell) (a k : Nat) (h : Memory.wf m)
    (hk : k < bs.length) : Memory.read (Memory.writeBytes m a bs) (a + k) = bs[k] := by
  induction bs generalizing m a k with
  | nil => simp at hk
  | cons b bs ih =>
    have w := Memory.wf_write m a b h
    cases k with
    | zero =>
      rw [Memory.writeBytes, Memory.read_writeBytes_outside bs _ _ _ w (by omega),
        Memory.read_write m a _ b h, if_pos (Nat.add_zero a)]
      rfl
    | succ k =>
      simp only [List.length_cons] at hk
      have := ih (Memory.write m a b) (a + 1) k w (by omega)
      rw [Memory.writeBytes, show a + (k + 1) = a + 1 + k by omega, this]
      rfl

/-- A byte outside a written record reads as before. -/
theorem Memory.read_writeImage_outside (m : List Host.Cell) (i x : Nat) (img : Image) (h : Memory.wf m)
    (o : x < recordBase i ∨ recordBase i + 16 ≤ x) :
    Memory.read (Memory.writeImage m i img) x = Memory.read m x :=
  Memory.read_writeBytes_outside _ m _ x h (by simpa using o)

/-- A byte of a written record reads as written. -/
theorem Memory.read_writeImage_inside (m : List Host.Cell) (i k : Nat) (img : Image) (h : Memory.wf m)
    (hk : k < 16) : Memory.read (Memory.writeImage m i img) (recordBase i + k) = img[k] := by
  have := Memory.read_writeBytes_inside img.toList m (recordBase i) k h (by simpa using hk)
  simpa [Memory.writeImage] using this

/-- Another record than the one written reads as before. -/
theorem Memory.readImage_writeImage_ne (m : List Host.Cell) (i j : Nat) (img : Image) (h : Memory.wf m)
    (ne : j ≠ i) : Memory.readImage (Memory.writeImage m i img) j = Memory.readImage m j := by
  have o (k : Nat) (hk : k < 16) : Memory.read (Memory.writeImage m i img) (recordBase j + k) =
      Memory.read m (recordBase j + k) := by
    apply Memory.read_writeImage_outside m i _ img h
    have : Config.recordBytes = 16 := rfl
    simp only [recordBase, this]
    omega
  unfold Memory.readImage
  dsimp only
  have z := o 0 (by omega)
  rw [Nat.add_zero] at z
  rw [z, o 1 (by omega), o 2 (by omega), o 3 (by omega), o 4 (by omega), o 5 (by omega), o 6 (by omega),
    o 7 (by omega), o 8 (by omega), o 9 (by omega), o 10 (by omega), o 11 (by omega), o 12 (by omega),
    o 13 (by omega), o 14 (by omega), o 15 (by omega)]

/-- The record written reads as written. -/
theorem Memory.readImage_writeImage (m : List Host.Cell) (i : Nat) (img : Image) (h : Memory.wf m) :
    Memory.readImage (Memory.writeImage m i img) i = img := by
  have o (k : Nat) (hk : k < 16) : Memory.read (Memory.writeImage m i img) (recordBase i + k) = img[k] :=
    Memory.read_writeImage_inside m i k img h hk
  unfold Memory.readImage
  dsimp only
  have z := o 0 (by omega)
  rw [Nat.add_zero] at z
  rw [z, o 1 (by omega), o 2 (by omega), o 3 (by omega), o 4 (by omega), o 5 (by omega), o 6 (by omega),
    o 7 (by omega), o 8 (by omega), o 9 (by omega), o 10 (by omega), o 11 (by omega), o 12 (by omega),
    o 13 (by omega), o 14 (by omega), o 15 (by omega)]
  ext k hk
  interval_cases k <;> rfl

/-- The tag DRAM after power-on is in canonical form. -/
theorem reset_memory_ok : Memory.wf State.reset.dram := Memory.wf_nil

end Sys2Proof.Machine
end

