-- ==== Sys2Proof/Laws/State.lean ====
section
/-! SUPPORT. One lemma for each field of State under each named update, and what reading back a written link or
channel gives. -/

namespace Sys2Proof.Machine

variable (s : State)

/-! ### setLink -/

@[simp] theorem State.setLink_mode (l : LinkId) (k : Link) : (s.setLink l k).mode = s.mode := rfl
@[simp] theorem State.setLink_leadLink (l : LinkId) (k : Link) : (s.setLink l k).leadLink = s.leadLink := rfl
@[simp] theorem State.setLink_timeBase (l : LinkId) (k : Link) : (s.setLink l k).timeBase = s.timeBase := rfl
@[simp] theorem State.setLink_errorThreshold (l : LinkId) (k : Link) : (s.setLink l k).errorThreshold = s.errorThreshold := rfl
@[simp] theorem State.setLink_shadow (l : LinkId) (k : Link) : (s.setLink l k).shadow = s.shadow := rfl
@[simp] theorem State.setLink_active (l : LinkId) (k : Link) : (s.setLink l k).active = s.active := rfl
@[simp] theorem State.setLink_watchReport (l : LinkId) (k : Link) : (s.setLink l k).watchReport = s.watchReport := rfl
@[simp] theorem State.setLink_epoch (l : LinkId) (k : Link) : (s.setLink l k).epoch = s.epoch := rfl
@[simp] theorem State.setLink_phase (l : LinkId) (k : Link) : (s.setLink l k).phase = s.phase := rfl
@[simp] theorem State.setLink_flushSet (l : LinkId) (k : Link) : (s.setLink l k).flushSet = s.flushSet := rfl
@[simp] theorem State.setLink_dram (l : LinkId) (k : Link) : (s.setLink l k).dram = s.dram := rfl
@[simp] theorem State.setLink_store (l : LinkId) (k : Link) : (s.setLink l k).store = s.store := rfl
@[simp] theorem State.setLink_openChecks (l : LinkId) (k : Link) : (s.setLink l k).openChecks = s.openChecks := rfl
@[simp] theorem State.setLink_oldEpochCount (l : LinkId) (k : Link) : (s.setLink l k).oldEpochCount = s.oldEpochCount := rfl
@[simp] theorem State.setLink_directory (l : LinkId) (k : Link) : (s.setLink l k).directory = s.directory := rfl
@[simp] theorem State.setLink_directoryMisses (l : LinkId) (k : Link) : (s.setLink l k).directoryMisses = s.directoryMisses := rfl
@[simp] theorem State.setLink_fence (l : LinkId) (k : Link) : (s.setLink l k).fence = s.fence := rfl
@[simp] theorem State.setLink_revokeTimeout (l : LinkId) (k : Link) : (s.setLink l k).revokeTimeout = s.revokeTimeout := rfl
@[simp] theorem State.setLink_directQueue (l : LinkId) (k : Link) : (s.setLink l k).directQueue = s.directQueue := rfl
@[simp] theorem State.setLink_sourcePtr (l : LinkId) (k : Link) : (s.setLink l k).sourcePtr = s.sourcePtr := rfl
@[simp] theorem State.setLink_domains (l : LinkId) (k : Link) : (s.setLink l k).domains = s.domains := rfl
@[simp] theorem State.setLink_retire (l : LinkId) (k : Link) : (s.setLink l k).retire = s.retire := rfl
@[simp] theorem State.setLink_chains (l : LinkId) (k : Link) : (s.setLink l k).chains = s.chains := rfl
@[simp] theorem State.setLink_memoryTimeout (l : LinkId) (k : Link) : (s.setLink l k).memoryTimeout = s.memoryTimeout := rfl
@[simp] theorem State.setLink_sweep (l : LinkId) (k : Link) : (s.setLink l k).sweep = s.sweep := rfl
@[simp] theorem State.setLink_reports (l : LinkId) (k : Link) : (s.setLink l k).reports = s.reports := rfl
@[simp] theorem State.setLink_pending (l : LinkId) (k : Link) : (s.setLink l k).pending = s.pending := rfl

/-! ### updLink -/

@[simp] theorem State.updLink_mode (l : LinkId) (f : Link → Link) : (s.updLink l f).mode = s.mode := rfl
@[simp] theorem State.updLink_leadLink (l : LinkId) (f : Link → Link) : (s.updLink l f).leadLink = s.leadLink := rfl
@[simp] theorem State.updLink_timeBase (l : LinkId) (f : Link → Link) : (s.updLink l f).timeBase = s.timeBase := rfl
@[simp] theorem State.updLink_errorThreshold (l : LinkId) (f : Link → Link) : (s.updLink l f).errorThreshold = s.errorThreshold := rfl
@[simp] theorem State.updLink_shadow (l : LinkId) (f : Link → Link) : (s.updLink l f).shadow = s.shadow := rfl
@[simp] theorem State.updLink_active (l : LinkId) (f : Link → Link) : (s.updLink l f).active = s.active := rfl
@[simp] theorem State.updLink_watchReport (l : LinkId) (f : Link → Link) : (s.updLink l f).watchReport = s.watchReport := rfl
@[simp] theorem State.updLink_epoch (l : LinkId) (f : Link → Link) : (s.updLink l f).epoch = s.epoch := rfl
@[simp] theorem State.updLink_phase (l : LinkId) (f : Link → Link) : (s.updLink l f).phase = s.phase := rfl
@[simp] theorem State.updLink_flushSet (l : LinkId) (f : Link → Link) : (s.updLink l f).flushSet = s.flushSet := rfl
@[simp] theorem State.updLink_dram (l : LinkId) (f : Link → Link) : (s.updLink l f).dram = s.dram := rfl
@[simp] theorem State.updLink_store (l : LinkId) (f : Link → Link) : (s.updLink l f).store = s.store := rfl
@[simp] theorem State.updLink_openChecks (l : LinkId) (f : Link → Link) : (s.updLink l f).openChecks = s.openChecks := rfl
@[simp] theorem State.updLink_oldEpochCount (l : LinkId) (f : Link → Link) : (s.updLink l f).oldEpochCount = s.oldEpochCount := rfl
@[simp] theorem State.updLink_directory (l : LinkId) (f : Link → Link) : (s.updLink l f).directory = s.directory := rfl
@[simp] theorem State.updLink_directoryMisses (l : LinkId) (f : Link → Link) : (s.updLink l f).directoryMisses = s.directoryMisses := rfl
@[simp] theorem State.updLink_fence (l : LinkId) (f : Link → Link) : (s.updLink l f).fence = s.fence := rfl
@[simp] theorem State.updLink_revokeTimeout (l : LinkId) (f : Link → Link) : (s.updLink l f).revokeTimeout = s.revokeTimeout := rfl
@[simp] theorem State.updLink_directQueue (l : LinkId) (f : Link → Link) : (s.updLink l f).directQueue = s.directQueue := rfl
@[simp] theorem State.updLink_sourcePtr (l : LinkId) (f : Link → Link) : (s.updLink l f).sourcePtr = s.sourcePtr := rfl
@[simp] theorem State.updLink_domains (l : LinkId) (f : Link → Link) : (s.updLink l f).domains = s.domains := rfl
@[simp] theorem State.updLink_retire (l : LinkId) (f : Link → Link) : (s.updLink l f).retire = s.retire := rfl
@[simp] theorem State.updLink_chains (l : LinkId) (f : Link → Link) : (s.updLink l f).chains = s.chains := rfl
@[simp] theorem State.updLink_memoryTimeout (l : LinkId) (f : Link → Link) : (s.updLink l f).memoryTimeout = s.memoryTimeout := rfl
@[simp] theorem State.updLink_sweep (l : LinkId) (f : Link → Link) : (s.updLink l f).sweep = s.sweep := rfl
@[simp] theorem State.updLink_reports (l : LinkId) (f : Link → Link) : (s.updLink l f).reports = s.reports := rfl
@[simp] theorem State.updLink_pending (l : LinkId) (f : Link → Link) : (s.updLink l f).pending = s.pending := rfl

/-! ### updChan -/

@[simp] theorem State.updChan_mode (c : ChannelId) (f : Channel → Channel) : (s.updChan c f).mode = s.mode := rfl
@[simp] theorem State.updChan_leadLink (c : ChannelId) (f : Channel → Channel) : (s.updChan c f).leadLink = s.leadLink := rfl
@[simp] theorem State.updChan_timeBase (c : ChannelId) (f : Channel → Channel) : (s.updChan c f).timeBase = s.timeBase := rfl
@[simp] theorem State.updChan_links (c : ChannelId) (f : Channel → Channel) : (s.updChan c f).links = s.links := rfl
@[simp] theorem State.updChan_errorThreshold (c : ChannelId) (f : Channel → Channel) : (s.updChan c f).errorThreshold = s.errorThreshold := rfl
@[simp] theorem State.updChan_shadow (c : ChannelId) (f : Channel → Channel) : (s.updChan c f).shadow = s.shadow := rfl
@[simp] theorem State.updChan_active (c : ChannelId) (f : Channel → Channel) : (s.updChan c f).active = s.active := rfl
@[simp] theorem State.updChan_watchReport (c : ChannelId) (f : Channel → Channel) : (s.updChan c f).watchReport = s.watchReport := rfl
@[simp] theorem State.updChan_epoch (c : ChannelId) (f : Channel → Channel) : (s.updChan c f).epoch = s.epoch := rfl
@[simp] theorem State.updChan_phase (c : ChannelId) (f : Channel → Channel) : (s.updChan c f).phase = s.phase := rfl
@[simp] theorem State.updChan_flushSet (c : ChannelId) (f : Channel → Channel) : (s.updChan c f).flushSet = s.flushSet := rfl
@[simp] theorem State.updChan_dram (c : ChannelId) (f : Channel → Channel) : (s.updChan c f).dram = s.dram := rfl
@[simp] theorem State.updChan_store (c : ChannelId) (f : Channel → Channel) : (s.updChan c f).store = s.store := rfl
@[simp] theorem State.updChan_openChecks (c : ChannelId) (f : Channel → Channel) : (s.updChan c f).openChecks = s.openChecks := rfl
@[simp] theorem State.updChan_oldEpochCount (c : ChannelId) (f : Channel → Channel) : (s.updChan c f).oldEpochCount = s.oldEpochCount := rfl
@[simp] theorem State.updChan_directory (c : ChannelId) (f : Channel → Channel) : (s.updChan c f).directory = s.directory := rfl
@[simp] theorem State.updChan_directoryMisses (c : ChannelId) (f : Channel → Channel) : (s.updChan c f).directoryMisses = s.directoryMisses := rfl
@[simp] theorem State.updChan_fence (c : ChannelId) (f : Channel → Channel) : (s.updChan c f).fence = s.fence := rfl
@[simp] theorem State.updChan_revokeTimeout (c : ChannelId) (f : Channel → Channel) : (s.updChan c f).revokeTimeout = s.revokeTimeout := rfl
@[simp] theorem State.updChan_directQueue (c : ChannelId) (f : Channel → Channel) : (s.updChan c f).directQueue = s.directQueue := rfl
@[simp] theorem State.updChan_sourcePtr (c : ChannelId) (f : Channel → Channel) : (s.updChan c f).sourcePtr = s.sourcePtr := rfl
@[simp] theorem State.updChan_domains (c : ChannelId) (f : Channel → Channel) : (s.updChan c f).domains = s.domains := rfl
@[simp] theorem State.updChan_retire (c : ChannelId) (f : Channel → Channel) : (s.updChan c f).retire = s.retire := rfl
@[simp] theorem State.updChan_memoryTimeout (c : ChannelId) (f : Channel → Channel) : (s.updChan c f).memoryTimeout = s.memoryTimeout := rfl
@[simp] theorem State.updChan_sweep (c : ChannelId) (f : Channel → Channel) : (s.updChan c f).sweep = s.sweep := rfl
@[simp] theorem State.updChan_reports (c : ChannelId) (f : Channel → Channel) : (s.updChan c f).reports = s.reports := rfl
@[simp] theorem State.updChan_pending (c : ChannelId) (f : Channel → Channel) : (s.updChan c f).pending = s.pending := rfl

/-! ### hand -/

@[simp] theorem State.hand_mode (l : LinkId) (m : OutMsg) : (s.hand l m).mode = s.mode := rfl
@[simp] theorem State.hand_leadLink (l : LinkId) (m : OutMsg) : (s.hand l m).leadLink = s.leadLink := rfl
@[simp] theorem State.hand_timeBase (l : LinkId) (m : OutMsg) : (s.hand l m).timeBase = s.timeBase := rfl
@[simp] theorem State.hand_errorThreshold (l : LinkId) (m : OutMsg) : (s.hand l m).errorThreshold = s.errorThreshold := rfl
@[simp] theorem State.hand_shadow (l : LinkId) (m : OutMsg) : (s.hand l m).shadow = s.shadow := rfl
@[simp] theorem State.hand_active (l : LinkId) (m : OutMsg) : (s.hand l m).active = s.active := rfl
@[simp] theorem State.hand_watchReport (l : LinkId) (m : OutMsg) : (s.hand l m).watchReport = s.watchReport := rfl
@[simp] theorem State.hand_epoch (l : LinkId) (m : OutMsg) : (s.hand l m).epoch = s.epoch := rfl
@[simp] theorem State.hand_phase (l : LinkId) (m : OutMsg) : (s.hand l m).phase = s.phase := rfl
@[simp] theorem State.hand_flushSet (l : LinkId) (m : OutMsg) : (s.hand l m).flushSet = s.flushSet := rfl
@[simp] theorem State.hand_dram (l : LinkId) (m : OutMsg) : (s.hand l m).dram = s.dram := rfl
@[simp] theorem State.hand_store (l : LinkId) (m : OutMsg) : (s.hand l m).store = s.store := rfl
@[simp] theorem State.hand_openChecks (l : LinkId) (m : OutMsg) : (s.hand l m).openChecks = s.openChecks := rfl
@[simp] theorem State.hand_oldEpochCount (l : LinkId) (m : OutMsg) : (s.hand l m).oldEpochCount = s.oldEpochCount := rfl
@[simp] theorem State.hand_directory (l : LinkId) (m : OutMsg) : (s.hand l m).directory = s.directory := rfl
@[simp] theorem State.hand_directoryMisses (l : LinkId) (m : OutMsg) : (s.hand l m).directoryMisses = s.directoryMisses := rfl
@[simp] theorem State.hand_fence (l : LinkId) (m : OutMsg) : (s.hand l m).fence = s.fence := rfl
@[simp] theorem State.hand_revokeTimeout (l : LinkId) (m : OutMsg) : (s.hand l m).revokeTimeout = s.revokeTimeout := rfl
@[simp] theorem State.hand_directQueue (l : LinkId) (m : OutMsg) : (s.hand l m).directQueue = s.directQueue := rfl
@[simp] theorem State.hand_sourcePtr (l : LinkId) (m : OutMsg) : (s.hand l m).sourcePtr = s.sourcePtr := rfl
@[simp] theorem State.hand_domains (l : LinkId) (m : OutMsg) : (s.hand l m).domains = s.domains := rfl
@[simp] theorem State.hand_retire (l : LinkId) (m : OutMsg) : (s.hand l m).retire = s.retire := rfl
@[simp] theorem State.hand_chains (l : LinkId) (m : OutMsg) : (s.hand l m).chains = s.chains := rfl
@[simp] theorem State.hand_memoryTimeout (l : LinkId) (m : OutMsg) : (s.hand l m).memoryTimeout = s.memoryTimeout := rfl
@[simp] theorem State.hand_sweep (l : LinkId) (m : OutMsg) : (s.hand l m).sweep = s.sweep := rfl
@[simp] theorem State.hand_reports (l : LinkId) (m : OutMsg) : (s.hand l m).reports = s.reports := rfl
@[simp] theorem State.hand_pending (l : LinkId) (m : OutMsg) : (s.hand l m).pending = s.pending := rfl

/-! ### setWay -/

@[simp] theorem State.setWay_mode (w : Nat) (e : Option DirEntry) : (s.setWay w e).mode = s.mode := rfl
@[simp] theorem State.setWay_leadLink (w : Nat) (e : Option DirEntry) : (s.setWay w e).leadLink = s.leadLink := rfl
@[simp] theorem State.setWay_timeBase (w : Nat) (e : Option DirEntry) : (s.setWay w e).timeBase = s.timeBase := rfl
@[simp] theorem State.setWay_links (w : Nat) (e : Option DirEntry) : (s.setWay w e).links = s.links := rfl
@[simp] theorem State.setWay_errorThreshold (w : Nat) (e : Option DirEntry) : (s.setWay w e).errorThreshold = s.errorThreshold := rfl
@[simp] theorem State.setWay_shadow (w : Nat) (e : Option DirEntry) : (s.setWay w e).shadow = s.shadow := rfl
@[simp] theorem State.setWay_active (w : Nat) (e : Option DirEntry) : (s.setWay w e).active = s.active := rfl
@[simp] theorem State.setWay_watchReport (w : Nat) (e : Option DirEntry) : (s.setWay w e).watchReport = s.watchReport := rfl
@[simp] theorem State.setWay_epoch (w : Nat) (e : Option DirEntry) : (s.setWay w e).epoch = s.epoch := rfl
@[simp] theorem State.setWay_phase (w : Nat) (e : Option DirEntry) : (s.setWay w e).phase = s.phase := rfl
@[simp] theorem State.setWay_flushSet (w : Nat) (e : Option DirEntry) : (s.setWay w e).flushSet = s.flushSet := rfl
@[simp] theorem State.setWay_dram (w : Nat) (e : Option DirEntry) : (s.setWay w e).dram = s.dram := rfl
@[simp] theorem State.setWay_store (w : Nat) (e : Option DirEntry) : (s.setWay w e).store = s.store := rfl
@[simp] theorem State.setWay_openChecks (w : Nat) (e : Option DirEntry) : (s.setWay w e).openChecks = s.openChecks := rfl
@[simp] theorem State.setWay_oldEpochCount (w : Nat) (e : Option DirEntry) : (s.setWay w e).oldEpochCount = s.oldEpochCount := rfl
@[simp] theorem State.setWay_directoryMisses (w : Nat) (e : Option DirEntry) : (s.setWay w e).directoryMisses = s.directoryMisses := rfl
@[simp] theorem State.setWay_fence (w : Nat) (e : Option DirEntry) : (s.setWay w e).fence = s.fence := rfl
@[simp] theorem State.setWay_revokeTimeout (w : Nat) (e : Option DirEntry) : (s.setWay w e).revokeTimeout = s.revokeTimeout := rfl
@[simp] theorem State.setWay_directQueue (w : Nat) (e : Option DirEntry) : (s.setWay w e).directQueue = s.directQueue := rfl
@[simp] theorem State.setWay_sourcePtr (w : Nat) (e : Option DirEntry) : (s.setWay w e).sourcePtr = s.sourcePtr := rfl
@[simp] theorem State.setWay_domains (w : Nat) (e : Option DirEntry) : (s.setWay w e).domains = s.domains := rfl
@[simp] theorem State.setWay_retire (w : Nat) (e : Option DirEntry) : (s.setWay w e).retire = s.retire := rfl
@[simp] theorem State.setWay_chains (w : Nat) (e : Option DirEntry) : (s.setWay w e).chains = s.chains := rfl
@[simp] theorem State.setWay_memoryTimeout (w : Nat) (e : Option DirEntry) : (s.setWay w e).memoryTimeout = s.memoryTimeout := rfl
@[simp] theorem State.setWay_sweep (w : Nat) (e : Option DirEntry) : (s.setWay w e).sweep = s.sweep := rfl
@[simp] theorem State.setWay_reports (w : Nat) (e : Option DirEntry) : (s.setWay w e).reports = s.reports := rfl
@[simp] theorem State.setWay_pending (w : Nat) (e : Option DirEntry) : (s.setWay w e).pending = s.pending := rfl

/-! ### updFence -/

@[simp] theorem State.updFence_mode (g : Nat) (f : FenceEntry → FenceEntry) : (s.updFence g f).mode = s.mode := rfl
@[simp] theorem State.updFence_leadLink (g : Nat) (f : FenceEntry → FenceEntry) : (s.updFence g f).leadLink = s.leadLink := rfl
@[simp] theorem State.updFence_timeBase (g : Nat) (f : FenceEntry → FenceEntry) : (s.updFence g f).timeBase = s.timeBase := rfl
@[simp] theorem State.updFence_links (g : Nat) (f : FenceEntry → FenceEntry) : (s.updFence g f).links = s.links := rfl
@[simp] theorem State.updFence_errorThreshold (g : Nat) (f : FenceEntry → FenceEntry) : (s.updFence g f).errorThreshold = s.errorThreshold := rfl
@[simp] theorem State.updFence_shadow (g : Nat) (f : FenceEntry → FenceEntry) : (s.updFence g f).shadow = s.shadow := rfl
@[simp] theorem State.updFence_active (g : Nat) (f : FenceEntry → FenceEntry) : (s.updFence g f).active = s.active := rfl
@[simp] theorem State.updFence_watchReport (g : Nat) (f : FenceEntry → FenceEntry) : (s.updFence g f).watchReport = s.watchReport := rfl
@[simp] theorem State.updFence_epoch (g : Nat) (f : FenceEntry → FenceEntry) : (s.updFence g f).epoch = s.epoch := rfl
@[simp] theorem State.updFence_phase (g : Nat) (f : FenceEntry → FenceEntry) : (s.updFence g f).phase = s.phase := rfl
@[simp] theorem State.updFence_flushSet (g : Nat) (f : FenceEntry → FenceEntry) : (s.updFence g f).flushSet = s.flushSet := rfl
@[simp] theorem State.updFence_dram (g : Nat) (f : FenceEntry → FenceEntry) : (s.updFence g f).dram = s.dram := rfl
@[simp] theorem State.updFence_store (g : Nat) (f : FenceEntry → FenceEntry) : (s.updFence g f).store = s.store := rfl
@[simp] theorem State.updFence_openChecks (g : Nat) (f : FenceEntry → FenceEntry) : (s.updFence g f).openChecks = s.openChecks := rfl
@[simp] theorem State.updFence_oldEpochCount (g : Nat) (f : FenceEntry → FenceEntry) : (s.updFence g f).oldEpochCount = s.oldEpochCount := rfl
@[simp] theorem State.updFence_directory (g : Nat) (f : FenceEntry → FenceEntry) : (s.updFence g f).directory = s.directory := rfl
@[simp] theorem State.updFence_directoryMisses (g : Nat) (f : FenceEntry → FenceEntry) : (s.updFence g f).directoryMisses = s.directoryMisses := rfl
@[simp] theorem State.updFence_revokeTimeout (g : Nat) (f : FenceEntry → FenceEntry) : (s.updFence g f).revokeTimeout = s.revokeTimeout := rfl
@[simp] theorem State.updFence_directQueue (g : Nat) (f : FenceEntry → FenceEntry) : (s.updFence g f).directQueue = s.directQueue := rfl
@[simp] theorem State.updFence_sourcePtr (g : Nat) (f : FenceEntry → FenceEntry) : (s.updFence g f).sourcePtr = s.sourcePtr := rfl
@[simp] theorem State.updFence_domains (g : Nat) (f : FenceEntry → FenceEntry) : (s.updFence g f).domains = s.domains := rfl
@[simp] theorem State.updFence_retire (g : Nat) (f : FenceEntry → FenceEntry) : (s.updFence g f).retire = s.retire := rfl
@[simp] theorem State.updFence_chains (g : Nat) (f : FenceEntry → FenceEntry) : (s.updFence g f).chains = s.chains := rfl
@[simp] theorem State.updFence_memoryTimeout (g : Nat) (f : FenceEntry → FenceEntry) : (s.updFence g f).memoryTimeout = s.memoryTimeout := rfl
@[simp] theorem State.updFence_sweep (g : Nat) (f : FenceEntry → FenceEntry) : (s.updFence g f).sweep = s.sweep := rfl
@[simp] theorem State.updFence_reports (g : Nat) (f : FenceEntry → FenceEntry) : (s.updFence g f).reports = s.reports := rfl
@[simp] theorem State.updFence_pending (g : Nat) (f : FenceEntry → FenceEntry) : (s.updFence g f).pending = s.pending := rfl

/-! ### writeRecord -/

@[simp] theorem State.writeRecord_mode (i : Nat) (r : TagRecord) : (s.writeRecord i r).mode = s.mode := by simp only [State.writeRecord]
@[simp] theorem State.writeRecord_leadLink (i : Nat) (r : TagRecord) : (s.writeRecord i r).leadLink = s.leadLink := by simp only [State.writeRecord]
@[simp] theorem State.writeRecord_timeBase (i : Nat) (r : TagRecord) : (s.writeRecord i r).timeBase = s.timeBase := by simp only [State.writeRecord]
@[simp] theorem State.writeRecord_links (i : Nat) (r : TagRecord) : (s.writeRecord i r).links = s.links := by simp only [State.writeRecord]
@[simp] theorem State.writeRecord_errorThreshold (i : Nat) (r : TagRecord) : (s.writeRecord i r).errorThreshold = s.errorThreshold := by simp only [State.writeRecord]
@[simp] theorem State.writeRecord_shadow (i : Nat) (r : TagRecord) : (s.writeRecord i r).shadow = s.shadow := by simp only [State.writeRecord]
@[simp] theorem State.writeRecord_active (i : Nat) (r : TagRecord) : (s.writeRecord i r).active = s.active := by simp only [State.writeRecord]
@[simp] theorem State.writeRecord_watchReport (i : Nat) (r : TagRecord) : (s.writeRecord i r).watchReport = s.watchReport := by simp only [State.writeRecord]
@[simp] theorem State.writeRecord_epoch (i : Nat) (r : TagRecord) : (s.writeRecord i r).epoch = s.epoch := by simp only [State.writeRecord]
@[simp] theorem State.writeRecord_phase (i : Nat) (r : TagRecord) : (s.writeRecord i r).phase = s.phase := by simp only [State.writeRecord]
@[simp] theorem State.writeRecord_flushSet (i : Nat) (r : TagRecord) : (s.writeRecord i r).flushSet = s.flushSet := by simp only [State.writeRecord]
@[simp] theorem State.writeRecord_store (i : Nat) (r : TagRecord) : (s.writeRecord i r).store = s.store := by simp only [State.writeRecord]
@[simp] theorem State.writeRecord_openChecks (i : Nat) (r : TagRecord) : (s.writeRecord i r).openChecks = s.openChecks := by simp only [State.writeRecord]
@[simp] theorem State.writeRecord_oldEpochCount (i : Nat) (r : TagRecord) : (s.writeRecord i r).oldEpochCount = s.oldEpochCount := by simp only [State.writeRecord]
@[simp] theorem State.writeRecord_directory (i : Nat) (r : TagRecord) : (s.writeRecord i r).directory = s.directory := by simp only [State.writeRecord]
@[simp] theorem State.writeRecord_directoryMisses (i : Nat) (r : TagRecord) : (s.writeRecord i r).directoryMisses = s.directoryMisses := by simp only [State.writeRecord]
@[simp] theorem State.writeRecord_fence (i : Nat) (r : TagRecord) : (s.writeRecord i r).fence = s.fence := by simp only [State.writeRecord]
@[simp] theorem State.writeRecord_revokeTimeout (i : Nat) (r : TagRecord) : (s.writeRecord i r).revokeTimeout = s.revokeTimeout := by simp only [State.writeRecord]
@[simp] theorem State.writeRecord_directQueue (i : Nat) (r : TagRecord) : (s.writeRecord i r).directQueue = s.directQueue := by simp only [State.writeRecord]
@[simp] theorem State.writeRecord_sourcePtr (i : Nat) (r : TagRecord) : (s.writeRecord i r).sourcePtr = s.sourcePtr := by simp only [State.writeRecord]
@[simp] theorem State.writeRecord_domains (i : Nat) (r : TagRecord) : (s.writeRecord i r).domains = s.domains := by simp only [State.writeRecord]
@[simp] theorem State.writeRecord_retire (i : Nat) (r : TagRecord) : (s.writeRecord i r).retire = s.retire := by simp only [State.writeRecord]
@[simp] theorem State.writeRecord_chains (i : Nat) (r : TagRecord) : (s.writeRecord i r).chains = s.chains := by simp only [State.writeRecord]
@[simp] theorem State.writeRecord_memoryTimeout (i : Nat) (r : TagRecord) : (s.writeRecord i r).memoryTimeout = s.memoryTimeout := by simp only [State.writeRecord]
@[simp] theorem State.writeRecord_sweep (i : Nat) (r : TagRecord) : (s.writeRecord i r).sweep = s.sweep := by simp only [State.writeRecord]
@[simp] theorem State.writeRecord_reports (i : Nat) (r : TagRecord) : (s.writeRecord i r).reports = s.reports := by simp only [State.writeRecord]
@[simp] theorem State.writeRecord_pending (i : Nat) (r : TagRecord) : (s.writeRecord i r).pending = s.pending := by simp only [State.writeRecord]

/-! ### placeCommand -/

@[simp] theorem State.placeCommand_mode (g : Nat) (a : StepAccess) : (s.placeCommand g a).mode = s.mode := rfl
@[simp] theorem State.placeCommand_leadLink (g : Nat) (a : StepAccess) : (s.placeCommand g a).leadLink = s.leadLink := rfl
@[simp] theorem State.placeCommand_timeBase (g : Nat) (a : StepAccess) : (s.placeCommand g a).timeBase = s.timeBase := rfl
@[simp] theorem State.placeCommand_links (g : Nat) (a : StepAccess) : (s.placeCommand g a).links = s.links := rfl
@[simp] theorem State.placeCommand_errorThreshold (g : Nat) (a : StepAccess) : (s.placeCommand g a).errorThreshold = s.errorThreshold := rfl
@[simp] theorem State.placeCommand_shadow (g : Nat) (a : StepAccess) : (s.placeCommand g a).shadow = s.shadow := rfl
@[simp] theorem State.placeCommand_active (g : Nat) (a : StepAccess) : (s.placeCommand g a).active = s.active := rfl
@[simp] theorem State.placeCommand_watchReport (g : Nat) (a : StepAccess) : (s.placeCommand g a).watchReport = s.watchReport := rfl
@[simp] theorem State.placeCommand_epoch (g : Nat) (a : StepAccess) : (s.placeCommand g a).epoch = s.epoch := rfl
@[simp] theorem State.placeCommand_phase (g : Nat) (a : StepAccess) : (s.placeCommand g a).phase = s.phase := rfl
@[simp] theorem State.placeCommand_flushSet (g : Nat) (a : StepAccess) : (s.placeCommand g a).flushSet = s.flushSet := rfl
@[simp] theorem State.placeCommand_dram (g : Nat) (a : StepAccess) : (s.placeCommand g a).dram = s.dram := rfl
@[simp] theorem State.placeCommand_openChecks (g : Nat) (a : StepAccess) : (s.placeCommand g a).openChecks = s.openChecks := rfl
@[simp] theorem State.placeCommand_oldEpochCount (g : Nat) (a : StepAccess) : (s.placeCommand g a).oldEpochCount = s.oldEpochCount := rfl
@[simp] theorem State.placeCommand_directory (g : Nat) (a : StepAccess) : (s.placeCommand g a).directory = s.directory := rfl
@[simp] theorem State.placeCommand_directoryMisses (g : Nat) (a : StepAccess) : (s.placeCommand g a).directoryMisses = s.directoryMisses := rfl
@[simp] theorem State.placeCommand_fence (g : Nat) (a : StepAccess) : (s.placeCommand g a).fence = s.fence := rfl
@[simp] theorem State.placeCommand_revokeTimeout (g : Nat) (a : StepAccess) : (s.placeCommand g a).revokeTimeout = s.revokeTimeout := rfl
@[simp] theorem State.placeCommand_directQueue (g : Nat) (a : StepAccess) : (s.placeCommand g a).directQueue = s.directQueue := rfl
@[simp] theorem State.placeCommand_sourcePtr (g : Nat) (a : StepAccess) : (s.placeCommand g a).sourcePtr = s.sourcePtr := rfl
@[simp] theorem State.placeCommand_domains (g : Nat) (a : StepAccess) : (s.placeCommand g a).domains = s.domains := rfl
@[simp] theorem State.placeCommand_retire (g : Nat) (a : StepAccess) : (s.placeCommand g a).retire = s.retire := rfl
@[simp] theorem State.placeCommand_chains (g : Nat) (a : StepAccess) : (s.placeCommand g a).chains = s.chains := rfl
@[simp] theorem State.placeCommand_memoryTimeout (g : Nat) (a : StepAccess) : (s.placeCommand g a).memoryTimeout = s.memoryTimeout := rfl
@[simp] theorem State.placeCommand_sweep (g : Nat) (a : StepAccess) : (s.placeCommand g a).sweep = s.sweep := rfl
@[simp] theorem State.placeCommand_reports (g : Nat) (a : StepAccess) : (s.placeCommand g a).reports = s.reports := rfl
@[simp] theorem State.placeCommand_pending (g : Nat) (a : StepAccess) : (s.placeCommand g a).pending = s.pending := rfl

/-! ### countGrant -/

@[simp] theorem State.countGrant_mode (c : ArbClass) : (s.countGrant c).mode = s.mode := rfl
@[simp] theorem State.countGrant_leadLink (c : ArbClass) : (s.countGrant c).leadLink = s.leadLink := rfl
@[simp] theorem State.countGrant_timeBase (c : ArbClass) : (s.countGrant c).timeBase = s.timeBase := rfl
@[simp] theorem State.countGrant_links (c : ArbClass) : (s.countGrant c).links = s.links := rfl
@[simp] theorem State.countGrant_errorThreshold (c : ArbClass) : (s.countGrant c).errorThreshold = s.errorThreshold := rfl
@[simp] theorem State.countGrant_shadow (c : ArbClass) : (s.countGrant c).shadow = s.shadow := rfl
@[simp] theorem State.countGrant_active (c : ArbClass) : (s.countGrant c).active = s.active := rfl
@[simp] theorem State.countGrant_watchReport (c : ArbClass) : (s.countGrant c).watchReport = s.watchReport := rfl
@[simp] theorem State.countGrant_epoch (c : ArbClass) : (s.countGrant c).epoch = s.epoch := rfl
@[simp] theorem State.countGrant_phase (c : ArbClass) : (s.countGrant c).phase = s.phase := rfl
@[simp] theorem State.countGrant_flushSet (c : ArbClass) : (s.countGrant c).flushSet = s.flushSet := rfl
@[simp] theorem State.countGrant_dram (c : ArbClass) : (s.countGrant c).dram = s.dram := rfl
@[simp] theorem State.countGrant_openChecks (c : ArbClass) : (s.countGrant c).openChecks = s.openChecks := rfl
@[simp] theorem State.countGrant_oldEpochCount (c : ArbClass) : (s.countGrant c).oldEpochCount = s.oldEpochCount := rfl
@[simp] theorem State.countGrant_directory (c : ArbClass) : (s.countGrant c).directory = s.directory := rfl
@[simp] theorem State.countGrant_directoryMisses (c : ArbClass) : (s.countGrant c).directoryMisses = s.directoryMisses := rfl
@[simp] theorem State.countGrant_fence (c : ArbClass) : (s.countGrant c).fence = s.fence := rfl
@[simp] theorem State.countGrant_revokeTimeout (c : ArbClass) : (s.countGrant c).revokeTimeout = s.revokeTimeout := rfl
@[simp] theorem State.countGrant_directQueue (c : ArbClass) : (s.countGrant c).directQueue = s.directQueue := rfl
@[simp] theorem State.countGrant_sourcePtr (c : ArbClass) : (s.countGrant c).sourcePtr = s.sourcePtr := rfl
@[simp] theorem State.countGrant_domains (c : ArbClass) : (s.countGrant c).domains = s.domains := rfl
@[simp] theorem State.countGrant_retire (c : ArbClass) : (s.countGrant c).retire = s.retire := rfl
@[simp] theorem State.countGrant_chains (c : ArbClass) : (s.countGrant c).chains = s.chains := rfl
@[simp] theorem State.countGrant_memoryTimeout (c : ArbClass) : (s.countGrant c).memoryTimeout = s.memoryTimeout := rfl
@[simp] theorem State.countGrant_sweep (c : ArbClass) : (s.countGrant c).sweep = s.sweep := rfl
@[simp] theorem State.countGrant_reports (c : ArbClass) : (s.countGrant c).reports = s.reports := rfl
@[simp] theorem State.countGrant_pending (c : ArbClass) : (s.countGrant c).pending = s.pending := rfl

/-! ### setViolation -/

@[simp] theorem State.setViolation_mode (d : Nat) (v : Violation) : (s.setViolation d v).mode = s.mode := rfl
@[simp] theorem State.setViolation_leadLink (d : Nat) (v : Violation) : (s.setViolation d v).leadLink = s.leadLink := rfl
@[simp] theorem State.setViolation_timeBase (d : Nat) (v : Violation) : (s.setViolation d v).timeBase = s.timeBase := rfl
@[simp] theorem State.setViolation_links (d : Nat) (v : Violation) : (s.setViolation d v).links = s.links := rfl
@[simp] theorem State.setViolation_errorThreshold (d : Nat) (v : Violation) : (s.setViolation d v).errorThreshold = s.errorThreshold := rfl
@[simp] theorem State.setViolation_shadow (d : Nat) (v : Violation) : (s.setViolation d v).shadow = s.shadow := rfl
@[simp] theorem State.setViolation_active (d : Nat) (v : Violation) : (s.setViolation d v).active = s.active := rfl
@[simp] theorem State.setViolation_watchReport (d : Nat) (v : Violation) : (s.setViolation d v).watchReport = s.watchReport := rfl
@[simp] theorem State.setViolation_epoch (d : Nat) (v : Violation) : (s.setViolation d v).epoch = s.epoch := rfl
@[simp] theorem State.setViolation_phase (d : Nat) (v : Violation) : (s.setViolation d v).phase = s.phase := rfl
@[simp] theorem State.setViolation_flushSet (d : Nat) (v : Violation) : (s.setViolation d v).flushSet = s.flushSet := rfl
@[simp] theorem State.setViolation_dram (d : Nat) (v : Violation) : (s.setViolation d v).dram = s.dram := rfl
@[simp] theorem State.setViolation_store (d : Nat) (v : Violation) : (s.setViolation d v).store = s.store := rfl
@[simp] theorem State.setViolation_openChecks (d : Nat) (v : Violation) : (s.setViolation d v).openChecks = s.openChecks := rfl
@[simp] theorem State.setViolation_oldEpochCount (d : Nat) (v : Violation) : (s.setViolation d v).oldEpochCount = s.oldEpochCount := rfl
@[simp] theorem State.setViolation_directory (d : Nat) (v : Violation) : (s.setViolation d v).directory = s.directory := rfl
@[simp] theorem State.setViolation_directoryMisses (d : Nat) (v : Violation) : (s.setViolation d v).directoryMisses = s.directoryMisses := rfl
@[simp] theorem State.setViolation_fence (d : Nat) (v : Violation) : (s.setViolation d v).fence = s.fence := rfl
@[simp] theorem State.setViolation_revokeTimeout (d : Nat) (v : Violation) : (s.setViolation d v).revokeTimeout = s.revokeTimeout := rfl
@[simp] theorem State.setViolation_directQueue (d : Nat) (v : Violation) : (s.setViolation d v).directQueue = s.directQueue := rfl
@[simp] theorem State.setViolation_sourcePtr (d : Nat) (v : Violation) : (s.setViolation d v).sourcePtr = s.sourcePtr := rfl
@[simp] theorem State.setViolation_domains (d : Nat) (v : Violation) : (s.setViolation d v).domains = s.domains := rfl
@[simp] theorem State.setViolation_retire (d : Nat) (v : Violation) : (s.setViolation d v).retire = s.retire := rfl
@[simp] theorem State.setViolation_chains (d : Nat) (v : Violation) : (s.setViolation d v).chains = s.chains := rfl
@[simp] theorem State.setViolation_memoryTimeout (d : Nat) (v : Violation) : (s.setViolation d v).memoryTimeout = s.memoryTimeout := rfl
@[simp] theorem State.setViolation_sweep (d : Nat) (v : Violation) : (s.setViolation d v).sweep = s.sweep := rfl
@[simp] theorem State.setViolation_pending (d : Nat) (v : Violation) : (s.setViolation d v).pending = s.pending := rfl

/-! ### Reading back -/

@[simp] theorem State.link_setLink_same (l : LinkId) (k : Link) : (s.setLink l k).link l = k := by
  simp [State.setLink, State.link]

theorem State.link_setLink_ne {l m : LinkId} (k : Link) (h : m ≠ l) : (s.setLink l k).link m = s.link m := by
  have hv : l.val ≠ m.val := fun e => h (Fin.ext e.symm)
  simp [State.setLink, State.link, hv]

@[simp] theorem State.link_updLink_same (l : LinkId) (f : Link → Link) :
    (s.updLink l f).link l = f (s.link l) := by
  simp [State.updLink]

theorem State.link_updLink_ne {l m : LinkId} (f : Link → Link) (h : m ≠ l) :
    (s.updLink l f).link m = s.link m := by
  simp [State.updLink, State.link_setLink_ne s _ h]

@[simp] theorem State.chan_updChan_same (c : ChannelId) (f : Channel → Channel) :
    (s.updChan c f).chan c = f (s.chan c) := by
  simp [State.updChan, State.chan]

theorem State.chan_updChan_ne {c d : ChannelId} (f : Channel → Channel) (h : d ≠ c) :
    (s.updChan c f).chan d = s.chan d := by
  have hv : c.val ≠ d.val := fun e => h (Fin.ext e.symm)
  simp [State.updChan, State.chan, hv]

@[simp] theorem State.updChan_link (c : ChannelId) (f : Channel → Channel) (l : LinkId) :
    (s.updChan c f).link l = s.link l := rfl

@[simp] theorem State.updLink_chan (l : LinkId) (f : Link → Link) (c : ChannelId) :
    (s.updLink l f).chan c = s.chan c := rfl

/-- What a changed link does not touch of the others is read as before: any function of a link that the change
keeps. -/
theorem State.link_updLink_field {α : Type} (p : Link → α) (l m : LinkId) (f : Link → Link)
    (h : p (f (s.link l)) = p (s.link l)) : p ((s.updLink l f).link m) = p (s.link m) := by
  by_cases e : m = l
  · subst e; simp [h]
  · rw [State.link_updLink_ne s f e]

end Sys2Proof.Machine
end

