-- ==== Sys2Proof/Laws/Directory.lean ====
section
/-! SUPPORT. The Grant Directory: `DirectoryBut x` is its invariant while the links of `x` are exempt (a link that
leaves its session is, until it is withdrawn). One lemma for each operation on the directory. -/

namespace Sys2Proof.Machine

/-! ### Holder sets -/

theorem LinkSet.has_zero (l : LinkId) : LinkSet.has 0 l = false := by simp [LinkSet.has]

theorem LinkSet.has_del (a : LinkSet) (l m : LinkId) :
    LinkSet.has (LinkSet.del a l) m = (LinkSet.has a m && m != l) := by
  revert a l m
  decide

theorem LinkSet.has_del_same (a : LinkSet) (l : LinkId) : LinkSet.has (LinkSet.del a l) l = false := by
  rw [LinkSet.has_del]
  simp

theorem LinkSet.has_add (a : LinkSet) (l m : LinkId) :
    LinkSet.has (LinkSet.add a l) m = (LinkSet.has a m || m == l) := by
  revert a l m
  decide

theorem LinkSet.has_single (l m : LinkId) : LinkSet.has (LinkSet.single l) m = (m == l) := by
  revert l m
  decide

theorem LinkSet.ne_zero_of_has {a : LinkSet} {l : LinkId} (h : LinkSet.has a l = true) : a ≠ 0 := by
  rintro rfl
  rw [LinkSet.has_zero] at h
  exact Bool.false_ne_true h

/-! ### The invariant -/

/-- ACTIVE or HELD. -/
def LinkState.Serving (st : LinkState) : Prop := st = .active ∨ st = .held

/-- The invariant of R70, with the links of `x` exempt. -/
def State.DirectoryBut (s : State) (x : LinkId → Prop) : Prop :=
  Table.wf none s.directory ∧
    (∀ (w : Nat) (e : DirEntry), s.dirWay w = some e →
      w < 4 * 4096 ∧ w / 4 = e.granule % 4096 ∧ e.holders ≠ 0 ∧
        ∀ l : LinkId, LinkSet.has e.holders l = true → x l ∨ (s.link l).state.Serving) ∧
    ∀ (v w : Nat) (d e : DirEntry), s.dirWay v = some d → s.dirWay w = some e → d.granule = e.granule →
      v = w

theorem directoryOk_iff (s : State) : s.DirectoryOk ↔ s.DirectoryBut fun _ => False := by
  unfold State.DirectoryOk State.DirectoryBut LinkState.Serving
  simp only [false_or]

/-- The same directory, and every link that served serves on or is exempt. -/
theorem State.DirectoryBut.links {s t : State} {x y : LinkId → Prop} (ok : s.DirectoryBut x)
    (d : t.directory = s.directory)
    (h : ∀ l : LinkId, x l ∨ (s.link l).state.Serving → y l ∨ (t.link l).state.Serving) : t.DirectoryBut y := by
  obtain ⟨a, b, c⟩ := ok
  have w (n : Nat) : t.dirWay n = s.dirWay n := by
    unfold State.dirWay
    rw [d]
  refine ⟨d ▸ a, fun n e q => ?_, fun m n e f q r => ?_⟩
  · rw [w] at q
    obtain ⟨b1, b2, b3, b4⟩ := b n e q
    exact ⟨b1, b2, b3, fun l hl => h l (b4 l hl)⟩
  · rw [w] at q r
    exact c m n e f q r

/-- A way of a granule index's set. -/
theorem mem_dirWays (g w : Nat) : w ∈ dirWays g ↔ w / 4 = g % 4096 := by
  unfold dirWays
  simp only [Config.directoryWays, Config.directorySets, List.mem_cons, List.not_mem_nil, or_false]
  omega

theorem dirWay_setWay (s : State) (w n : Nat) (v : Option DirEntry) (ok : Table.wf none s.directory) :
    (s.setWay w v).dirWay n = if n = w then v else s.dirWay n := by
  unfold State.dirWay State.setWay
  simp only
  rw [Table.get_set none s.directory w n v ok.1]

/-- A way is freed, or takes an entry that belongs into it. -/
theorem State.DirectoryBut.setWay {s : State} {x : LinkId → Prop} (ok : s.DirectoryBut x) (w : Nat)
    (v : Option DirEntry)
    (h : ∀ e : DirEntry, v = some e → w < 4 * 4096 ∧ w / 4 = e.granule % 4096 ∧ e.holders ≠ 0 ∧
      (∀ l : LinkId, LinkSet.has e.holders l = true → x l ∨ (s.link l).state.Serving) ∧
      ∀ (n : Nat) (d : DirEntry), s.dirWay n = some d → d.granule = e.granule → n = w) :
    (s.setWay w v).DirectoryBut x := by
  obtain ⟨a, b, c⟩ := ok
  have q (n : Nat) := dirWay_setWay s w n v a
  refine ⟨Table.wf_set none s.directory w v a, fun n e p => ?_, fun m n d e p r g => ?_⟩
  · rw [q] at p
    split at p
    · rename_i e1
      subst e1
      obtain ⟨h1, h2, h3, h4, _⟩ := h e p
      exact ⟨h1, h2, h3, h4⟩
    · exact b n e p
  · rw [q] at p r
    split at p <;> split at r
    · rename_i e1 e2
      rw [e1, e2]
    · rename_i e1 e2
      exact absurd ((h d p).2.2.2.2 n e r g.symm) e2
    · rename_i e1 e2
      exact absurd ((h e r).2.2.2.2 m d p g) e1
    · exact c m n d e p r g

/-! ### The way of a granule index -/

theorem dirFind_some (s : State) (g w : Nat) (h : s.dirFind g = some w) :
    w / 4 = g % 4096 ∧ ∃ d : DirEntry, s.dirWay w = some d ∧ d.granule = g ∧ s.holders g = d.holders := by
  have m := List.mem_of_find?_eq_some h
  have p := List.find?_some h
  cases e : s.dirWay w with
  | none => simp [e] at p
  | some d =>
    simp only [e, beq_iff_eq] at p
    refine ⟨(mem_dirWays g w).mp m, d, rfl, p, ?_⟩
    unfold State.holders
    simp only [h, e]

/-- The lowest-numbered way of a granule's set with a property is the one found. -/
theorem find_way (g w : Nat) (p : Nat → Bool) (m : w ∈ dirWays g) (q : p w = true)
    (low : ∀ v ∈ dirWays g, v < w → p v = false) : (dirWays g).find? p = some w := by
  unfold dirWays at *
  simp only at *
  generalize Config.directoryWays * (g % Config.directorySets) = b at *
  simp only [List.mem_cons, List.not_mem_nil, or_false] at m low
  rcases m with rfl | rfl | rfl | rfl
  · simp [List.find?, q]
  · simp [List.find?, q, low b]
  · simp [List.find?, q, low b, low (b + 1)]
  · simp [List.find?, q, low b, low (b + 1), low (b + 2)]

/-- The way found for a granule index is the lowest-numbered one whose entry names it (R70). -/
theorem dirFind_lowest (s : State) (g w : Nat) (d : DirEntry) (m : w ∈ dirWays g) (q : s.dirWay w = some d)
    (e : d.granule = g)
    (low : ∀ v ∈ dirWays g, v < w → ∀ x : DirEntry, s.dirWay v = some x → x.granule ≠ g) :
    s.dirFind g = some w := by
  refine find_way g w _ m (by simp [q, e]) fun v hv hl => ?_
  cases h : s.dirWay v with
  | none => rfl
  | some x => simpa using low v hv hl x h

theorem dirFind_none (s : State) (g w : Nat) (d : DirEntry) (h : s.dirFind g = none) (q : s.dirWay w = some d)
    (i : w / 4 = g % 4096) : d.granule ≠ g := by
  intro e
  have := List.find?_eq_none.mp h w ((mem_dirWays g w).mpr i)
  simp [q, e] at this

/-- An entry with a holder set for a granule index, in its way. -/
theorem State.DirectoryBut.entry {s : State} {x : LinkId → Prop} (ok : s.DirectoryBut x) (g w : Nat)
    (hs : LinkSet) (i : w / 4 = g % 4096)
    (own : ∀ (n : Nat) (d : DirEntry), s.dirWay n = some d → d.granule = g → n = w)
    (h : ∀ l : LinkId, LinkSet.has hs l = true → x l ∨ (s.link l).state.Serving) :
    (s.setWay w (dirEntryOf g hs)).DirectoryBut x := by
  refine ok.setWay w _ fun e q => ?_
  unfold dirEntryOf at q
  split at q
  · cases q
  · rename_i nz
    cases q
    exact ⟨by omega, i, nz, h, own⟩

/-- The way that holds a granule index is its only one. -/
theorem dirFind_only {s : State} {x : LinkId → Prop} (ok : s.DirectoryBut x) (g w : Nat)
    (h : s.dirFind g = some w) (n : Nat) (d : DirEntry) (q : s.dirWay n = some d) (e : d.granule = g) : n = w := by
  obtain ⟨_, f, hf, hg, _⟩ := dirFind_some s g w h
  exact ok.2.2 n w d f q hf (e.trans hg.symm)

/-! ### The operations on the directory -/

theorem State.DirectoryBut.recordGrant {s : State} {x : LinkId → Prop} (ok : s.DirectoryBut x) (g : Nat)
    (l : LinkId) (h : (s.link l).state.Serving) : (s.recordGrant g l).1.DirectoryBut x := by
  unfold State.recordGrant
  split
  · rename_i w e
    obtain ⟨i, d, hd, _, hh⟩ := dirFind_some s g w e
    refine ok.entry g w _ i (dirFind_only ok g w e) fun m hm => ?_
    rw [LinkSet.has_add, Bool.or_eq_true] at hm
    rcases hm with hm | hm
    · rw [hh] at hm
      exact (ok.2.1 w d hd).2.2.2 m hm
    · rw [beq_iff_eq] at hm
      exact Or.inr (hm ▸ h)
  · rename_i e
    split
    · rename_i w f
      have i := (mem_dirWays g w).mp (List.mem_of_find?_eq_some f)
      refine ok.entry g w _ i (fun n d q r => ?_) fun m hm => ?_
      · have j := (ok.2.1 n d q).2.1
        rw [r] at j
        exact absurd r (dirFind_none s g n d e q j)
      · rw [LinkSet.has_single, beq_iff_eq] at hm
        exact Or.inr (hm ▸ h)
    · exact ok.links rfl fun _ a => a

theorem State.DirectoryBut.dropHolder {s : State} {x : LinkId → Prop} (ok : s.DirectoryBut x) (g : Nat)
    (l : LinkId) : (s.dropHolder g l).DirectoryBut x := by
  unfold State.dropHolder
  split
  · rename_i w e
    obtain ⟨i, d, hd, _, hh⟩ := dirFind_some s g w e
    refine ok.entry g w _ i (dirFind_only ok g w e) fun m hm => ?_
    rw [LinkSet.has_del, Bool.and_eq_true, hh] at hm
    exact (ok.2.1 w d hd).2.2.2 m hm.1
  · exact ok

theorem State.DirectoryBut.freeGranule {s : State} {x : LinkId → Prop} (ok : s.DirectoryBut x) (g : Nat) :
    (s.freeGranule g).DirectoryBut x := by
  unfold State.freeGranule
  split
  · exact ok.setWay _ none fun _ q => by cases q
  · exact ok

theorem dirWay_dropAllHolders (s : State) (l : LinkId) (n : Nat) (ok : Table.wf none s.directory) :
    (s.dropAllHolders l).dirWay n =
      (s.dirWay n).bind fun d => dirEntryOf d.granule (LinkSet.del d.holders l) :=
  Table.get_mapListed none _ s.directory n ok.1 rfl

/-- A link that holds nothing needs no exemption. -/
theorem State.DirectoryBut.dropAllHolders {s : State} {x : LinkId → Prop} (l : LinkId)
    (ok : s.DirectoryBut fun m => x m ∨ m = l) : (s.dropAllHolders l).DirectoryBut x := by
  obtain ⟨a, b, c⟩ := ok
  have q (n : Nat) := dirWay_dropAllHolders s l n a
  have old (n : Nat) (e : DirEntry) (p : (s.dropAllHolders l).dirWay n = some e) :
      ∃ d : DirEntry, s.dirWay n = some d ∧ e.granule = d.granule ∧ e.holders = LinkSet.del d.holders l ∧
        e.holders ≠ 0 := by
    rw [q] at p
    cases f : s.dirWay n with
    | none => simp [f] at p
    | some d =>
      simp only [f, Option.bind_some] at p
      unfold dirEntryOf at p
      split at p
      · cases p
      · rename_i nz
        cases p
        exact ⟨d, rfl, rfl, rfl, nz⟩
  refine ⟨Table.wf_mapListed none _ s.directory a, fun n e p => ?_, fun m n d e p r g => ?_⟩
  · obtain ⟨d, hd, hg, hh, nz⟩ := old n e p
    obtain ⟨b1, b2, _, b4⟩ := b n d hd
    refine ⟨b1, hg ▸ b2, nz, fun k hk => ?_⟩
    rw [hh, LinkSet.has_del, Bool.and_eq_true, bne_iff_ne] at hk
    rcases b4 k hk.1 with (z | z) | z
    · exact Or.inl z
    · exact absurd z hk.2
    · exact Or.inr z
  · obtain ⟨d', hd, hg, _⟩ := old m d p
    obtain ⟨e', he, hg', _⟩ := old n e r
    exact c m n d' e' hd he (hg ▸ hg' ▸ g)

end Sys2Proof.Machine
end

