-- ==== Sys2Proof/Laws/Frames.lean ====
section
/-! SUPPORT. How a command that brings a frame goes: the condition under which it is taken at once, the stages of
a management message, and the one taking function that commands and held frames share. -/

namespace Sys2Proof.Machine

/-! ### Delivery -/

/-- A frame that its link takes is taken in an event of its own. -/
theorem deliver_takes (s : State) (l : LinkId) (frame : Instr) (take : State → State)
    (h : s.Takes l frame) : s.deliver l frame take = (take s).closeEvent := by
  obtain ⟨h1, h2, h3⟩ := h
  unfold State.deliver
  rw [if_pos h1, h2, h3]
  rfl

/-- Outside a session a frame is discarded (R181). -/
theorem deliver_outside (s : State) (l : LinkId) (frame : Instr) (take : State → State)
    (h : (s.link l).state.inSession = false) : s.deliver l frame take = s := by
  unfold State.deliver
  rw [if_neg (by rw [h]; exact Bool.false_ne_true)]

/-- A frame that has to wait joins the frames its link holds (R184). -/
theorem deliver_holds (s : State) (l : LinkId) (frame : Instr) (take : State → State)
    (h : (s.link l).state.inSession = true) (w : s.mustHold l frame = true ∨ (s.link l).held ≠ []) :
    s.deliver l frame take = s.updLink l fun k => { k with held := k.held ++ [frame] } := by
  unfold State.deliver
  rw [if_pos h, if_pos]
  rcases w with w | w
  · rw [w, Bool.or_true]
  · cases e : (s.link l).held with
    | nil => exact absurd e w
    | cons a b => rfl

/-! ### Management messages -/

/-- A management message that passes its stages is carried out from the part after the authority test. -/
theorem takeManaged_passes (s t : State) (h : MgmtHeader) (f : State → State) (p : s.Passes h t) :
    s.takeManaged h f = f t := by
  obtain ⟨ha, ht, ho, hp⟩ := p
  have st : (s.link h.link).state = .active := by
    simpa [State.isActive] using ha
  unfold State.takeManaged
  simp only [st, ha, ho, hp]
  rw [if_neg (by omega), if_neg (by exact Bool.false_ne_true), if_pos trivial]

/-- A CONTROL operation that passes its stages has its effect, and is answered after it. -/
theorem takeControl_passes (s t : State) (h : MgmtHeader) (f : State → State × ControlOutcome)
    (p : s.Passes h t) :
    s.takeControl h f = (f t).1.hand h.link (.controlReply h.tag (f t).2) :=
  takeManaged_passes s t h _ p

/-- A management message that is delivered and carried out. -/
theorem deliver_carries (s t : State) (h : MgmtHeader) (frame : Instr) (f : State → State)
    (c : s.Carries h frame t) :
    s.deliver h.link frame (fun u => u.takeManaged h f) = (f t).closeEvent := by
  rw [deliver_takes s h.link frame _ c.1, takeManaged_passes s t h f c.2]

/-- A CONTROL operation that is delivered and carried out. -/
theorem deliver_control (s t : State) (h : MgmtHeader) (frame : Instr)
    (f : State → State × ControlOutcome) (c : s.Carries h frame t) :
    s.deliver h.link frame (fun u => u.takeControl h f) =
      ((f t).1.hand h.link (.controlReply h.tag (f t).2)).closeEvent := by
  rw [deliver_takes s h.link frame _ c.1, takeControl_passes s t h f c.2]

/-- A management message on the lead link in STARTUP passes without a classification (R41). -/
theorem authority_startup (s : State) (h : MgmtHeader) (m : s.mode = .startup) (l : h.link = s.leadLink) :
    s.authority h = (s, true) := by
  unfold State.authority
  rw [if_pos ⟨m, l⟩]

/-! ### The end of an event -/

/-- An event that raised no enabled status hands no NOTIFY (R169). -/
theorem closeEvent_quiet (s : State) (h : s.Between) : s.closeEvent = s := by
  unfold State.closeEvent
  exact if_pos h

/-! ### The arbiter -/

/-- A grant that is due is given to its class. -/
theorem onGrant_due (s : State) (c : ArbClass) (f : State → Host.Outcome State Fault Refusal)
    (h : s.arbPick = some c) : s.onGrant c f = f (s.countGrant c) := if_pos h

/-- An access to a record the store holds is made. -/
theorem onRecord_inside (s : State) (i : Nat) (k : State) (h : i < s.capacity) :
    s.onRecord i k = .next k := if_pos h

/-- An access to a record the store does not hold stops the model (log entry 16). -/
theorem onRecord_outside (s : State) (i : Nat) (k : State) (h : s.capacity ≤ i) :
    s.onRecord i k = .fault (.recordOutsideStore i) := if_neg (by omega)

/-- A fence entry found for a granule names it. -/
theorem fenceOf_granule (s : State) (g : Nat) (e : FenceEntry) (h : s.fenceOf g = some e) : e.granule = g := by
  have p := List.find?_some h
  simpa using p

/-- A due grant of the COMMAND class is made on the fence entry of its oldest request's granule. -/
theorem onCommand_due (s : State) (a : StepAccess) (f : State → FenceEntry → State) (g : Nat) (e : FenceEntry)
    (rest : List CommandRequest) (p : s.arbPick = some .command)
    (q : s.store.commandQ = { granule := g, access := a } :: rest) (n : s.fenceOf g = some e)
    (i : g < s.capacity) :
    s.onCommand a f = .next (f { s.countGrant .command with
      store := { (s.countGrant .command).store with commandQ := rest } } e).closeEvent := by
  have pop : (s.countGrant .command).popCommand = { s.countGrant .command with
      store := { (s.countGrant .command).store with commandQ := rest } } := by
    show { s.countGrant .command with
      store := { (s.countGrant .command).store with commandQ := s.store.commandQ.tail } } = _
    rw [q]
    rfl
  have n' : (s.countGrant .command).popCommand.fenceOf g = some e := n
  have i' : g < (s.countGrant .command).popCommand.capacity := i
  unfold State.onCommand State.commandHead
  rw [q]
  simp only [if_true]
  rw [onGrant_due _ _ _ p]
  simp only [n']
  rw [onRecord_inside _ _ _ i', pop]

/-! ### Frames that wait on -/

/-- To set a link's held frames to what they are changes nothing. -/
theorem setHeld_self (s : State) (l : LinkId) : s.setHeld l (s.link l).held = s := by
  have e : s.links.set l.val (s.links[l]) l.isLt = s.links := Vector.set_getElem_self l.isLt
  exact congrArg (fun ks => ({ s with links := ks } : State)) e

/-- Held frames whose first has to wait stay as they are (R184). -/
theorem drainHeld_waits (s : State) (l : LinkId) (f : Instr) (rest : List Instr)
    (h : (s.link l).held = f :: rest) (w : s.mustHold l f = true) : drainHeld l (f :: rest) s = s := by
  unfold drainHeld
  simp only [w, if_true, ← h, setHeld_self, ite_self]

/-! ### One taking for commands and held frames -/

/-- The link on which a command brings a frame; none for the other commands. -/
def frameLink : Instr → Option LinkId
  | .announce l _ | .frameRejected l _ | .check l _ | .drop l _ | .revokeAck l _ _ | .flushAck l
  | .memData l _ _ | .memDone l _ => some l
  | .assign h _ _ _ _ | .release h _ _ | .share h _ _ _ _ | .unshare h _ _ _ | .transfer h _ _ _
  | .setAttr h _ _ _ _ | .rebuild h _ _ | .commit h | .tableInit h | .start h | .domainOpen h _
  | .domainRetire h _ | .chainStart h _ | .chainStop h _ | .chainResume h _ | .chainCancel h _
  | .chainStatus h _ | .captureClear h | .flagsClear h _ _ | .notifyClear h _ | .logRead h _ _ _
  | .logAck h _ _ | .tagRead h _ _ | .tagScan h _ _ _ | .cfgWrite h _ _ | .storeGeometry h _
  | .admission h _ _ | .errorCounter h _ _ _ | .queueSizeWrite h _ _ | .notifyEnable h _
  | .pacerParameterWrite h _ _ | .sweepEnable h _ | .cfgRead h _ => some h.link
  | _ => none

/-- A command that brings a frame delivers it to its link, which takes it as `takeFrame` says; a held frame is
taken by the same function. -/
theorem exec_frame (c : Instr) (l : LinkId) (s : State) (h : frameLink c = some l) :
    exec c s = .next (s.deliver l c fun t => t.takeFrame c) := by
  cases c <;> first | (cases h; rfl) | (simp [frameLink] at h)

/-- A management message that is not carried out has no effect but that of the stage that stops it; the command
gives the stages its effect alone. -/
theorem exec_managed (c : Instr) (h : MgmtHeader) (m : managedHeader c = some h) :
    ∃ f : State → State, ∀ s : State,
      exec c s = .next (s.deliver h.link c fun t => t.takeManaged h f) := by
  cases c <;> first | (cases m; exact ⟨_, fun _ => rfl⟩) | (simp [managedHeader] at m)

/-! ### The tag store arbiter -/

/-- The arbiter chooses a class whenever one is eligible with a request waiting (R16). -/
theorem arbPick_of_ready (s : State) (c : ArbClass) (h : s.classReady c = true) : s.arbPick ≠ none := by
  unfold State.arbPick
  simp only
  split
  · simp
  · intro n
    rw [List.head?_eq_none_iff, List.filter_eq_nil_iff] at n
    exact n c (by cases c <;> decide) h

end Sys2Proof.Machine
end

