-- ==== Sys2Proof/Laws/Changes.lean ====
section
/-! SUPPORT. What the shared operations change, said as the whole next state: `OnlyReports`, `OnlyChains` and
`OnlyLoss` name the parts that may differ, `LinksSend` says that links differ in their outbound paths alone. -/

namespace Sys2Proof.Machine

/-- Nothing differs but the channels, the links, and what a Q1 record and a status touch. -/
def State.OnlyChains (s t : State) : Prop := ({ s with chains := t.chains } : State).OnlyReports t

/-! ### Composition -/

theorem State.OnlyReports.refl (s : State) : s.OnlyReports s := rfl

theorem State.OnlyReports.trans {s t u : State} (a : s.OnlyReports t) (b : t.OnlyReports u) : s.OnlyReports u := by
  unfold State.OnlyReports at *
  rw [a] at b
  exact b

theorem State.OnlyReports.chains {s t : State} (a : s.OnlyReports t) : s.OnlyChains t := by
  unfold State.OnlyChains State.OnlyReports at *
  rw [a]

theorem State.OnlyChains.refl (s : State) : s.OnlyChains s := rfl

theorem State.OnlyChains.trans {s t u : State} (a : s.OnlyChains t) (b : t.OnlyChains u) : s.OnlyChains u := by
  unfold State.OnlyChains State.OnlyReports at *
  rw [a] at b
  exact b

theorem State.OnlyChains.loss {s t : State} (a : s.OnlyChains t) : s.OnlyLoss t := by
  unfold State.OnlyChains State.OnlyReports State.OnlyLoss at *
  rw [a]

theorem State.OnlyReports.loss {s t : State} (a : s.OnlyReports t) : s.OnlyLoss t := a.chains.loss

theorem State.OnlyLoss.refl (s : State) : s.OnlyLoss s := rfl

theorem State.OnlyLoss.trans {s t u : State} (a : s.OnlyLoss t) (b : t.OnlyLoss u) : s.OnlyLoss u := by
  unfold State.OnlyLoss at *
  rw [a] at b
  exact b

theorem State.LinksSend.refl (s : State) : s.LinksSend s := fun _ => rfl

theorem State.LinksSend.trans {s t u : State} (a : s.LinksSend t) (b : t.LinksSend u) : s.LinksSend u := by
  intro l
  have := b l
  rw [a l] at this
  exact this

/-- The same links. -/
theorem State.LinksSend.of_eq {s t : State} (h : t.links = s.links) : s.LinksSend t := by
  intro l
  have : t.link l = s.link l := by unfold State.link; rw [h]
  rw [this]

theorem State.LinksSend.field {s t : State} {α : Type} (a : s.LinksSend t) (l : LinkId) (f : Link → α)
    (h : ∀ (k : Link) (o : List OutMsg), f { k with outbound := o } = f k) : f (t.link l) = f (s.link l) := by
  rw [a l, h]

theorem State.LinksSend.state {s t : State} (a : s.LinksSend t) (l : LinkId) : (t.link l).state = (s.link l).state :=
  a.field l Link.state fun _ _ => rfl

theorem State.LinksSend.others {s t : State} (a : s.LinksSend t) (l : LinkId) : s.OthersSend t l := fun m _ => a m

theorem State.OthersSend.trans {s t u : State} {l : LinkId} (a : s.OthersSend t l) (b : t.OthersSend u l) :
    s.OthersSend u l := by
  intro m h
  have := b m h
  rw [a m h] at this
  exact this

/-! ### Links -/

theorem onlyReports_updLink (s : State) (l : LinkId) (f : Link → Link) : s.OnlyReports (s.updLink l f) := rfl

theorem onlyReports_hand (s : State) (l : LinkId) (m : OutMsg) : s.OnlyReports (s.hand l m) := rfl

/-- A change of a link's outbound path. -/
theorem linksSend_updLink (s : State) (l : LinkId) (f : Link → Link)
    (h : ∀ k, f k = { k with outbound := (f k).outbound }) : s.LinksSend (s.updLink l f) := by
  intro m
  by_cases e : m = l
  · subst e
    simp only [State.link_updLink_same]
    exact h _
  · rw [State.link_updLink_ne s f e]

theorem othersSend_updLink (s : State) (l : LinkId) (f : Link → Link) : s.OthersSend (s.updLink l f) l := by
  intro m e
  rw [State.link_updLink_ne s f e]

theorem linksSend_hand (s : State) (l : LinkId) (m : OutMsg) : s.LinksSend (s.hand l m) :=
  linksSend_updLink s l _ fun _ => rfl

/-! ### Statuses, records and the end of an event -/

theorem onlyReports_raise (s : State) (st : Status) : s.OnlyReports (s.raise st) := by
  unfold State.raise
  split <;> rfl

theorem raise_links (s : State) (st : Status) : (s.raise st).links = s.links := by
  unfold State.raise
  split <;> rfl

theorem raise_q1 (s : State) (st : Status) : (s.raise st).reports.q1 = s.reports.q1 := by
  unfold State.raise
  split <;> rfl

/-- A status raised is set, and no status is cleared. -/
theorem raise_status (s : State) (st : Status) : (s.raise st).reports.status = s.reports.status ||| st.mask := by
  unfold State.raise
  split
  · rename_i h
    unfold StatusSet.has at h
    ext i hi
    rw [BitVec.getElem_or]
    by_cases e : i = st.bit
    · subst e
      rw [BitVec.getLsbD_eq_getElem (by cases st <;> decide)] at h
      simp [h]
    · have : st.mask[i] = false := by
        unfold Status.mask
        cases st <;> simp [Status.bit] at e ⊢ <;> (interval_cases i <;> simp_all)
      simp [this]
  · rfl

theorem raise_has (s : State) (st : Status) : StatusSet.has (s.raise st).reports.status st = true := by
  rw [raise_status]
  unfold StatusSet.has Status.mask
  cases st <;> simp [Status.bit]

theorem raise_has_of (s : State) (st su : Status) (h : StatusSet.has s.reports.status su = true) :
    StatusSet.has (s.raise st).reports.status su = true := by
  rw [raise_status]
  unfold StatusSet.has at *
  simp [h]

theorem onlyReports_storeEvent (s : State) (r : EventRecord) : s.OnlyReports (s.storeEvent r) := by
  have base : s.OnlyReports { s with reports := { s.reports with q1 := (s.reports.q1.push r).1 } } := rfl
  unfold State.storeEvent
  simp only
  split
  · exact base.trans (onlyReports_raise _ _)
  · split
    · exact base.trans (onlyReports_raise _ _)
    · exact base

theorem storeEvent_links (s : State) (r : EventRecord) : (s.storeEvent r).links = s.links := by
  unfold State.storeEvent
  simp only
  split
  · rw [raise_links]
  · split
    · rw [raise_links]
    · rfl

theorem storeEvent_q1 (s : State) (r : EventRecord) : (s.storeEvent r).reports.q1 = (s.reports.q1.push r).1 := by
  unfold State.storeEvent
  simp only
  split
  · rw [raise_q1]
  · split
    · rw [raise_q1]
    · rfl

theorem storeEvent_has_of (s : State) (r : EventRecord) (su : Status)
    (h : StatusSet.has s.reports.status su = true) :
    StatusSet.has (s.storeEvent r).reports.status su = true := by
  unfold State.storeEvent
  simp only
  split
  · exact raise_has_of _ _ _ h
  · split
    · exact raise_has_of _ _ _ h
    · exact h

theorem onlyReports_report (s : State) (k : EventKind) (l : Option LinkId) (g : Option Nat) (d : Option DomainNo)
    (x : EventDetail) : s.OnlyReports (s.report k l g d x) := onlyReports_storeEvent _ _

theorem report_links (s : State) (k : EventKind) (l : Option LinkId) (g : Option Nat) (d : Option DomainNo)
    (x : EventDetail) : (s.report k l g d x).links = s.links := storeEvent_links _ _

theorem onlyReports_notifyLink (s : State) (l : LinkId) : s.OnlyReports (s.notifyLink l) := by
  unfold State.notifyLink
  split <;> rfl

theorem notifyLink_reports (s : State) (l : LinkId) : (s.notifyLink l).reports = s.reports := by
  unfold State.notifyLink
  split <;> rfl

theorem notifyLink_timeBase (s : State) (l : LinkId) : (s.notifyLink l).timeBase = s.timeBase := by
  unfold State.notifyLink
  split <;> rfl

theorem linksSend_notifyLink (s : State) (l : LinkId) : s.LinksSend (s.notifyLink l) := by
  unfold State.notifyLink
  split
  · exact linksSend_updLink s l _ fun _ => rfl
  · exact State.LinksSend.refl s

theorem notifyLink_eq (s : State) (l : LinkId) : s.notifyLink l = { s with links := (s.notifyLink l).links } := by
  unfold State.notifyLink
  split <;> rfl

theorem links_trans {s t u : State} (a : t = { s with links := t.links }) (b : u = { t with links := u.links }) :
    u = { s with links := u.links } := by
  rw [a] at b
  exact b

/-- Nothing differs but the links. -/
theorem notifyLinks_eq (ls : List LinkId) (s : State) :
    ls.foldl State.notifyLink s = { s with links := (ls.foldl State.notifyLink s).links } := by
  induction ls generalizing s with
  | nil => rfl
  | cons l ls ih =>
    exact links_trans (notifyLink_eq s l) (ih (s.notifyLink l))

theorem linksSend_notifyLinks (ls : List LinkId) (s : State) : s.LinksSend (ls.foldl State.notifyLink s) := by
  induction ls generalizing s with
  | nil => exact State.LinksSend.refl s
  | cons l ls ih => exact (linksSend_notifyLink s l).trans (ih _)

/-- The end of an event changes the links and empties the causes. -/
theorem closeEvent_eq (s : State) : s.closeEvent =
    { s with links := s.closeEvent.links, reports := { s.reports with notifyDue := 0 } } := by
  unfold State.closeEvent
  split
  · rename_i h
    rw [← h]
  · have h := notifyLinks_eq allLinks s
    generalize allLinks.foldl State.notifyLink s = t at h ⊢
    rw [h]

theorem linksSend_closeEvent (s : State) : s.LinksSend s.closeEvent := by
  unfold State.closeEvent
  split
  · exact State.LinksSend.refl s
  · exact linksSend_notifyLinks allLinks s

/-- The handing of a NOTIFY leaves the other messages of a path (R184). -/
theorem handNotify_others (out : List OutMsg) (time : Time) (statuses causes : StatusSet) :
    (handNotify out time statuses causes).filter (fun m => !m.isNotify) = out.filter fun m => !m.isNotify := by
  simp [handNotify, OutMsg.isNotify]

theorem notifyLink_others (s : State) (l m : LinkId) :
    ((s.notifyLink l).link m).outbound.filter (fun x => !x.isNotify) =
      (s.link m).outbound.filter fun x => !x.isNotify := by
  unfold State.notifyLink
  split
  · apply State.link_updLink_field s (fun k => k.outbound.filter fun x => !x.isNotify)
    exact handNotify_others _ _ _ _
  · rfl

theorem notifyLinks_others (ls : List LinkId) (s : State) (m : LinkId) :
    ((ls.foldl State.notifyLink s).link m).outbound.filter (fun x => !x.isNotify) =
      (s.link m).outbound.filter fun x => !x.isNotify := by
  induction ls generalizing s with
  | nil => rfl
  | cons l ls ih => exact (ih (s.notifyLink l)).trans (notifyLink_others s l m)

/-- The end of an event hands a path nothing but a NOTIFY, and takes nothing but an earlier one out of it (R169, R184). -/
theorem closeEvent_others (s : State) (m : LinkId) :
    (s.closeEvent.link m).outbound.filter (fun x => !x.isNotify) =
      (s.link m).outbound.filter fun x => !x.isNotify := by
  unfold State.closeEvent
  split
  · rfl
  · exact notifyLinks_others allLinks s m

/-! ### Channels -/

theorem onlyChains_updChan (s : State) (c : ChannelId) (f : Channel → Channel) : s.OnlyChains (s.updChan c f) := rfl

theorem linksSend_updChan (s : State) (c : ChannelId) (f : Channel → Channel) : s.LinksSend (s.updChan c f) :=
  State.LinksSend.of_eq rfl

/-- Nothing differs but channel `c`, outbound paths, and what a Q1 record and a status touch. -/
theorem State.OnlyChannel.refl (s : State) (c : ChannelId) : s.OnlyChannel s c :=
  ⟨rfl, State.LinksSend.refl s, fun _ _ => rfl⟩

theorem State.OnlyChannel.trans {s t u : State} {c : ChannelId} (a : s.OnlyChannel t c) (b : t.OnlyChannel u c) :
    s.OnlyChannel u c := by
  obtain ⟨a1, a2, a3⟩ := a
  obtain ⟨b1, b2, b3⟩ := b
  exact ⟨State.OnlyChains.trans a1 b1, a2.trans b2, fun d h => (b3 d h).trans (a3 d h)⟩

theorem State.OnlyChannel.of_same {s t : State} (c : ChannelId) (a : s.OnlyReports t) (l : s.LinksSend t)
    (h : t.chains = s.chains) : s.OnlyChannel t c :=
  ⟨a.chains, l, fun d _ => by unfold State.chan; rw [h]⟩

theorem onlyChannel_updChan (s : State) (c : ChannelId) (f : Channel → Channel) : s.OnlyChannel (s.updChan c f) c :=
  ⟨rfl, linksSend_updChan s c f, fun _ h => State.chan_updChan_ne s f h⟩

theorem onlyChannel_hand (s : State) (c : ChannelId) (l : LinkId) (m : OutMsg) : s.OnlyChannel (s.hand l m) c :=
  State.OnlyChannel.of_same c rfl (linksSend_hand s l m) rfl

theorem raise_chains (s : State) (st : Status) : (s.raise st).chains = s.chains := by
  unfold State.raise
  split <;> rfl

theorem report_chains (s : State) (k : EventKind) (l : Option LinkId) (g : Option Nat) (d : Option DomainNo)
    (x : EventDetail) : (s.report k l g d x).chains = s.chains := by
  have h := onlyReports_report s k l g d x
  unfold State.OnlyReports at h
  rw [h]

theorem onlyChannel_raise (s : State) (c : ChannelId) (st : Status) : s.OnlyChannel (s.raise st) c :=
  State.OnlyChannel.of_same c (onlyReports_raise s st) (.of_eq (raise_links s st)) (raise_chains s st)

theorem onlyChannel_report (s : State) (c : ChannelId) (k : EventKind) (l : Option LinkId) (g : Option Nat)
    (d : Option DomainNo) (x : EventDetail) : s.OnlyChannel (s.report k l g d x) c :=
  State.OnlyChannel.of_same c (onlyReports_report s k l g d x) (.of_eq (report_links s k l g d x)) (report_chains s k l g d x)

theorem onlyChannel_closeEvent (s : State) (c : ChannelId) : s.OnlyChannel s.closeEvent c := by
  have h := closeEvent_eq s
  refine State.OnlyChannel.of_same c ?_ (linksSend_closeEvent s) ?_
  · unfold State.OnlyReports
    rw [h]
  · rw [h]

theorem onlyChannel_sendMem (s : State) (c : ChannelId) (k : MemKind) (m : Byte → OutMsg) :
    s.OnlyChannel (s.sendMem c k m) c :=
  (onlyChannel_hand s c _ _).trans (onlyChannel_updChan _ c _)

theorem onlyChannel_fetchBlock (s : State) (c : ChannelId) : s.OnlyChannel (s.fetchBlock c) c :=
  (onlyChannel_updChan s c _).trans (onlyChannel_sendMem _ c _ _)

theorem onlyChannel_postWrite (s : State) (c : ChannelId) (p : PostStage) (a : Quad) (d : List Byte) :
    s.OnlyChannel (s.postWrite c p a d) c :=
  (onlyChannel_updChan s c _).trans (onlyChannel_sendMem _ c _ _)

theorem onlyChannel_restChannel (s : State) (c : ChannelId) (st : ChannelState) (x : ChainCause) (o : Nat) :
    s.OnlyChannel (s.restChannel c st x o) c := by
  have h : s.OnlyChannel ((s.updChan c fun k => k.atRest st x o).raise (chainEnd c)) c :=
    (onlyChannel_updChan s c _).trans (onlyChannel_raise _ c _)
  unfold State.restChannel
  simp only
  split
  · exact h.trans (onlyChannel_report _ c _ _ _ _ _)
  · exact h

theorem onlyChannel_leavePosting (s : State) (c : ChannelId) (b : Block) : s.OnlyChannel (s.leavePosting c b) c := by
  have h := onlyChannel_updChan s c fun k => { k with blockAddr := b.nextAddr, block := none }
  unfold State.leavePosting
  simp only
  split
  · exact onlyChannel_restChannel ..
  · split
    · exact h.trans (onlyChannel_restChannel ..)
    · split
      · exact h.trans (onlyChannel_restChannel ..)
      · split
        · exact h.trans (onlyChannel_restChannel ..)
        · exact h.trans (onlyChannel_fetchBlock ..)

theorem onlyChannel_postNotify (s : State) (c : ChannelId) (b : Block) : s.OnlyChannel (s.postNotify c b) c := by
  unfold State.postNotify
  split
  · split
    · exact onlyChannel_postWrite ..
    · exact onlyChannel_leavePosting ..
  · exact onlyChannel_leavePosting ..

theorem onlyChannel_enterPosting (s : State) (c : ChannelId) (b : Block) : s.OnlyChannel (s.enterPosting c b) c := by
  unfold State.enterPosting
  split
  · exact onlyChannel_postWrite ..
  · exact (onlyChannel_updChan s c _).trans (onlyChannel_postNotify ..)

theorem onlyChannel_blockFailure (s : State) (c : ChannelId) (b : Block) : s.OnlyChannel (s.blockFailure c b) c := by
  unfold State.blockFailure
  split
  · exact onlyChannel_report ..
  · exact State.OnlyChannel.refl s c

theorem onlyChannel_settleChannel (s : State) (c : ChannelId) : s.OnlyChannel (s.settleChannel c) c := by
  unfold State.settleChannel
  simp only
  split
  · split
    · exact State.OnlyChannel.refl s c
    · split
      · split
        · exact (onlyChannel_blockFailure ..).trans (onlyChannel_restChannel ..)
        · exact (onlyChannel_blockFailure ..).trans (onlyChannel_enterPosting ..)
      · repeat' split
        all_goals first | exact onlyChannel_restChannel .. | exact State.OnlyChannel.refl s c
  · exact State.OnlyChannel.refl s c

theorem onlyChannel_chainLinkLost (s : State) (c : ChannelId) : s.OnlyChannel (s.chainLinkLost c) c := by
  unfold State.chainLinkLost
  simp only
  split
  · exact State.OnlyChannel.refl s c
  · exact onlyChannel_restChannel ..
  · exact onlyChannel_restChannel ..
  · exact onlyChannel_restChannel ..
  · exact (onlyChannel_updChan s c _).trans (onlyChannel_settleChannel ..)

theorem onlyChannel_takeBlock (s : State) (c : ChannelId) (d : Vector Byte 32) : s.OnlyChannel (s.takeBlock c d) c := by
  have h := onlyChannel_updChan s c fun k => { k with memRequest := none }
  unfold State.takeBlock
  simp only
  split
  · rename_i first _
    have g := h.trans (onlyChannel_updChan _ c fun k => k.takeValid (blockOf d) first)
    split
    · exact g.trans (onlyChannel_restChannel ..)
    · exact g.trans (onlyChannel_updChan ..)
  · split
    · exact h.trans (onlyChannel_postWrite ..)
    · exact h.trans (onlyChannel_restChannel ..)

theorem onlyChannel_takeDone (s : State) (c : ChannelId) : s.OnlyChannel (s.takeDone c) c := by
  have h := onlyChannel_updChan s c fun k => { k with memRequest := none }
  unfold State.takeDone
  simp only
  split
  · exact h.trans (onlyChannel_restChannel ..)
  · exact h.trans (onlyChannel_postNotify ..)
  · exact h.trans (onlyChannel_leavePosting ..)
  · exact h

theorem onlyChannel_memoryTimeoutOf (s : State) (c : ChannelId) : s.OnlyChannel (s.memoryTimeoutOf c) c := by
  unfold State.memoryTimeoutOf
  split <;> first | exact onlyChannel_restChannel .. | exact State.OnlyChannel.refl s c

/-! ### The loss of a link -/

/-- The loss of a link changes the channels that fetch on it. -/
theorem chainsLinkLost_only (s : State) (l : LinkId) :
    s.OnlyChains (s.chainsLinkLost l) ∧ s.LinksSend (s.chainsLinkLost l) ∧
      ∀ c : ChannelId, (s.chan c).fetchLink ≠ l → (s.chainsLinkLost l).chan c = s.chan c := by
  have one (t : State) (c : ChannelId) :
      t.OnlyChannel (if (t.chan c).fetchLink = l then t.chainLinkLost c else t) c := by
    split
    · exact onlyChannel_chainLinkLost t c
    · exact State.OnlyChannel.refl t c
  have keep (t : State) (c : ChannelId) (h : (t.chan c).fetchLink ≠ l) :
      (if (t.chan c).fetchLink = l then t.chainLinkLost c else t) = t := if_neg h
  unfold State.chainsLinkLost
  simp only [List.foldl]
  have a := one s 0
  have b := one (if (s.chan 0).fetchLink = l then s.chainLinkLost 0 else s) 1
  refine ⟨State.OnlyChains.trans a.1 b.1, a.2.1.trans b.2.1, fun c h => ?_⟩
  by_cases e : c = 0
  · subst e
    rw [b.2.2 0 (by decide), keep s 0 h]
  · have e1 : c = 1 := (show ∀ c : ChannelId, c ≠ 0 → c = 1 by decide) c e
    subst e1
    have f := a.2.2 1 (by decide)
    rw [keep _ 1 (by rw [f]; exact h), f]

theorem flushDue_only (s : State) (l : LinkId) : s.OnlyReports (s.flushDue l) ∧ s.OthersSend (s.flushDue l) l := by
  unfold State.flushDue
  split
  · exact ⟨rfl, fun _ _ => rfl⟩
  · exact ⟨rfl, othersSend_updLink s l _⟩

theorem onlyLoss_completeDrains (s : State) : s.OnlyLoss s.completeDrains := rfl

theorem completeDrains_links (s : State) : s.completeDrains.links = s.links := rfl

theorem onlyLoss_completeCommit (s : State) : s.OnlyLoss s.completeCommit := by
  unfold State.completeCommit
  split
  · have h : s.OnlyLoss { s with phase := .idle } := rfl
    exact h.trans (onlyReports_raise _ _).loss
  · exact State.OnlyLoss.refl s

theorem completeCommit_links (s : State) : s.completeCommit.links = s.links := by
  unfold State.completeCommit
  split
  · rw [raise_links]
  · rfl

theorem onlyLoss_settle (s : State) : s.OnlyLoss s.settle :=
  (onlyLoss_completeDrains s).trans (onlyLoss_completeCommit _)

theorem settle_links (s : State) : s.settle.links = s.links := by
  unfold State.settle
  rw [completeCommit_links, completeDrains_links]

theorem lowerStale_eq (s : State) (g : Option Nat) : s.lowerStale g = { s with fence := (s.lowerStale g).fence } := by
  unfold State.lowerStale
  split <;> rfl

theorem onlyLoss_lowerStale (s : State) (g : Option Nat) : s.OnlyLoss (s.lowerStale g) := by
  unfold State.OnlyLoss
  rw [lowerStale_eq s g]

theorem lowerStales_eq (es : List OpenCheck) (s : State) :
    es.foldl (fun u e => u.lowerStale e.granule) s =
      { s with fence := (es.foldl (fun u e => u.lowerStale e.granule) s).fence } := by
  induction es generalizing s with
  | nil => rfl
  | cons e es ih =>
    simp only [List.foldl_cons]
    have a := lowerStale_eq s e.granule
    have b := ih (s.lowerStale e.granule)
    generalize es.foldl (fun u e => u.lowerStale e.granule) (s.lowerStale e.granule) = u at b ⊢
    rw [a] at b
    exact b

/-- The discarded checks of a link leave their entries, their reads and their stale counts. -/
theorem discardChecks_eq (s : State) (l : LinkId) : s.discardChecks l = { s with
    openChecks := s.openChecks.filter fun e => e.link != l
    oldEpochCount := s.oldEpochCount - (s.openChecks.filter fun e => e.link == l).countP OpenCheck.oldEpoch
    store := { s.store with verdictQ := s.store.verdictQ.filter fun r => r.1 != l }
    fence := (s.discardChecks l).fence } := by
  unfold State.discardChecks
  exact lowerStales_eq _ _

/-- Each discarded stale check lowers the stale count of its granule's entry by one (R64). -/
theorem lowerStales_fence (es : List OpenCheck) (s : State) :
    (es.foldl (fun u e => u.lowerStale e.granule) s).fence = s.fence.map fun e => { e with
      staleCount := e.staleCount - es.countP fun x => decide (x.granule = some e.granule) } := by
  induction es generalizing s with
  | nil => simp
  | cons c es ih =>
    rw [List.foldl_cons, ih]
    unfold State.lowerStale
    split
    · rename_i h
      simp [h]
    · rename_i g h
      unfold State.updFence
      simp only [List.map_map]
      refine List.map_congr_left fun e _ => ?_
      by_cases k : e.granule = g
      · simp only [Function.comp, List.countP_cons, h, k, decide_true, if_true]
        congr 1
        omega
      · simp only [Function.comp, if_neg k, List.countP_cons, h, Option.some.injEq, Ne.symm k, decide_false]
        simp

theorem discardChecks_fence (s : State) (l : LinkId) : (s.discardChecks l).fence = s.fence.map fun e => { e with
    staleCount := e.staleCount - s.openChecks.countP fun x =>
      decide (x.link = l ∧ x.stale = true ∧ x.granule = some e.granule) } := by
  unfold State.discardChecks
  rw [lowerStales_fence]
  refine List.map_congr_left fun e _ => ?_
  rw [List.countP_filter, List.countP_filter]
  congr 2
  refine List.countP_congr fun x _ => ?_
  simp
  tauto

theorem onlyLoss_discardChecks (s : State) (l : LinkId) : s.OnlyLoss (s.discardChecks l) := by
  unfold State.OnlyLoss
  rw [discardChecks_eq s l]

theorem placeSoftRead_eq (s : State) : s.placeSoftRead =
    { s with store := { s.store with softRead := s.placeSoftRead.store.softRead } } := by
  unfold State.placeSoftRead
  split <;> rfl

/-- The software requests of a link leave the software request queue. -/
theorem dropSoftware_eq (s : State) (l : LinkId) : s.dropSoftware l = { s with store := { s.store with
    softQueue := s.store.softQueue.filter fun r => r.link != l
    softRead := (s.dropSoftware l).store.softRead } } := by
  unfold State.dropSoftware
  exact placeSoftRead_eq _

/-- The read that stays queued when the requests of a link are removed (R17). -/
theorem dropSoftware_read (s : State) (l : LinkId) : (s.dropSoftware l).store.softRead =
    (match if s.store.softQueue.head?.any (fun r => r.link == l)
        then s.store.softRead.map (fun x => { x with live := false }) else s.store.softRead,
      s.store.softQueue.filter (fun r => r.link != l) with
    | none, r :: _ => some { granule := r.next, live := true }
    | read, _ => read) := by
  unfold State.dropSoftware State.placeSoftRead SoftRead.killed
  simp only
  split <;> simp_all

theorem onlyLoss_dropSoftware (s : State) (l : LinkId) : s.OnlyLoss (s.dropSoftware l) := by
  unfold State.OnlyLoss
  rw [dropSoftware_eq s l]

theorem onlyLoss_endSession (s : State) (l : LinkId) (kept : List OutMsg) : s.OnlyLoss (s.endSession l kept) := rfl

theorem othersSend_endSession (s : State) (l : LinkId) (kept : List OutMsg) : s.OthersSend (s.endSession l kept) l :=
  fun m h => by
    unfold State.endSession
    simp only
    rw [State.link_updLink_ne _ _ h]
    rfl

theorem onlyLoss_withdrawLink (s : State) (l : LinkId) : s.OnlyLoss (s.withdrawLink l) := rfl

theorem othersSend_withdrawLink (s : State) (l : LinkId) : s.OthersSend (s.withdrawLink l) l :=
  fun m h => by
    unfold State.withdrawLink
    simp only
    rw [State.link_updLink_ne _ _ h]
    rfl

theorem onlyLoss_linkLeaves (s : State) (l : LinkId) (kept : List OutMsg) : s.OnlyLoss (s.linkLeaves l kept) :=
  ((((onlyLoss_withdrawLink s l).trans (onlyLoss_discardChecks _ l)).trans (onlyLoss_dropSoftware _ l)).trans
    (chainsLinkLost_only _ l).1.loss).trans (onlyLoss_endSession _ l kept)

theorem othersSend_linkLeaves (s : State) (l : LinkId) (kept : List OutMsg) : s.OthersSend (s.linkLeaves l kept) l := by
  have d (t : State) : t.OthersSend (t.discardChecks l) l :=
    (State.LinksSend.of_eq (by rw [discardChecks_eq t l])).others l
  have e (t : State) : t.OthersSend (t.dropSoftware l) l :=
    (State.LinksSend.of_eq (by rw [dropSoftware_eq t l])).others l
  exact ((((othersSend_withdrawLink s l).trans (d _)).trans (e _)).trans
    ((chainsLinkLost_only _ l).2.1.others l)).trans (othersSend_endSession _ l kept)

/-- The links after one was withdrawn: its flush is cleared, and no path changes (R85, R87). -/
theorem withdrawLink_link (s : State) (l m : LinkId) : (s.withdrawLink l).link m =
    if m = l then { s.link l with flushOutstanding := false, flushTimer := none } else s.link m := by
  split
  · subst m
    exact State.link_updLink_same _ l _
  · rename_i h
    exact State.link_updLink_ne _ _ h

/-! ### What the loss of a link leaves -/

/-- No entry of the directory holds a link that was withdrawn. -/
theorem withdrawLink_holders (s : State) (l : LinkId) (g : Nat) :
    LinkSet.has ((s.withdrawLink l).holders g) l = false := by
  have key : ∀ w : Nat, ∀ d, (s.withdrawLink l).dirWay w = some d → LinkSet.has d.holders l = false := by
    intro w d h
    have m := Table.listed_of_get none _ w (some d) h (by simp)
    obtain ⟨q, _, e, n⟩ := Table.mem_mapListed _ _ _ _ m
    obtain ⟨_, v⟩ := q
    cases v with
    | none => simp at e
    | some x =>
      simp only [Prod.mk.injEq, Option.bind_some, dirEntryOf] at e
      obtain ⟨_, e⟩ := e
      split at e
      · simp at e
      · simp only [Option.some.injEq] at e
        rw [e]
        exact LinkSet.has_del_same _ _
  unfold State.holders
  split
  · split
    · exact key _ _ (by assumption)
    · exact LinkSet.has_zero l
  · exact LinkSet.has_zero l

theorem dropPending_pending (e : FenceEntry) (l : LinkId) :
    (e.dropPending l).pending = if LinkSet.has e.pending l then LinkSet.del e.pending l else e.pending := by
  unfold FenceEntry.dropPending
  split <;> rfl

/-- A fence entry after a link has left its pending holder set (R87). -/
theorem dropPending_eq (e : FenceEntry) (l : LinkId) : e.dropPending l = { e with
    pending := LinkSet.del e.pending l
    timer := if LinkSet.has e.pending l = true ∧ LinkSet.del e.pending l = 0 then none else e.timer } := by
  have same : ∀ (p : LinkSet) (l : LinkId), LinkSet.has p l = false → LinkSet.del p l = p := by decide
  unfold FenceEntry.dropPending
  split
  · rename_i h
    simp only [h, true_and]
  · rename_i h
    simp only [Bool.not_eq_true] at h
    simp [h, same]

/-- Links only fall out of the pending holder sets of the fence table. -/
theorem lowerStales_pending (es : List OpenCheck) (s : State) (l : LinkId)
    (h : ∀ e ∈ s.fence, LinkSet.has e.pending l = false) :
    ∀ e ∈ (es.foldl (fun u e => u.lowerStale e.granule) s).fence, LinkSet.has e.pending l = false := by
  induction es generalizing s with
  | nil => exact h
  | cons c es ih =>
    refine ih _ fun e m => ?_
    change e ∈ (s.lowerStale c.granule).fence at m
    unfold State.lowerStale at m
    split at m
    · exact h e m
    · unfold State.updFence at m
      simp only [List.mem_map] at m
      obtain ⟨x, hx, rfl⟩ := m
      split
      · exact h x hx
      · exact h x hx

/-- Nobody waits for the withdrawn link. -/
theorem discardChecks_pending (s : State) (l : LinkId) :
    ∀ e ∈ ((s.withdrawLink l).discardChecks l).fence, LinkSet.has e.pending l = false := by
  refine lowerStales_pending _ _ l fun e m => ?_
  have m' : e ∈ s.fence.map fun e : FenceEntry => e.dropPending l := m
  obtain ⟨x, _, rfl⟩ := List.mem_map.mp m'
  rw [dropPending_pending]
  split
  · exact LinkSet.has_del_same _ _
  · rename_i h
    simpa using h

/-- What the loss of a link leaves, before the drains and the commit flush that it completes. -/
theorem linkLeaves_cleared (s : State) (l : LinkId) (kept : List OutMsg) : s.Cleared (s.linkLeaves l kept) l := by
  have only := onlyLoss_linkLeaves s l kept
  have send := othersSend_linkLeaves s l kept
  have leave : s.linkLeaves l kept = ((((s.withdrawLink l).discardChecks l).dropSoftware l).chainsLinkLost
    l).endSession l kept := rfl
  have oc := chainsLinkLost_only (((s.withdrawLink l).discardChecks l).dropSoftware l) l
  have hd := discardChecks_eq (s.withdrawLink l) l
  have hs := dropSoftware_eq ((s.withdrawLink l).discardChecks l) l
  have pend := discardChecks_pending s l
  have hold := withdrawLink_holders s l
  have ways : s.TablesOk → ∀ w : Nat, (s.withdrawLink l).dirWay w = (s.dirWay w).bind fun d =>
      dirEntryOf d.granule (LinkSet.del d.holders l) :=
    fun ok w => Table.get_mapListed none _ s.directory w ok.2.2.1 rfl
  have w0 : (s.withdrawLink l).fence = s.fence.map fun e => e.dropPending l := rfl
  have hf := discardChecks_fence (s.withdrawLink l) l
  have hr := dropSoftware_read ((s.withdrawLink l).discardChecks l) l
  have w1 : (s.withdrawLink l).openChecks = s.openChecks := rfl
  have w2 : (s.withdrawLink l).oldEpochCount = s.oldEpochCount := rfl
  have w3 : (s.withdrawLink l).store = s.store := rfl
  have w4 : (s.withdrawLink l).directQueue = s.directQueue := rfl
  have w5 : (s.withdrawLink l).flushSet = LinkSet.del s.flushSet l := rfl
  have w6 : (s.withdrawLink l).chains = s.chains := rfl
  rw [leave] at only send ⊢
  clear leave
  generalize s.withdrawLink l = w at *
  generalize w.discardChecks l = d at *
  generalize d.dropSoftware l = u at *
  generalize u.chainsLinkLost l = v at *
  obtain ⟨o, _, ch⟩ := oc
  unfold State.OnlyChains State.OnlyReports at o
  have dir : (v.endSession l kept).directory = w.directory := by
    show v.directory = _
    rw [o]
    show u.directory = _
    rw [hs, hd]
  have chan (e : ChannelId) : u.chan e = s.chan e := by
    unfold State.chan
    rw [hs, hd]
    show w.chains[e] = _
    rw [w6]
  have ds : d.store = { w.store with verdictQ := w.store.verdictQ.filter fun r => r.1 != l } := by rw [hd]
  refine ⟨only, send, ?_, ?_, ?_, ?_, ?_, ?_, ?_, ?_, ?_, ?_, ?_, ?_⟩
  · show v.openChecks = _
    rw [o]
    show u.openChecks = _
    rw [hs, hd, w1]
  · show v.oldEpochCount = _
    rw [o]
    show u.oldEpochCount = _
    rw [hs, hd, w1, w2]
  · intro ok x
    have e : (v.endSession l kept).dirWay x = w.dirWay x := by
      unfold State.dirWay
      rw [dir]
    rw [e]
    exact ways ok x
  · intro g
    have e : (v.endSession l kept).holders g = w.holders g := by
      unfold State.holders State.dirFind State.dirWay
      rw [dir]
    rw [e]
    exact hold g
  · have e : (v.endSession l kept).fence = d.fence := by
      show v.fence = _
      rw [o]
      show u.fence = _
      rw [hs]
    rw [e]
    exact pend
  · show v.flushSet = _
    rw [o]
    show u.flushSet = _
    rw [hs, hd]
    exact w5
  · show v.store.softQueue = _
    rw [o]
    show u.store.softQueue = _
    rw [hs, hd]
    show w.store.softQueue.filter _ = _
    rw [w3]
  · show v.directQueue.map _ = _
    rw [o]
    show u.directQueue.map _ = _
    rw [hs, hd]
    show w.directQueue.map _ = _
    rw [w4]
  · intro c n
    show v.chan c = _
    rw [ch c (by rw [chan]; exact n), chan]
  · show v.store.verdictQ = _
    rw [o]
    show u.store.verdictQ = _
    rw [hs, ds, w3]
  · show v.store.softRead = _
    rw [o]
    show u.store.softRead = _
    rw [hr, ds, w3]
    all_goals rfl
  · have e : (v.endSession l kept).fence = d.fence := by
      show v.fence = _
      rw [o]
      show u.fence = _
      rw [hs]
    rw [e, hf, w0, w1]
    simp only [List.map_map, Function.comp_def, dropPending_eq]

/-- What follows the loss of a link and touches the links' paths and the reports alone. -/
theorem State.Cleared.reports {s t u : State} {l : LinkId} (a : s.Cleared t l) (o : t.OnlyReports u)
    (b : t.OthersSend u l) : s.Cleared u l := by
  obtain ⟨a1, a2, a3, a4, a5, a6, a7, a8, a9, a10, a11⟩ := a
  refine ⟨a1.trans o.loss, a2.trans b, ?_⟩
  unfold State.OnlyReports at o
  rw [o]
  exact ⟨a3, a4, a5, a6, a7, a8, a9, a10, a11⟩

theorem completeDrains_pending (s : State) (l : LinkId) (h : ∀ e ∈ s.fence, LinkSet.has e.pending l = false) :
    ∀ e ∈ s.completeDrains.fence, LinkSet.has e.pending l = false := by
  intro e m
  have m' : e ∈ s.fence.map fun e => if e.drained then { e with phase := .finishing } else e := m
  obtain ⟨x, hx, rfl⟩ := List.mem_map.mp m'
  split
  · exact h x hx
  · exact h x hx

/-- The drains that an event completes change phases alone. -/
theorem completeDrains_phases (s : State) : s.completeDrains.fence.map (fun e => { e with phase := .fencing }) =
    s.fence.map fun e => { e with phase := .fencing } := by
  unfold State.completeDrains
  simp only [List.map_map]
  refine List.map_congr_left fun e _ => ?_
  simp only [Function.comp]
  split <;> rfl

/-- The drains and the commit flush that the loss of a link completes. -/
theorem State.Cleared.settle {s t : State} {l : LinkId} (a : s.Cleared t l) : s.Cleared t.settle l := by
  obtain ⟨a1, a2, a3, a4, a5, a6, a7, a8, a9, a10, a11, a12, a13, a14⟩ := a
  have d : s.Cleared t.completeDrains l :=
    ⟨a1.trans (onlyLoss_completeDrains t), a2.trans ((State.LinksSend.of_eq (completeDrains_links t)).others l),
      a3, a4, a5, a6, completeDrains_pending t l a7, a8, a9, a10, a11, a12, a13,
      (completeDrains_phases t).trans a14⟩
  unfold State.settle State.completeCommit
  split
  · obtain ⟨a1, a2, a3, a4, a5, a6, a7, a8, a9, a10, a11⟩ := d
    have e : s.Cleared { t.completeDrains with phase := .idle } l :=
      ⟨a1.trans (by unfold State.OnlyLoss; rfl), a2, a3, a4, a5, a6, a7, a8, a9, a10, a11⟩
    exact e.reports (onlyReports_raise _ _) ((State.LinksSend.of_eq (raise_links _ _)).others l)
  · exact d

theorem onlyReports_closeEvent (s : State) : s.OnlyReports s.closeEvent := by
  unfold State.OnlyReports
  rw [closeEvent_eq s]

/-- The end of the event that the loss of a link belongs to. -/
theorem State.Cleared.closeEvent {s t : State} {l : LinkId} (a : s.Cleared t l) : s.Cleared t.closeEvent l :=
  a.reports (onlyReports_closeEvent t) ((linksSend_closeEvent t).others l)

/-- What the lost link itself held does not matter to what its loss leaves. -/
theorem State.Cleared.before {s t : State} {l : LinkId} {f : Link → Link} (a : (s.updLink l f).Cleared t l) :
    s.Cleared t l := by
  obtain ⟨a1, a2, a3, a4, a5, a6, a7, a8, a9, a10, a11⟩ := a
  exact ⟨a1, fun m h => (a2 m h).trans (by rw [State.link_updLink_ne s f h]), a3, a4, a5, a6, a7, a8, a9, a10, a11⟩

/-- The lost link's own fields after its loss. -/
theorem linkLeaves_link (s : State) (l : LinkId) (kept : List OutMsg) : (s.linkLeaves l kept).link l =
    { s.link l with
      outbound := kept, held := [], announceTimer := none, flushOutstanding := false, flushTimer := none } := by
  have leave : s.linkLeaves l kept = ((((s.withdrawLink l).discardChecks l).dropSoftware l).chainsLinkLost
    l).endSession l kept := rfl
  have o := (chainsLinkLost_only (((s.withdrawLink l).discardChecks l).dropSoftware l) l).2.1 l
  have hd := discardChecks_eq (s.withdrawLink l) l
  have hs := dropSoftware_eq ((s.withdrawLink l).discardChecks l) l
  have hw : (s.withdrawLink l).link l = { s.link l with flushOutstanding := false, flushTimer := none } := by
    unfold State.withdrawLink
    simp only
    rw [State.link_updLink_same]
    rfl
  rw [leave]
  generalize s.withdrawLink l = w at *
  generalize w.discardChecks l = d at *
  generalize d.dropSoftware l = u at *
  generalize u.chainsLinkLost l = v at *
  have e : (v.endSession l kept).link l = { v.link l with outbound := kept, held := [], announceTimer := none } := by
    unfold State.endSession
    simp only
    rw [State.link_updLink_same]
    rfl
  have q : u.link l = w.link l := by
    unfold State.link
    rw [hs, hd]
  rw [e, o, q, hw]

/-- What a link that leaves takes with it, as whole states: before the channels that fetch on it act, and after
(R17, R67, R87, R131, R182). -/
theorem linkLeaves_eq (s : State) (l : LinkId) (kept : List OutMsg) :
    ∃ u : State, u = { s with
        links := u.links, directory := u.directory
        openChecks := s.openChecks.filter (fun x => x.link != l)
        oldEpochCount := s.oldEpochCount -
          s.openChecks.countP (fun x => decide (x.link = l ∧ x.oldEpoch = true))
        flushSet := LinkSet.del s.flushSet l
        fence := s.fence.map (fun e => { e with
          pending := LinkSet.del e.pending l
          timer := if LinkSet.has e.pending l = true ∧ LinkSet.del e.pending l = 0 then none
            else e.timer
          staleCount := e.staleCount - s.openChecks.countP
            (fun x => decide (x.link = l ∧ x.stale = true ∧ x.granule = some e.granule)) })
        store := { s.store with
          verdictQ := s.store.verdictQ.filter (fun n => n.1 != l)
          softQueue := s.store.softQueue.filter (fun r => r.link != l)
          softRead :=
            match if s.store.softQueue.head?.any (fun r => r.link == l)
                then s.store.softRead.map (fun x => { x with live := false }) else s.store.softRead,
              s.store.softQueue.filter (fun r => r.link != l) with
            | none, r :: _ => some { granule := r.next, live := true }
            | read, _ => read } } ∧
      (∀ m : LinkId, u.link m = if m = l
        then { s.link m with flushOutstanding := false, flushTimer := none } else s.link m) ∧
      (s.TablesOk → ∀ w : Nat, u.dirWay w = (s.dirWay w).bind fun d =>
        if LinkSet.del d.holders l = 0 then none
        else some { granule := d.granule, holders := LinkSet.del d.holders l }) ∧
      let x : State := u.chainsLinkLost l
      s.linkLeaves l kept = ({ x with directQueue := x.directQueue.map fun e =>
          if e.link = l then { e with inSession := false } else e } : State).setLink l
        { x.link l with outbound := kept, held := [], announceTimer := none } := by
  have leave : s.linkLeaves l kept = ((((s.withdrawLink l).discardChecks l).dropSoftware l).chainsLinkLost
    l).endSession l kept := rfl
  rw [leave]
  clear leave
  refine ⟨((s.withdrawLink l).discardChecks l).dropSoftware l, ?_, ?_, ?_, ?_⟩
  · have hd := discardChecks_eq (s.withdrawLink l) l
    have hs := dropSoftware_eq ((s.withdrawLink l).discardChecks l) l
    have hf := discardChecks_fence (s.withdrawLink l) l
    have hr := dropSoftware_read ((s.withdrawLink l).discardChecks l) l
    have hw : s.withdrawLink l = { s with
        links := (s.withdrawLink l).links, directory := (s.withdrawLink l).directory
        fence := s.fence.map (fun e => e.dropPending l), flushSet := LinkSet.del s.flushSet l } := rfl
    have c : (s.withdrawLink l).oldEpochCount -
        ((s.withdrawLink l).openChecks.filter fun e => e.link == l).countP OpenCheck.oldEpoch =
          s.oldEpochCount - s.openChecks.countP fun x => decide (x.link = l ∧ x.oldEpoch = true) := by
      show s.oldEpochCount - (s.openChecks.filter fun e => e.link == l).countP OpenCheck.oldEpoch = _
      rw [List.countP_filter]
      congr 1
      refine List.countP_congr fun x _ => ?_
      simp
      tauto
    rw [c] at hd
    generalize s.withdrawLink l = w at *
    rw [hf] at hd
    clear hf
    generalize w.discardChecks l = d at *
    rw [hr] at hs
    generalize d.dropSoftware l = u at *
    rw [hs, hd, hw]
    simp only [List.map_map, Function.comp_def, dropPending_eq]
  · intro m
    have hd := discardChecks_eq (s.withdrawLink l) l
    have hs := dropSoftware_eq ((s.withdrawLink l).discardChecks l) l
    have hw : (s.withdrawLink l).link m = if m = l
        then { s.link m with flushOutstanding := false, flushTimer := none } else s.link m := by
      rw [withdrawLink_link]
      split
      · subst m
        rfl
      · rfl
    rw [← hw]
    generalize s.withdrawLink l = w at *
    generalize w.discardChecks l = d at *
    generalize d.dropSoftware l = u at *
    unfold State.link
    rw [hs, hd]
  · intro ok n
    have hd := discardChecks_eq (s.withdrawLink l) l
    have hs := dropSoftware_eq ((s.withdrawLink l).discardChecks l) l
    have ways : (s.withdrawLink l).dirWay n = (s.dirWay n).bind fun d =>
      dirEntryOf d.granule (LinkSet.del d.holders l) := Table.get_mapListed none _ s.directory n ok.2.2.1 rfl
    have : (((s.withdrawLink l).discardChecks l).dropSoftware l).dirWay n = (s.withdrawLink l).dirWay n := by
      generalize s.withdrawLink l = w at *
      generalize w.discardChecks l = d at *
      generalize d.dropSoftware l = u at *
      unfold State.dirWay
      rw [hs, hd]
    rw [this, ways]
    rfl
  · intro x
    show x.endSession l kept = _
    clear_value x
    rfl

/-- A fault of a link in a session (R180). -/
theorem faultCore_eq (s : State) (l : LinkId) (cause : FaultCause) (counter : Option CounterType)
    (granule : Option Nat) :
    ((s.link l).state.inSession = false → s.faultCore l cause counter granule = s) ∧
    ((s.link l).state.inSession = true → s.faultCore l cause counter granule =
      (((s.setLink l { s.link l with state := .faulted, lastFault := some cause }).linkLeaves l
        []).storeEvent
          { time := s.timeBase, kind := .linkFault, link := some l, granule := granule, domain := none
            detail := .fault cause counter }).raise .linkEvent) := by
  unfold State.faultCore State.report
  refine ⟨fun h => by simp [h], fun h => ?_⟩
  simp only [h, if_true]
  have t : ∀ z : State, (z.linkLeaves l []).timeBase = z.timeBase := by
    intro z
    have := onlyLoss_linkLeaves z l []
    unfold State.OnlyLoss at this
    rw [this]
  rw [t]
  rfl

/-! ### Whole states after drains, statuses and results -/

/-- A failure given to the error capture changes the capture and its overflow count alone (R156). -/
theorem capture_eq (s : State) (g : Nat) (who : FoundBy) (img : Image) : s.capture g who img = { s with
    sweep := { s.sweep with
      capture := (s.capture g who img).sweep.capture, overflow := (s.capture g who img).sweep.overflow } } := by
  unfold State.capture
  dsimp only
  split <;> rename_i h <;> simp [h]

theorem raise_eq (s : State) (st : Status) : s.raise st = { s with reports := { s.reports with
    status := (s.raise st).reports.status, notifyDue := (s.raise st).reports.notifyDue } } := by
  unfold State.raise
  split <;> rfl

/-- What the drains and the commit flush that an event completes can change (R80, R144). -/
theorem settle_eq (s : State) : s.settle = { s with
    fence := s.settle.fence, phase := s.settle.phase
    store := { s.store with commandQ := s.settle.store.commandQ }
    reports := { s.reports with
      status := s.settle.reports.status, notifyDue := s.settle.reports.notifyDue } } := by
  unfold State.settle State.completeCommit
  split
  · have h := raise_eq { s.completeDrains with phase := .idle } .commitDone
    generalize State.raise { s.completeDrains with phase := .idle } .commitDone = u at h ⊢
    rw [h]
    rfl
  · rfl

/-- What the result of a step can change beside its source (R81, R93, R112, R123, R155). -/
def State.OnlyResult (s t : State) : Prop :=
  t = { s with
    links := t.links, directQueue := t.directQueue, chains := t.chains, retire := t.retire, domains := t.domains
    reports := { s.reports with
      q1 := t.reports.q1, status := t.reports.status, notifyDue := t.reports.notifyDue } }

theorem State.OnlyResult.refl (s : State) : s.OnlyResult s := rfl

theorem State.OnlyResult.trans {s t u : State} (a : s.OnlyResult t) (b : t.OnlyResult u) : s.OnlyResult u := by
  unfold State.OnlyResult at *
  rw [a] at b
  exact b

theorem State.OnlyChains.result {s t : State} (a : s.OnlyChains t) : s.OnlyResult t := by
  unfold State.OnlyChains State.OnlyReports State.OnlyResult at *
  rw [a]

theorem onlyResult_setDomain (s : State) (d : DomainNo) (e : DomainEntry) : s.OnlyResult (s.setDomain d e) := by
  unfold State.setDomain
  split <;> rfl

theorem onlyResult_retireTest (s : State) : s.OnlyResult s.retireTest := by
  have rep (n : Nat) : s.OnlyResult (if n = 0 then s
      else s.report .countResidue none none (some s.retire.domain) (.count n)) := by
    split
    · exact State.OnlyResult.refl s
    · exact (onlyReports_report ..).chains.result
  unfold State.retireTest
  simp only
  split
  · have step (t : State) : t.OnlyResult { t with retire := RetireScanner.reset } := rfl
    exact ((rep _).trans (onlyResult_setDomain ..)).trans ((step _).trans (onlyReports_raise ..).chains.result)
  · exact State.OnlyResult.refl s

theorem setDomain_links (s : State) (d : DomainNo) (e : DomainEntry) : (s.setDomain d e).links = s.links := by
  unfold State.setDomain
  split <;> rfl

theorem linksSend_retireTest (s : State) : s.LinksSend s.retireTest := by
  refine State.LinksSend.of_eq ?_
  unfold State.retireTest
  simp only
  split
  · rw [raise_links]
    show (State.setDomain _ _ _).links = _
    rw [setDomain_links]
    split
    · rfl
    · rw [report_links]
  · rfl

theorem onlyResult_directResult (s : State) (e : DirectEntry) (rest : List DirectEntry) :
    s.OnlyResult (s.directResult e rest) ∧ s.LinksSend (s.directResult e rest) := by
  have drop : s.OnlyResult { s with directQueue := rest } ∧ s.LinksSend { s with directQueue := rest } :=
    ⟨rfl, State.LinksSend.of_eq rfl⟩
  have sent (t : State) : t.OnlyResult (if t.isActive e.link && e.inSession then
      t.hand e.link (.commandReply e.reply) else t) ∧ t.LinksSend (if t.isActive e.link && e.inSession then
      t.hand e.link (.commandReply e.reply) else t) := by
    split
    · exact ⟨(onlyReports_hand ..).chains.result, linksSend_hand t _ _⟩
    · exact ⟨State.OnlyResult.refl t, State.LinksSend.refl t⟩
  unfold State.directResult
  split
  · unfold State.finishDirect
    simp only
    split
    · exact ⟨(drop.1.trans (sent _).1).trans (onlyReports_report ..).chains.result,
        (drop.2.trans (sent _).2).trans (State.LinksSend.of_eq (report_links ..))⟩
    · exact ⟨drop.1.trans (sent _).1, drop.2.trans (sent _).2⟩
  · exact ⟨rfl, State.LinksSend.of_eq rfl⟩

/-- What the result of a step changes. -/
theorem onlyResult_stepResult (s : State) (src : StepSource) (g : Nat) (r : Option FailReason) :
    s.OnlyResult (s.stepResult src g r) ∧ s.LinksSend (s.stepResult src g r) := by
  unfold State.stepResult
  split
  · split
    · exact onlyResult_directResult ..
    · exact ⟨State.OnlyResult.refl s, State.LinksSend.refl s⟩
  · exact ⟨State.OnlyChains.result (State.OnlyChannel.trans (onlyChannel_updChan s _ _)
        (onlyChannel_settleChannel _ _)).1, (linksSend_updChan s _ _).trans (onlyChannel_settleChannel _ _).2.1⟩
  · have step (n : Nat) : s.OnlyResult { s with retire := { s.retire with stepsInFence := n } } := rfl
    have same (n : Nat) : s.LinksSend { s with retire := { s.retire with stepsInFence := n } } :=
      State.LinksSend.of_eq rfl
    simp only
    split
    · exact ⟨((step _).trans (onlyReports_report ..).chains.result).trans (onlyResult_retireTest _),
        ((same _).trans (State.LinksSend.of_eq (report_links ..))).trans (linksSend_retireTest _)⟩
    · exact ⟨(step _).trans (onlyResult_retireTest _), (same _).trans (linksSend_retireTest _)⟩
  · exact ⟨State.OnlyResult.refl s, State.LinksSend.refl s⟩

theorem freeFence_eq (s : State) (g : Nat) : s.freeFence g = { s with
    fence := s.fence.filter fun e => e.granule != g, retire := (s.freeFence g).retire
    store := { s.store with retireQ := (s.freeFence g).store.retireQ } } := by
  unfold State.freeFence
  simp only
  split <;> rfl

/-! ### What an event completes -/

/-- When the drain of an entry is complete (R80). -/
theorem drained_iff (e : FenceEntry) : e.drained =
    decide (e.phase = .revoking ∧ e.consulted = true ∧ e.pending = 0 ∧ e.staleCount = 0) := by
  unfold FenceEntry.drained
  cases e.phase <;> cases e.consulted <;> simp [Bool.decide_and, beq_eq_decide]

/-- What storing a denial does (R161 to R163, R167): its queue, the violation of its domain, and the status it may
raise. -/
theorem storeDenial_eq (s : State) (r : DenialRecord) : s.storeDenial r =
    let t : State := { s with reports := { s.reports with
      q0 := (s.reports.q0.push r).1, violations := (s.countViolation r.domain).reports.violations } }
    match (s.reports.q0.push r).2 with
    | none => t.raise .q0Lost
    | some _ => if s.reports.q0.rises then t.raise .q0Watermark else t := by
  unfold State.storeDenial
  cases r.domain <;> rfl

/-- The entry of a domain but 0 as it is stored (R106). -/
theorem setDomain_of_ne (s : State) (d : DomainNo) (e : DomainEntry) (h : d ≠ 0) : s.setDomain d e =
    { s with domains := Table.set { state := .absent, owned := 0 } s.domains d.toNat e } := if_neg h

/-- The commit flush that an event completes, after its drains (R144). -/
theorem settle_done (s : State) (h : s.phase = .flushing ∧ s.flushSet = 0 ∧ s.oldEpochCount = 0) :
    s.settle = ({ s.completeDrains with phase := .idle } : State).raise .commitDone := if_pos h

/-- A commit flush that an event does not complete stays as it was (R144). -/
theorem settle_waits (s : State) (h : ¬ (s.phase = .flushing ∧ s.flushSet = 0 ∧ s.oldEpochCount = 0)) :
    s.settle = s.completeDrains := if_neg h

/-- What the drains and the commit flush that an event completes leave (R80, R144). -/
theorem settle_effect (s : State) :
    let ends : Prop := s.phase = .flushing ∧ s.flushSet = 0 ∧ s.oldEpochCount = 0
    s.settle.phase = (if ends then .idle else s.phase) ∧
      s.settle.reports.status =
        (if ends then s.reports.status ||| Status.commitDone.mask else s.reports.status) ∧
      s.settle.fence = s.completeDrains.fence ∧ s.settle.store = s.completeDrains.store := by
  intro ends
  by_cases h : ends
  · rw [if_pos h, if_pos h, settle_done s h]
    exact ⟨by rw [raise_eq], raise_status _ _, by rw [raise_eq], by rw [raise_eq]⟩
  · rw [if_neg h, if_neg h, settle_waits s h]
    exact ⟨rfl, rfl, rfl, rfl⟩

/-- A part of an event that completes no drain and no commit flush: phases and final writes stay (R80, R144). -/
def State.DrainsWait (s t : State) : Prop :=
  t.phase = s.phase ∧ t.store.commandQ = s.store.commandQ ∧
    ∀ g : Nat, (t.fenceOf g).map FenceEntry.phase = (s.fenceOf g).map FenceEntry.phase

theorem State.DrainsWait.refl (s : State) : s.DrainsWait s := ⟨rfl, rfl, fun _ => rfl⟩

theorem State.DrainsWait.trans {s t u : State} (a : s.DrainsWait t) (b : t.DrainsWait u) : s.DrainsWait u :=
  ⟨b.1.trans a.1, b.2.1.trans a.2.1, fun g => (b.2.2 g).trans (a.2.2 g)⟩

/-- A change of fence entries that keeps their granules and phases. -/
theorem drainsWait_fenceMap {s t : State} (f : FenceEntry → FenceEntry) (p : t.phase = s.phase)
    (q : t.store.commandQ = s.store.commandQ) (h : t.fence = s.fence.map f)
    (k : ∀ e, (f e).granule = e.granule ∧ (f e).phase = e.phase) : s.DrainsWait t := by
  refine ⟨p, q, fun g => ?_⟩
  unfold State.fenceOf
  rw [h, List.find?_map]
  have c : ((fun e : FenceEntry => e.granule == g) ∘ f) = fun e => e.granule == g := by
    funext e
    simp [(k e).1]
  rw [c]
  cases List.find? (fun e => e.granule == g) s.fence with
  | none => rfl
  | some e => exact congrArg some (k e).2

theorem drainsWait_lowerStale (s : State) (g : Option Nat) : s.DrainsWait (s.lowerStale g) := by
  unfold State.lowerStale
  split
  · exact State.DrainsWait.refl s
  · rename_i i
    refine drainsWait_fenceMap (s := s)
      (fun e => if e.granule = i then { e with staleCount := e.staleCount - 1 } else e) rfl rfl rfl ?_
    intro e
    split <;> exact ⟨rfl, rfl⟩

theorem drainsWait_lowerStales (es : List OpenCheck) (s : State) :
    s.DrainsWait (es.foldl (fun u e => u.lowerStale e.granule) s) := by
  induction es generalizing s with
  | nil => exact State.DrainsWait.refl s
  | cons e es ih => exact (drainsWait_lowerStale s e.granule).trans (ih _)

theorem drainsWait_withdrawLink (s : State) (l : LinkId) : s.DrainsWait (s.withdrawLink l) := by
  refine drainsWait_fenceMap (s := s) (fun e => e.dropPending l) rfl rfl rfl fun e => ?_
  unfold FenceEntry.dropPending
  split <;> exact ⟨rfl, rfl⟩

theorem drainsWait_onlyChains {s t : State} (h : s.OnlyChains t) : s.DrainsWait t := by
  unfold State.OnlyChains at h
  unfold State.OnlyReports at h
  rw [h]
  exact State.DrainsWait.refl s

/-- The loss of a link completes nothing of itself. -/
theorem drainsWait_linkLeaves (s : State) (l : LinkId) (kept : List OutMsg) :
    s.DrainsWait (s.linkLeaves l kept) := by
  have d (t : State) : t.DrainsWait (t.discardChecks l) := by
    unfold State.discardChecks
    exact (State.DrainsWait.refl t).trans (drainsWait_lowerStales _ _)
  have p (t : State) : t.DrainsWait (t.dropSoftware l) := by
    rw [dropSoftware_eq]
    exact State.DrainsWait.refl t
  have e (t : State) : t.DrainsWait (t.endSession l kept) := State.DrainsWait.refl t
  exact ((((drainsWait_withdrawLink s l).trans (d _)).trans (p _)).trans
    (drainsWait_onlyChains (chainsLinkLost_only _ l).1)).trans (e _)

theorem drainsWait_onlyReports {s t : State} (h : s.OnlyReports t) : s.DrainsWait t :=
  drainsWait_onlyChains h.chains

theorem drainsWait_faultCore (s : State) (l : LinkId) (x : FaultCause) (c : Option CounterType)
    (g : Option Nat) : s.DrainsWait (s.faultCore l x c g) := by
  unfold State.faultCore
  split
  · have f : s.DrainsWait (s.updLink l fun k => { k with state := .faulted, lastFault := some x }) :=
      State.DrainsWait.refl s
    exact ((f.trans (drainsWait_linkLeaves _ l [])).trans (drainsWait_onlyReports (onlyReports_report ..))).trans
      (drainsWait_onlyReports (onlyReports_raise ..))
  · exact State.DrainsWait.refl s

/-- An event whose last acts are the drains and the commit flush it completes (R80, R144). -/
theorem settles_of_drainsWait {s u : State} (h : s.DrainsWait u) : s.Settles u.settle.closeEvent := by
  refine ⟨u, rfl, h.1, h.2.1, h.2.2, ?_, ?_⟩
  · rw [closeEvent_eq, settle_eq]
  · rw [closeEvent_eq, settle_eq]

/-- The flushes of a commit switch touch links alone (R141). -/
theorem flushActive_effect (s : State) : s.flushActive.phase = s.phase ∧ s.flushActive.flushSet = s.flushSet ∧
    s.flushActive.oldEpochCount = s.oldEpochCount ∧ s.flushActive.reports.status = s.reports.status := by
  unfold State.flushActive
  generalize allLinks = ls
  induction ls generalizing s with
  | nil => exact ⟨rfl, rfl, rfl, rfl⟩
  | cons a b ih =>
    rw [List.foldl_cons]
    obtain ⟨i1, i2, i3, i4⟩ := ih (if s.isActive a then s.flushDue a else s)
    rw [i1, i2, i3, i4]
    unfold State.flushDue
    split
    · split <;> exact ⟨rfl, rfl, rfl, rfl⟩
    · exact ⟨rfl, rfl, rfl, rfl⟩

/-- The commit flush of a switch that waits for nothing is complete in its event, with COMMIT_DONE (R141, R144). -/
theorem commitSwitch_status (s : State) : s.commitSwitch.reports.status =
    (if s.commitSwitch.flushSet = 0 ∧ s.openChecks = [] then s.reports.status ||| Status.commitDone.mask
     else s.reports.status) := by
  have start : ∃ z : State, z.phase = .flushing ∧ z.oldEpochCount = s.openChecks.length ∧
      z.reports.status = s.reports.status ∧ s.commitSwitch = z.flushActive.completeCommit := by
    refine ⟨{ s with
      active := s.shadow, epoch := s.epoch + 1, openChecks := s.openChecks.map OpenCheck.markOld
      oldEpochCount := s.openChecks.length, flushSet := s.commitSet, phase := .flushing }, ?_, ?_, ?_, ?_⟩
    · with_reducible rfl
    · with_reducible rfl
    · with_reducible rfl
    · unfold State.commitSwitch
      with_reducible rfl
  obtain ⟨z, z1, z2, z3, e⟩ := start
  obtain ⟨i1, i2, i3, i4⟩ := flushActive_effect z
  rw [e]
  generalize z.flushActive = y at *
  have keep (x : State) (st : Status) : (x.raise st).flushSet = x.flushSet := by rw [raise_eq]
  unfold State.completeCommit
  rw [i1, i2, i3, z1, z2]
  simp only [true_and, List.length_eq_zero_iff]
  by_cases h : z.flushSet = 0 ∧ s.openChecks = []
  · rw [if_pos h, raise_status, keep, if_pos h]
    show y.reports.status ||| _ = _
    rw [i4, z3]
  · rw [if_neg h, if_neg (by rw [i2]; exact h), i4, z3]

/-- An allocation finds a source whenever one is ready (R95). -/
theorem chosen_of_ready (s : State) (src : StepSource) (p : Nat × StepKind) (h : s.readyStep src = some p) :
    s.chosen ≠ none := by
  intro n
  unfold State.chosen at n
  rw [List.findSome?_eq_none_iff] at n
  have all (q r : StepSource) : r ∈ q.cycle := by
    rcases q with _ | c | _ | _ <;> rcases r with _ | d | _ | _ <;> (try revert c) <;> (try revert d) <;>
      decide
  simpa [h] using n src (all _ src)

end Sys2Proof.Machine
end

