-- ==== Sys2Proof/Laws/Keeps.lean ====
section
/-! SUPPORT. What the shared operations keep. `Keeps s t` says once what all but a few operations have in common:
they leave the device mode, the policy copies, the epoch, the geometry, the tag DRAM, the timeouts and the command
queue alone, give no new fence entry, and keep the bounds of the report queues, the error counters, the owned
counts and the command lists. There is one lemma for each shared operation. -/

namespace Sys2Proof.Machine

/-- The common part of what operations keep. -/
structure Keeps (s t : State) : Prop where
  mode : t.mode = s.mode
  leadLink : t.leadLink = s.leadLink
  timeBase : t.timeBase = s.timeBase
  errorThreshold : t.errorThreshold = s.errorThreshold
  shadow : t.shadow = s.shadow
  active : t.active = s.active
  epoch : t.epoch = s.epoch
  dram : t.dram = s.dram
  revokeTimeout : t.revokeTimeout = s.revokeTimeout
  memoryTimeout : t.memoryTimeout = s.memoryTimeout
  pending : t.pending = s.pending
  geometry : t.store.geometry = s.store.geometry
  fence : (t.fence.map FenceEntry.granule).Sublist (s.fence.map FenceEntry.granule)
  queues : s.QueuesOk → t.QueuesOk
  counters : s.CountersOk → t.CountersOk
  owned : s.OwnedOk → t.OwnedOk
  lists : s.ListsOk → t.ListsOk
  directory : ∀ x, s.DirectoryBut x → t.DirectoryBut x

theorem Keeps.refl (s : State) : Keeps s s := by
  constructor <;> first | rfl | exact id | exact fun _ => id

theorem Keeps.trans {s t u : State} (a : Keeps s t) (b : Keeps t u) : Keeps s u where
  mode := b.mode.trans a.mode
  leadLink := b.leadLink.trans a.leadLink
  timeBase := b.timeBase.trans a.timeBase
  errorThreshold := b.errorThreshold.trans a.errorThreshold
  shadow := b.shadow.trans a.shadow
  active := b.active.trans a.active
  epoch := b.epoch.trans a.epoch
  dram := b.dram.trans a.dram
  revokeTimeout := b.revokeTimeout.trans a.revokeTimeout
  memoryTimeout := b.memoryTimeout.trans a.memoryTimeout
  pending := b.pending.trans a.pending
  geometry := b.geometry.trans a.geometry
  fence := b.fence.trans a.fence
  queues := b.queues ∘ a.queues
  counters := b.counters ∘ a.counters
  owned := b.owned ∘ a.owned
  lists := b.lists ∘ a.lists
  directory := fun x => b.directory x ∘ a.directory x

/-- A fold of operations that keep. -/
theorem Keeps.foldl {α : Type} (f : State → α → State) (h : ∀ s a, Keeps s (f s a)) (xs : List α) (s : State) :
    Keeps s (xs.foldl f s) := by
  induction xs generalizing s with
  | nil => exact Keeps.refl s
  | cons x xs ih => exact (h s x).trans (ih (f s x))

/-- The capacity follows from the geometry. -/
theorem Keeps.capacity {s t : State} (h : Keeps s t) : t.capacity = s.capacity := by
  unfold State.capacity; rw [h.geometry]

/-! ### Links and the outbound path -/

/-- A change of a link that keeps its counters, and ACTIVE or HELD if it was. -/
theorem keeps_updLinkTo (s : State) (l : LinkId) (f : Link → Link) (h : ∀ k, (f k).counters = k.counters)
    (st : (s.link l).state.Serving → (f (s.link l)).state.Serving) : Keeps s (s.updLink l f) := by
  constructor <;> first | rfl | exact id | skip
  · intro ok m t
    rw [State.link_updLink_field s Link.counters l m f (h _)]
    exact ok m t
  · refine fun x ok => ok.links rfl fun m a => a.imp_right fun b => ?_
    by_cases e : m = l
    · subst e
      rw [State.link_updLink_same]
      exact st b
    · rw [State.link_updLink_ne s _ e]
      exact b

/-- A change of a link that keeps its counters and its state. -/
theorem keeps_updLink (s : State) (l : LinkId) (f : Link → Link)
    (h : ∀ k, (f k).counters = k.counters ∧ (f k).state = k.state) : Keeps s (s.updLink l f) :=
  keeps_updLinkTo s l f (fun k => (h k).1) fun a => (h _).2.symm ▸ a

theorem keeps_hand (s : State) (l : LinkId) (m : OutMsg) : Keeps s (s.hand l m) :=
  keeps_updLink s l _ fun _ => ⟨rfl, rfl⟩

theorem keeps_updChan (s : State) (c : ChannelId) (f : Channel → Channel) : Keeps s (s.updChan c f) := by
  constructor <;> first | rfl | exact id | exact fun _ => id

theorem keeps_refuse (s : State) (l : LinkId) (k : TagKind) (t : Nat) (r : RefuseReason) :
    Keeps s (s.refuse l k t r) := keeps_hand s l _

/-! ### Statuses and reports -/

theorem keeps_raise (s : State) (st : Status) : Keeps s (s.raise st) := by
  unfold State.raise
  split
  · exact Keeps.refl s
  · constructor <;> first | rfl | exact id | exact fun _ => id

theorem keeps_notifyLink (s : State) (l : LinkId) : Keeps s (s.notifyLink l) := by
  unfold State.notifyLink
  split
  · exact keeps_updLink s l _ fun _ => ⟨rfl, rfl⟩
  · exact Keeps.refl s

theorem keeps_closeEvent (s : State) : Keeps s s.closeEvent := by
  unfold State.closeEvent
  split
  · exact Keeps.refl s
  · refine (Keeps.foldl State.notifyLink keeps_notifyLink allLinks s).trans ?_
    constructor <;> first | rfl | exact id | exact fun _ => id

/-- A store or a loss keeps a queue's bounds and its size (R158, R161). -/
theorem push_ok {α : Type} (q : ReportQueue α) (r : α) (h : QueueOk q) :
    QueueOk (q.push r).1 ∧ (q.push r).1.size = q.size := by
  obtain ⟨hf, hg⟩ := h
  unfold ReportQueue.push
  split
  · rename_i lt
    refine ⟨⟨?_, hg⟩, rfl⟩
    simp only [ReportQueue.fill, List.length_append, List.length_singleton] at lt ⊢
    exact lt
  · rename_i ge
    split
    · exact ⟨⟨hf, hg⟩, rfl⟩
    · rename_i pos
      cases q.mode with
      | blocking => exact ⟨⟨hf, hg⟩, rfl⟩
      | overwrite =>
        refine ⟨⟨?_, Or.inl (Nat.mod_lt _ (Nat.pos_of_ne_zero pos))⟩, rfl⟩
        simp only [ReportQueue.fill, List.length_append, List.length_tail, List.length_singleton]
          at hf ge ⊢
        omega

theorem keeps_storeEvent (s : State) (r : EventRecord) : Keeps s (s.storeEvent r) := by
  have base : Keeps s { s with reports := { s.reports with q1 := (s.reports.q1.push r).1 } } := by
    constructor <;> first | rfl | exact id | exact fun _ => id | skip
    rintro ⟨h0, h1, hs⟩
    have := push_ok s.reports.q1 r h1
    refine ⟨h0, this.1, ?_⟩
    simp only [this.2]
    exact hs
  unfold State.storeEvent
  simp only
  split
  · exact base.trans (keeps_raise _ _)
  · split
    · exact base.trans (keeps_raise _ _)
    · exact base

theorem keeps_report (s : State) (k : EventKind) (l : Option LinkId) (g : Option Nat) (d : Option DomainNo)
    (x : EventDetail) : Keeps s (s.report k l g d x) := keeps_storeEvent s _

theorem keeps_setViolation (s : State) (d : Nat) (v : Violation) : Keeps s (s.setViolation d v) := by
  constructor <;> first | rfl | exact id | exact fun _ => id

theorem keeps_countViolation (s : State) (d : Option DomainNo) : Keeps s (s.countViolation d) := by
  cases d with
  | none => exact Keeps.refl s
  | some d => exact keeps_setViolation s _ _

theorem keeps_storeDenial (s : State) (r : DenialRecord) : Keeps s (s.storeDenial r) := by
  have base : Keeps s { s with reports := { s.reports with q0 := (s.reports.q0.push r).1 } } := by
    constructor <;> first | rfl | exact id | exact fun _ => id | skip
    rintro ⟨h0, h1, hs⟩
    have := push_ok s.reports.q0 r h0
    refine ⟨this.1, h1, ?_⟩
    simp only [this.2]
    exact hs
  have base2 := base.trans (keeps_countViolation _ r.domain)
  unfold State.storeDenial
  simp only
  split
  · exact base2.trans (keeps_raise _ _)
  · split
    · exact base2.trans (keeps_raise _ _)
    · exact base2

theorem keeps_writeWatch (s : State) (w : WatchReport) : Keeps s (s.writeWatch w) := by
  refine Keeps.trans (t := { s with watchReport := some w }) ?_ (keeps_raise _ _)
  constructor <;> first | rfl | exact id | exact fun _ => id

/-! ### Quarantine requests and the capture -/

theorem keeps_fileRequest (s : State) (g : Nat) : Keeps s (s.fileRequest g) := by
  unfold State.fileRequest
  split
  · exact Keeps.refl s
  · rename_i new
    split
    · exact Keeps.refl s
    · rename_i room
      constructor <;> first | rfl | exact id | exact fun _ => id | skip
      rintro ⟨hd, hq, hn⟩
      refine ⟨hd, ?_, ?_⟩
      · simp only [List.length_append, List.length_singleton]
        omega
      · have : g ∉ s.sweep.requests := by
          intro m
          exact new (by simp [m])
        exact List.nodup_append.2 ⟨hn, by simp, by
          intro a ha b hb e
          simp only [List.mem_singleton] at hb
          exact this (hb ▸ e ▸ ha)⟩

theorem keeps_capture (s : State) (g : Nat) (f : FoundBy) (img : Image) : Keeps s (s.capture g f img) := by
  unfold State.capture
  cases s.sweep.capture <;>
    constructor <;> first | rfl | exact id | exact fun _ => id

theorem keeps_foundFailure (s : State) (g : Nat) (f : FoundBy) (img : Image) :
    Keeps s (s.foundFailure g f img) := (keeps_fileRequest s g).trans (keeps_capture _ g f img)

/-! ### Directory, fence table, arbiter -/

/-- Another directory, with the same links. -/
theorem keeps_directory (s t : State) (h : t = { s with directory := t.directory, directoryMisses := t.directoryMisses })
    (d : ∀ x, s.DirectoryBut x → t.DirectoryBut x) : Keeps s t := by
  rw [h] at d ⊢
  constructor <;> first | rfl | exact id | exact d

theorem keeps_recordGrant (s : State) (g : Nat) (l : LinkId) (a : (s.link l).state.Serving) :
    Keeps s (s.recordGrant g l).1 := by
  refine keeps_directory s _ ?_ fun x ok => ok.recordGrant g l a
  unfold State.recordGrant
  split
  · rfl
  · split <;> rfl

theorem keeps_dropHolder (s : State) (g : Nat) (l : LinkId) : Keeps s (s.dropHolder g l) := by
  refine keeps_directory s _ ?_ fun x ok => ok.dropHolder g l
  unfold State.dropHolder
  split <;> rfl

theorem keeps_freeGranule (s : State) (g : Nat) : Keeps s (s.freeGranule g) := by
  refine keeps_directory s _ ?_ fun x ok => ok.freeGranule g
  unfold State.freeGranule
  split <;> rfl

theorem keeps_dropAllHolders (s : State) (l : LinkId) : Keeps s (s.dropAllHolders l) :=
  keeps_directory s _ rfl fun _ ok => State.DirectoryBut.dropAllHolders l (ok.links rfl fun _ a =>
    a.imp_left Or.inl)

/-- A change of fence entries that keeps their granules. -/
theorem keeps_fenceMap (s : State) (f : FenceEntry → FenceEntry) (h : ∀ e, (f e).granule = e.granule) :
    Keeps s { s with fence := s.fence.map f } := by
  constructor <;> first | rfl | exact id | exact fun _ => id | skip
  have : (s.fence.map f).map FenceEntry.granule = s.fence.map FenceEntry.granule := by
    simp [Function.comp_def, h]
  simp only [this]
  exact List.Sublist.refl _

theorem keeps_updFence (s : State) (g : Nat) (f : FenceEntry → FenceEntry)
    (h : ∀ e, (f e).granule = e.granule) : Keeps s (s.updFence g f) := by
  refine keeps_fenceMap s (fun e => if e.granule = g then f e else e) fun e => ?_
  split
  · exact h e
  · rfl

theorem keeps_freeFence (s : State) (g : Nat) : Keeps s (s.freeFence g) := by
  have base : Keeps s { s with fence := s.fence.filter fun e => e.granule != g } := by
    constructor <;> first | rfl | exact id | exact fun _ => id | skip
    exact (List.filter_sublist).map _
  unfold State.freeFence
  simp only
  split
  · refine base.trans ?_
    constructor <;> first | rfl | exact id | exact fun _ => id
  · exact base

theorem keeps_lowerStale (s : State) (g : Option Nat) : Keeps s (s.lowerStale g) := by
  cases g with
  | none => exact Keeps.refl s
  | some i => exact keeps_updFence s i _ fun _ => rfl

theorem FenceEntry.dropPending_granule (e : FenceEntry) (l : LinkId) : (e.dropPending l).granule = e.granule := by
  unfold FenceEntry.dropPending
  split <;> rfl

theorem keeps_completeDrains (s : State) : Keeps s s.completeDrains := by
  refine (keeps_fenceMap s (fun e => if e.drained then { e with phase := .finishing } else e)
    fun e => ?_).trans ?_
  · split <;> rfl
  · unfold State.completeDrains
    constructor <;> first | rfl | exact id | exact fun _ => id

theorem keeps_countGrant (s : State) (c : ArbClass) : Keeps s (s.countGrant c) := by
  constructor <;> first | rfl | exact id | exact fun _ => id

theorem keeps_placeCommand (s : State) (g : Nat) (a : StepAccess) : Keeps s (s.placeCommand g a) := by
  constructor <;> first | rfl | exact id | exact fun _ => id

theorem keeps_placeSoftRead (s : State) : Keeps s s.placeSoftRead := by
  unfold State.placeSoftRead
  split
  · constructor <;> first | rfl | exact id | exact fun _ => id
  · exact Keeps.refl s

/-! ### Chain channels -/

theorem keeps_sendMem (s : State) (c : ChannelId) (k : MemKind) (m : Byte → OutMsg) :
    Keeps s (s.sendMem c k m) := by
  unfold State.sendMem
  exact (keeps_hand s _ _).trans (keeps_updChan _ c _)

theorem keeps_fetchBlock (s : State) (c : ChannelId) : Keeps s (s.fetchBlock c) := by
  unfold State.fetchBlock
  exact (keeps_updChan s c _).trans (keeps_sendMem _ c _ _)

theorem keeps_postWrite (s : State) (c : ChannelId) (p : PostStage) (a : Quad) (d : List Byte) :
    Keeps s (s.postWrite c p a d) := by
  unfold State.postWrite
  exact (keeps_updChan s c _).trans (keeps_sendMem _ c _ _)

theorem keeps_restChannel (s : State) (c : ChannelId) (st : ChannelState) (x : ChainCause) (o : Nat) :
    Keeps s (s.restChannel c st x o) := by
  have base := (keeps_updChan s c fun k => k.atRest st x o).trans (keeps_raise _ (chainEnd c))
  unfold State.restChannel
  simp only
  split
  · exact base.trans (keeps_report _ _ _ _ _ _)
  · exact base

theorem keeps_leavePosting (s : State) (c : ChannelId) (b : Block) : Keeps s (s.leavePosting c b) := by
  have base := keeps_updChan s c fun k => { k with blockAddr := b.nextAddr, block := none }
  unfold State.leavePosting
  simp only
  split
  · exact keeps_restChannel s c _ _ _
  · split
    · exact base.trans (keeps_restChannel _ _ _ _ _)
    · split
      · exact base.trans (keeps_restChannel _ _ _ _ _)
      · split
        · exact base.trans (keeps_restChannel _ _ _ _ _)
        · exact base.trans (keeps_fetchBlock _ _)

theorem keeps_postNotify (s : State) (c : ChannelId) (b : Block) : Keeps s (s.postNotify c b) := by
  unfold State.postNotify
  split
  · split
    · exact keeps_postWrite s c _ _ _
    · exact keeps_leavePosting s c b
  · exact keeps_leavePosting s c b

theorem keeps_enterPosting (s : State) (c : ChannelId) (b : Block) : Keeps s (s.enterPosting c b) := by
  unfold State.enterPosting
  split
  · exact keeps_postWrite s c _ _ _
  · exact (keeps_updChan s c _).trans (keeps_postNotify _ c b)

theorem keeps_blockFailure (s : State) (c : ChannelId) (b : Block) : Keeps s (s.blockFailure c b) := by
  unfold State.blockFailure
  split
  · exact keeps_report s _ _ _ _ _
  · exact Keeps.refl s

theorem keeps_settleChannel (s : State) (c : ChannelId) : Keeps s (s.settleChannel c) := by
  unfold State.settleChannel
  simp only
  split
  · split
    · exact Keeps.refl s
    · split
      · split
        · exact (keeps_blockFailure s c _).trans (keeps_restChannel _ _ _ _ _)
        · exact (keeps_blockFailure s c _).trans (keeps_enterPosting _ _ _)
      · split
        · exact keeps_restChannel s c _ _ _
        · split
          · exact keeps_restChannel s c _ _ _
          · split
            · exact keeps_restChannel s c _ _ _
            · exact Keeps.refl s
  · exact Keeps.refl s

theorem keeps_chainLinkLost (s : State) (c : ChannelId) : Keeps s (s.chainLinkLost c) := by
  unfold State.chainLinkLost
  simp only
  split
  · exact Keeps.refl s
  · exact keeps_restChannel s c _ _ _
  · exact keeps_restChannel s c _ _ _
  · exact keeps_restChannel s c _ _ _
  · exact (keeps_updChan s c _).trans (keeps_settleChannel _ c)

theorem keeps_chainsLinkLost (s : State) (l : LinkId) : Keeps s (s.chainsLinkLost l) := by
  unfold State.chainsLinkLost
  simp only
  refine Keeps.foldl _ (fun t c => ?_) _ s
  split
  · exact keeps_chainLinkLost t c
  · exact Keeps.refl t

theorem keeps_takeBlock (s : State) (c : ChannelId) (d : Vector Byte 32) : Keeps s (s.takeBlock c d) := by
  have base := keeps_updChan s c fun k => { k with memRequest := none }
  unfold State.takeBlock
  simp only
  split
  · split
    · exact (base.trans (keeps_updChan _ c _)).trans (keeps_restChannel _ _ _ _ _)
    · exact (base.trans (keeps_updChan _ c _)).trans (keeps_updChan _ _ _)
  · split
    · exact base.trans (keeps_postWrite _ _ _ _ _)
    · exact base.trans (keeps_restChannel _ _ _ _ _)

theorem keeps_takeDone (s : State) (c : ChannelId) : Keeps s (s.takeDone c) := by
  have base := keeps_updChan s c fun k => { k with memRequest := none }
  unfold State.takeDone
  simp only
  split
  · exact base.trans (keeps_restChannel _ _ _ _ _)
  · exact base.trans (keeps_postNotify _ _ _)
  · exact base.trans (keeps_leavePosting _ _ _)
  · exact base

theorem keeps_memoryTimeoutOf (s : State) (c : ChannelId) : Keeps s (s.memoryTimeoutOf c) := by
  unfold State.memoryTimeoutOf
  split <;> first | exact keeps_restChannel s c _ _ _ | exact Keeps.refl s

/-! ### The loss of a link, faults, counters -/

theorem keeps_flushDue (s : State) (l : LinkId) : Keeps s (s.flushDue l) := by
  unfold State.flushDue
  split
  · exact Keeps.refl s
  · exact keeps_updLink s l _ fun _ => ⟨rfl, rfl⟩

theorem keeps_completeCommit (s : State) : Keeps s s.completeCommit := by
  unfold State.completeCommit
  split
  · refine Keeps.trans (t := { s with phase := .idle }) ?_ (keeps_raise _ _)
    constructor <;> first | rfl | exact id | exact fun _ => id
  · exact Keeps.refl s

theorem keeps_settle (s : State) : Keeps s s.settle :=
  (keeps_completeDrains s).trans (keeps_completeCommit _)

theorem keeps_discardChecks (s : State) (l : LinkId) : Keeps s (s.discardChecks l) := by
  unfold State.discardChecks
  simp only
  refine Keeps.trans ?_ (Keeps.foldl _ (fun u e => keeps_lowerStale u (OpenCheck.granule e)) _ _)
  constructor <;> first | rfl | exact id | exact fun _ => id

theorem keeps_dropSoftware (s : State) (l : LinkId) : Keeps s (s.dropSoftware l) := by
  unfold State.dropSoftware
  simp only
  refine Keeps.trans ?_ (keeps_placeSoftRead _)
  constructor <;> first | rfl | exact id | exact fun _ => id

theorem keeps_endSession (s : State) (l : LinkId) (kept : List OutMsg) : Keeps s (s.endSession l kept) := by
  unfold State.endSession
  simp only
  refine Keeps.trans ?_ (keeps_updLink _ l _ fun _ => ⟨rfl, rfl⟩)
  constructor <;> first | rfl | exact id | exact fun _ => id | skip
  rintro ⟨hd, hq, hn⟩
  exact ⟨by simpa using hd, hq, hn⟩

theorem keeps_withdrawLink (s : State) (l : LinkId) : Keeps s (s.withdrawLink l) := by
  refine (keeps_dropAllHolders s l).trans ?_
  refine (keeps_fenceMap _ (fun e => e.dropPending l) fun e => e.dropPending_granule l).trans ?_
  unfold State.withdrawLink
  simp only
  refine Keeps.trans ?_ (keeps_updLink _ l _ fun _ => ⟨rfl, rfl⟩)
  constructor <;> first | rfl | exact id | exact fun _ => id

/-- A withdrawn link needs no exemption in the Grant Directory. -/
theorem withdrawLink_directory (s : State) (l : LinkId) (x : LinkId → Prop)
    (ok : s.DirectoryBut fun m => x m ∨ m = l) : (s.withdrawLink l).DirectoryBut x := by
  refine (State.DirectoryBut.dropAllHolders l ok).links rfl fun m a => a.imp_right fun b => ?_
  unfold State.withdrawLink
  dsimp only
  rw [State.link_updLink_field _ Link.state l m _ rfl]
  exact b

/-- What follows the withdrawal when a link is lost. -/
theorem keeps_afterWithdrawal (s : State) (l : LinkId) (kept : List OutMsg) :
    Keeps s ((((s.discardChecks l).dropSoftware l).chainsLinkLost l).endSession l kept) :=
  (((keeps_discardChecks s l).trans (keeps_dropSoftware _ l)).trans
    (keeps_chainsLinkLost _ l)).trans (keeps_endSession _ l kept)

theorem keeps_linkLeaves (s : State) (l : LinkId) (kept : List OutMsg) : Keeps s (s.linkLeaves l kept) :=
  (keeps_withdrawLink s l).trans (keeps_afterWithdrawal _ l kept)

/-- A link that takes any other state as it is lost. -/
theorem keeps_leaves (s : State) (l : LinkId) (f : Link → Link) (kept : List OutMsg)
    (h : ∀ k, (f k).counters = k.counters) : Keeps s ((s.updLink l f).linkLeaves l kept) :=
  { keeps_linkLeaves (s.updLink l f) l kept with
    counters := fun ok => (keeps_linkLeaves (s.updLink l f) l kept).counters fun m t => by
      rw [State.link_updLink_field s Link.counters l m f (h _)]
      exact ok m t
    directory := fun x ok => (keeps_afterWithdrawal _ l kept).directory x <|
      withdrawLink_directory _ l x <| ok.links rfl fun m a => by
        by_cases e : m = l
        · exact Or.inl (Or.inr e)
        · rw [State.link_updLink_ne s _ e]
          exact a.imp_left Or.inl }

theorem keeps_faultCore (s : State) (l : LinkId) (x : FaultCause) (t : Option CounterType) (g : Option Nat) :
    Keeps s (s.faultCore l x t g) := by
  have gone := keeps_leaves s l (fun k => { k with state := .faulted, lastFault := some x }) [] fun _ => rfl
  have told := gone.trans (keeps_report _ .linkFault (some l) g none (.fault x t))
  unfold State.faultCore
  split
  · exact told.trans (keeps_raise _ .linkEvent)
  · exact Keeps.refl s

theorem keeps_faultLink (s : State) (l : LinkId) (x : FaultCause) (t : Option CounterType) :
    Keeps s (s.faultLink l x t) := (keeps_faultCore s l x t none).trans (keeps_settle _)

theorem keeps_refuseLink (s : State) (l : LinkId) (r : AnnounceResult) : Keeps s (s.refuseLink l r) := by
  unfold State.refuseLink
  exact (keeps_leaves s l (fun k => { k with state := .refused, lastReply := some r }) _ fun _ => rfl).trans
    (keeps_settle _)

theorem keeps_holdLink (s : State) (l : LinkId) : Keeps s (s.holdLink l) := by
  have base := keeps_updLinkTo s l (fun k => { k with state := .held }) (fun _ => rfl) fun _ => Or.inr rfl
  unfold State.holdLink
  exact (base.trans (keeps_flushDue _ l)).trans (keeps_chainsLinkLost _ l)

/-- An advance keeps a counter in 0 to 255 (R185). -/
theorem counterNext_le (w : Bool) (n : Nat) (h : n ≤ 255) : counterNext w n ≤ 255 := by
  unfold counterNext
  split
  · omega
  · split <;> omega

theorem Counters.get_set (c : Counters) (t u : CounterType) (v : Counter) :
    (c.set t v).get u = if u = t then v else c.get u := by
  cases t <;> cases u <;> rfl

/-- Writing one counter with a value in range. -/
theorem keeps_setCounter (s : State) (l : LinkId) (ty : CounterType) (c : Counter)
    (h : s.CountersOk → c.value ≤ 255) :
    Keeps s (s.updLink l fun k => { k with counters := k.counters.set ty c }) := by
  constructor <;> first | rfl | exact id | skip
  · intro ok m t
    by_cases e : m = l
    · subst e
      simp only [State.link_updLink_same, Counters.get_set]
      split
      · exact h ok
      · exact ok m t
    · rw [State.link_updLink_ne s _ e]
      exact ok m t
  · refine fun x ok => ok.links rfl fun m a => ?_
    rw [State.link_updLink_field s Link.state l m _ rfl]
    exact a

theorem keeps_countError (s : State) (l : LinkId) (ty : CounterType) : Keeps s (s.countError l ty) := by
  have base := fun (v : Counter) h => keeps_setCounter s l ty v h
  unfold State.countError
  simp only
  have hv : s.CountersOk →
      counterNext ((s.link l).errorMode.getLsbD (counterBit ty)) ((s.link l).counters.get ty).value ≤ 255 :=
    fun ok => counterNext_le _ _ (ok l ty)
  split
  · split
    · exact ((base _ hv).trans (keeps_raise _ _)).trans (keeps_faultLink _ _ _ _)
    · exact (base _ hv).trans (keeps_raise _ _)
  · exact base _ hv

theorem keeps_refuseTag (s : State) (l : LinkId) (k : TagKind) (t : Nat) (r : RefuseReason) :
    Keeps s (s.refuseTag l k t r) := (keeps_refuse s l k t r).trans (keeps_countError _ l _)

theorem keeps_authority (s : State) (h : MgmtHeader) : Keeps s (s.authority h).1 := by
  have watched : Keeps s (match (s.active.classify h.link h.source).watched with
      | none => s
      | some n => s.writeWatch
          { element := n, message := .management, link := h.link, source := h.source
            domain := (s.active.classify h.link h.source).result.domain?, placement := .none }) := by
    split
    · exact Keeps.refl s
    · exact keeps_writeWatch s _
  have refused := fun (d : Option DomainNo) (a : AuthDetail) =>
    (watched.trans (keeps_refuse _ h.link .management h.tag .notPlatform)).trans
      (keeps_report _ .authRefused (some h.link) none d (.auth a))
  unfold State.authority
  split
  · exact Keeps.refl s
  · simp only
    split
    · split
      · exact watched
      · exact refused _ _
    · exact refused _ _
    · exact refused _ _

/-- A management message keeps what its effect keeps. -/
theorem keeps_takeManaged (s : State) (h : MgmtHeader) (f : State → State) (k : ∀ t, Keeps s t → Keeps s (f t)) :
    Keeps s (s.takeManaged h f) := by
  unfold State.takeManaged
  split
  case h_2 | h_3 | h_4 =>
    split
    · exact keeps_refuseTag s _ _ _ _
    · split
      · exact keeps_refuseTag s _ _ _ _
      · split
        · have a := keeps_authority s h
          split
          · rename_i e; rw [e] at a; exact k _ a
          · rename_i e; rw [e] at a; exact a
        · exact keeps_refuse s _ _ _ _
  all_goals first | exact Keeps.refl s | exact keeps_countError s _ _

theorem keeps_takeControl (s : State) (h : MgmtHeader) (f : State → State × ControlOutcome)
    (k : ∀ t, Keeps t (f t).1) : Keeps s (s.takeControl h f) :=
  keeps_takeManaged s h _ fun t a => (a.trans (k t)).trans (keeps_hand _ _ _)

/-- A delivered frame keeps what its taking keeps. -/
theorem keeps_deliver (s : State) (l : LinkId) (i : Instr) (take : State → State) (k : Keeps s (take s)) :
    Keeps s (s.deliver l i take) := by
  unfold State.deliver
  split
  · split
    · exact keeps_updLink s l _ fun _ => ⟨rfl, rfl⟩
    · exact k.trans (keeps_closeEvent _)
  · exact Keeps.refl s

end Sys2Proof.Machine
end

