-- ==== Sys2Proof/Laws/Commands.lean ====
section
/-! SUPPORT. `Keeps` for the operations of the command families: the steps and their results, the taking of frames,
and the effects of control operations. The operations that change what `Keeps` speaks of (allocation, the record
writes, the commit switch, START, the parameter writes, the resets) have lemmas of their own here or none. -/

namespace Sys2Proof.Machine

/-! ### Domains, the scanner and the sweep -/

/-- A sparse table after a write holds the old entries and the one written. -/
theorem Table.mem_set {α : Type} [DecidableEq α] (d : α) (t : List (Nat × α)) (x : Nat) (v : α) (p : Nat × α)
    (h : p ∈ Table.set d t x v) : p ∈ t ∨ p = (x, v) := by
  induction t with
  | nil =>
    simp only [Table.set] at h
    split at h <;> simp_all
  | cons q rest ih =>
    obtain ⟨k, w⟩ := q
    simp only [Table.set] at h
    split at h
    · split at h <;> first | (simp_all; done) | (simp_all; tauto)
    · split at h
      · split at h <;> first | (simp_all; done) | (simp_all; tauto)
      · simp only [List.mem_cons] at h ⊢
        rcases h with h | h
        · exact Or.inl (Or.inl h)
        · rcases ih h with h | h
          · exact Or.inl (Or.inr h)
          · exact Or.inr h

/-- A domain entry whose count is within the capacity is stored. -/
theorem keeps_setDomain (s : State) (d : DomainNo) (e : DomainEntry)
    (h : s.OwnedOk → e.owned ≤ s.capacity) : Keeps s (s.setDomain d e) := by
  unfold State.setDomain
  split
  · exact Keeps.refl s
  · constructor <;> first | rfl | exact id | exact fun _ => id | skip
    intro ok p m
    rcases Table.mem_set _ _ _ _ _ m with m | m
    · exact ok p m
    · subst m
      exact h ok

/-- What a sparse table holds at a key is the default or a listed value. -/
theorem Table.get_mem {α : Type} (d : α) (t : List (Nat × α)) (x : Nat) :
    Table.get d t x = d ∨ (x, Table.get d t x) ∈ t := by
  induction t with
  | nil => exact Or.inl rfl
  | cons q rest ih =>
    obtain ⟨k, w⟩ := q
    simp only [Table.get]
    split
    · rename_i e; subst e; simp
    · rcases ih with ih | ih
      · exact Or.inl ih
      · exact Or.inr (List.mem_cons_of_mem _ ih)

theorem domainEntry_owned_le (s : State) (d : DomainNo) (ok : s.OwnedOk) :
    (s.domainEntry d).owned ≤ s.capacity := by
  unfold State.domainEntry
  split
  · exact Nat.zero_le _
  · rcases Table.get_mem ({ state := .absent, owned := 0 } : DomainEntry) s.domains d.toNat with h | h
    · rw [h]; exact Nat.zero_le _
    · exact ok _ h

theorem satInc_le (top n : Nat) (h : n ≤ top) : satInc top n ≤ top := by
  unfold satInc
  split <;> omega

theorem keeps_lowerOwned (s : State) (d : DomainNo) : Keeps s (s.lowerOwned d) :=
  keeps_setDomain s d _ fun ok => Nat.le_trans (Nat.sub_le _ _) (domainEntry_owned_le s d ok)

theorem keeps_raiseOwned (s : State) (d : DomainNo) : Keeps s (s.raiseOwned d) :=
  keeps_setDomain s d _ fun ok => satInc_le _ _ (domainEntry_owned_le s d ok)

theorem keeps_adjustOwned (s : State) (k : StepKind) (p : ReadRecord) (w : TagRecord) :
    Keeps s (s.adjustOwned k p w) := by
  unfold State.adjustOwned
  split
  · split
    · exact keeps_lowerOwned s _
    · exact Keeps.refl s
  · split
    · exact Keeps.refl s
    · simp only
      have low : Keeps s (match p.countedOwner with
          | some d => s.lowerOwned d
          | none => s) := by
        split
        · exact keeps_lowerOwned s _
        · exact Keeps.refl s
      split
      · exact low.trans (keeps_raiseOwned _ _)
      · exact low

theorem keeps_retireTest (s : State) : Keeps s s.retireTest := by
  unfold State.retireTest
  simp only
  split
  · have told : Keeps s (if (s.domainEntry s.retire.domain).owned = 0 then s
        else s.report .countResidue none none (some s.retire.domain)
          (.count (s.domainEntry s.retire.domain).owned)) := by
      split
      · exact Keeps.refl s
      · exact keeps_report s _ _ _ _ _
    have gone := told.trans (keeps_setDomain _ s.retire.domain { state := .absent, owned := 0 }
      fun _ => Nat.zero_le _)
    refine (gone.trans ?_).trans (keeps_raise _ _)
    constructor <;> first | rfl | exact id | exact fun _ => id
  · exact Keeps.refl s

theorem keeps_scannerAt (s : State) (p : Option (Nat × Nat)) : Keeps s (s.scannerAt p) := by
  unfold State.scannerAt
  split
  · constructor <;> first | rfl | exact id | exact fun _ => id
  · refine Keeps.trans ?_ (keeps_retireTest _)
    constructor <;> first | rfl | exact id | exact fun _ => id

theorem keeps_scannerMoves (s : State) : Keeps s s.scannerMoves := by
  unfold State.scannerMoves
  split
  · exact keeps_scannerAt s _
  · exact Keeps.refl s

theorem keeps_startRetire (s : State) (d : DomainNo) : Keeps s (s.startRetire d) := by
  unfold State.startRetire
  simp only
  have dom := keeps_setDomain s d { s.domainEntry d with state := .retiring }
    fun ok => domainEntry_owned_le s d ok
  refine (dom.trans ?_).trans (keeps_scannerAt _ _)
  constructor <;> first | rfl | exact id | exact fun _ => id

theorem keeps_sweepMoves (s : State) : Keeps s s.sweepMoves := by
  constructor <;> first | rfl | exact id | exact fun _ => id

/-! ### Results of steps -/

theorem keeps_finishDirect (s : State) (e : DirectEntry) : Keeps s (s.finishDirect e) := by
  have replied : Keeps s (if s.isActive e.link && e.inSession then s.hand e.link (.commandReply e.reply)
      else s) := by
    split
    · exact keeps_hand s _ _
    · exact Keeps.refl s
  unfold State.finishDirect
  simp only
  split
  · exact replied.trans (keeps_report _ _ _ _ _ _)
  · exact replied

/-- A direct command queue that is not longer. -/
theorem keeps_directQueue (s : State) (q : List DirectEntry) (h : q.length ≤ s.directQueue.length) :
    Keeps s { s with directQueue := q } := by
  constructor <;> first | rfl | exact id | exact fun _ => id | skip
  rintro ⟨hd, hq⟩
  exact ⟨Nat.le_trans h hd, hq⟩

theorem keeps_directResult (s : State) (e : DirectEntry) (rest : List DirectEntry)
    (h : rest.length + 1 ≤ s.directQueue.length) : Keeps s (s.directResult e rest) := by
  unfold State.directResult
  split
  · exact (keeps_directQueue s rest (by omega)).trans (keeps_finishDirect _ e)
  · exact keeps_directQueue s _ (by simpa using h)

theorem keeps_stepResult (s : State) (src : StepSource) (g : Nat) (r : Option FailReason) :
    Keeps s (s.stepResult src g r) := by
  unfold State.stepResult
  split
  · split
    · rename_i e rest hq
      exact keeps_directResult s _ rest (by simp [hq])
    · exact Keeps.refl s
  · exact (keeps_updChan s _ _).trans (keeps_settleChannel _ _)
  · simp only
    have low : Keeps s { s with retire := { s.retire with stepsInFence := s.retire.stepsInFence - 1 } } := by
      constructor <;> first | rfl | exact id | exact fun _ => id
    split
    · exact (low.trans (keeps_report _ _ _ _ _ _)).trans (keeps_retireTest _)
    · exact low.trans (keeps_retireTest _)
  · exact Keeps.refl s

theorem keeps_failStep (s : State) (e : FenceEntry) (r : FailReason) : Keeps s (s.failStep e r) :=
  (keeps_freeFence s _).trans (keeps_stepResult _ _ _ _)

theorem keeps_fileFailureOf (s : State) (k : StepKind) (g : Nat) (rec : ReadRecord) :
    Keeps s (s.fileFailureOf k g rec) := by
  unfold State.fileFailureOf
  split
  · exact Keeps.refl s
  · exact keeps_foundFailure s _ _ _
  · exact Keeps.refl s

theorem keeps_passStep (s : State) (e : FenceEntry) (rec : ReadRecord) : Keeps s (s.passStep e rec) := by
  unfold State.passStep
  refine Keeps.trans ?_ (keeps_placeCommand _ _ _)
  exact keeps_updFence s _ _ fun _ => rfl

theorem keeps_commandRead (s : State) (e : FenceEntry) : Keeps s (s.commandRead e) := by
  unfold State.commandRead
  simp only
  split
  · exact keeps_freeFence s _
  · exact keeps_passStep s e _
  · split
    · exact (keeps_fileFailureOf s _ _ _).trans (keeps_failStep _ _ _)
    · exact keeps_passStep s e _

theorem keeps_popCommand (s : State) : Keeps s s.popCommand := by
  constructor <;> first | rfl | exact id | exact fun _ => id

/-- The source's next step moves on without adding a fence entry. -/
theorem keeps_sourceMovesOn (s : State) (src : StepSource) : Keeps s (s.sourceMovesOn src) := by
  unfold State.sourceMovesOn
  split
  · split
    · rename_i e rest hq
      exact keeps_directQueue s _ (by simp [hq])
    · exact Keeps.refl s
  · exact keeps_updChan s _ _
  · refine Keeps.trans ?_ (keeps_scannerMoves _)
    constructor <;> first | rfl | exact id | exact fun _ => id
  · split
    · refine Keeps.trans ?_ (keeps_sweepMoves _)
      constructor <;> first | rfl | exact id | exact fun _ => id
    · constructor <;> first | rfl | exact id | exact fun _ => id | skip
      rintro ⟨hd, hq, hn⟩
      refine ⟨hd, ?_, hn.tail⟩
      simp only [List.length_tail]
      omega

/-! ### Frames without a management tag -/

theorem keeps_startAnnounceTimer (s : State) (l : LinkId) : Keeps s (s.startAnnounceTimer l) :=
  keeps_updLink s l _ fun _ => ⟨rfl, rfl⟩

theorem keeps_acceptAnnounce (s : State) (l : LinkId) (m : AnnounceMsg) (r : Role)
    (a : (s.link l).state = .announcing) : Keeps s (s.acceptAnnounce l m r) := by
  unfold State.acceptAnnounce
  dsimp only
  refine Keeps.trans ?_ (keeps_hand _ _ _)
  refine keeps_updLinkTo s l _ (fun _ => rfl) fun b => ?_
  rw [LinkState.Serving, a] at b
  rcases b with b | b <;> cases b

theorem keeps_badSum (s : State) (l : LinkId) : Keeps s (s.badSum l) := by
  unfold State.badSum
  refine Keeps.trans ?_ (keeps_countError _ _ _)
  refine Keeps.trans ?_ (keeps_hand _ _ _)
  refine (keeps_startAnnounceTimer s l).trans ?_
  exact keeps_updLink _ l _ fun _ => ⟨rfl, rfl⟩

theorem keeps_takeAnnounce (s : State) (l : LinkId) (m : AnnounceMsg) : Keeps s (s.takeAnnounce l m) := by
  unfold State.takeAnnounce
  repeat' split
  all_goals
    first
    | with_reducible exact keeps_acceptAnnounce s l m _ (by assumption)
    | with_reducible exact keeps_badSum s l
    | with_reducible exact keeps_refuseLink s l _
    | with_reducible exact keeps_countError s _ _
    | with_reducible exact Keeps.refl s

theorem keeps_takeRejected (s : State) (l : LinkId) (w : FrameFault) : Keeps s (s.takeRejected l w) := by
  unfold State.takeRejected
  split
  · exact keeps_countError s _ _
  · exact keeps_countError s _ _
  · exact keeps_refuseTag s _ _ _ _
  · split
    · exact keeps_countError s _ _
    · exact Keeps.refl s

theorem keeps_openCheck (s : State) (e : OpenCheck) : Keeps s (s.openCheck e) := by
  constructor <;> first | rfl | exact id | exact fun _ => id

theorem keeps_takeCheck (s : State) (l : LinkId) (m : CheckMsg) : Keeps s (s.takeCheck l m) := by
  unfold State.takeCheck
  split
  case h_2 | h_3 | h_4 =>
    split
    · exact keeps_refuseTag s _ _ _ _
    · split
      · exact keeps_refuseTag s _ _ _ _
      · exact keeps_openCheck s _
  all_goals first | exact keeps_countError s _ _ | exact Keeps.refl s

theorem keeps_takeDrop (s : State) (l : LinkId) (g : Nat) : Keeps s (s.takeDrop l g) := by
  unfold State.takeDrop
  split
  case h_2 | h_3 | h_4 =>
    split
    · exact Keeps.refl s
    · split
      · exact keeps_dropHolder s _ _
      · exact Keeps.refl s
  all_goals first | exact keeps_countError s _ _ | exact Keeps.refl s

theorem keeps_takeRevokeAck (s : State) (l : LinkId) (g : Nat) (n : Half) :
    Keeps s (s.takeRevokeAck l g n) := by
  unfold State.takeRevokeAck
  split
  case h_2 | h_3 | h_4 =>
    split
    · exact (keeps_updFence s g _ fun e => e.dropPending_granule l).trans (keeps_settle _)
    · exact keeps_countError s _ _
  all_goals first | exact keeps_countError s _ _ | exact Keeps.refl s

theorem keeps_takeFlushAck (s : State) (l : LinkId) : Keeps s (s.takeFlushAck l) := by
  unfold State.takeFlushAck
  split
  case h_2 | h_3 | h_4 =>
    split
    · exact (keeps_withdrawLink s l).trans (keeps_settle _)
    · exact keeps_countError s _ _
  all_goals first | exact keeps_countError s _ _ | exact Keeps.refl s

theorem keeps_takeMemData (s : State) (l : LinkId) (t : Byte) (d : Vector Byte 32) :
    Keeps s (s.takeMemData l t d) := by
  unfold State.takeMemData
  split
  case h_2 | h_3 | h_4 =>
    split
    · exact keeps_takeBlock s _ _
    · exact keeps_countError s _ _
  all_goals first | exact keeps_countError s _ _ | exact Keeps.refl s

theorem keeps_takeMemDone (s : State) (l : LinkId) (t : Byte) : Keeps s (s.takeMemDone l t) := by
  unfold State.takeMemDone
  split
  case h_2 | h_3 | h_4 =>
    split
    · exact keeps_takeDone s _
    · exact keeps_countError s _ _
  all_goals first | exact keeps_countError s _ _ | exact Keeps.refl s

/-! ### Other events of a link, a verdict and a fence entry -/

theorem keeps_loseSignal (s : State) (l : LinkId) : Keeps s (s.loseSignal l) := by
  unfold State.loseSignal
  simp only
  split
  · exact (keeps_leaves s l (fun k => { k with state := .down, outbound := [] }) [] fun _ => rfl).trans
      (keeps_settle _)
  · rename_i out
    refine keeps_updLinkTo s l (fun k => { k with state := .down, outbound := [] }) (fun _ => rfl) fun a => ?_
    rcases a with a | a <;> exact absurd (by rw [a]; rfl) out

theorem keeps_readForCheck (s : State) (e : OpenCheck) (g : Nat) : Keeps s (s.readForCheck e g) := by
  unfold State.readForCheck
  simp only
  have base (xs : List OpenCheck) : Keeps s { s with openChecks := xs } := by
    constructor <;> first | rfl | exact id | exact fun _ => id
  split
  · exact (base _).trans (keeps_foundFailure _ _ _ _)
  · exact base _

theorem keeps_watchCheck (s : State) (e : OpenCheck) (p : Placement) : Keeps s (s.watchCheck e p) := by
  unfold State.watchCheck
  split
  · exact Keeps.refl s
  · exact keeps_writeWatch s _

theorem keeps_logOutcome (s : State) (e : OpenCheck) (o : CheckOutcome) : Keeps s (s.logOutcome e o) := by
  unfold State.logOutcome
  split
  · split
    · exact (keeps_storeDenial s _).trans (keeps_watchCheck _ _ _)
    · exact keeps_watchCheck s _ _
  all_goals exact keeps_watchCheck s _ _

theorem keeps_settleCache (s : State) (e : OpenCheck) (o : CheckOutcome) : Keeps s (s.settleCache e o).1 := by
  unfold State.settleCache
  split
  · rename_i may
    split
    · refine keeps_recordGrant s _ _ (Or.inl ?_)
      simp only [State.mayCache, State.isActive, Bool.and_eq_true, beq_iff_eq] at may
      tauto
    · exact Keeps.refl s
  · exact Keeps.refl s

theorem keeps_closeCheck (s : State) (e : OpenCheck) : Keeps s (s.closeCheck e) := by
  unfold State.closeCheck
  simp only
  have base : Keeps s { s with
      openChecks := s.openChecks.filter fun x => !x.named (e.link, e.tag)
      oldEpochCount := if e.oldEpoch then s.oldEpochCount - 1 else s.oldEpochCount } := by
    constructor <;> first | rfl | exact id | exact fun _ => id
  split
  · exact base.trans (keeps_lowerStale _ _)
  · exact base

theorem keeps_issue (s : State) (e : OpenCheck) (o : CheckOutcome) : Keeps s (s.issue e o) := by
  unfold State.issue
  exact ((((keeps_settleCache s e o).trans (keeps_hand _ _ _)).trans (keeps_logOutcome _ e o)).trans
    (keeps_closeCheck _ e)).trans (keeps_settle _)

theorem keeps_revokeExpires (s : State) (e : FenceEntry) : Keeps s (s.revokeExpires e) := by
  unfold State.revokeExpires State.faultPending
  dsimp only
  refine Keeps.trans ?_ (keeps_settle _)
  refine Keeps.trans ?_ (Keeps.foldl _ (fun t l => keeps_faultCore t l _ _ _) _ _)
  exact keeps_updFence s _ _ fun _ => rfl

theorem keeps_consult (s : State) (e : FenceEntry) : Keeps s (s.consult e) := by
  unfold State.consult
  dsimp only
  refine Keeps.trans ?_ (keeps_settle _)
  refine Keeps.trans ?_ (Keeps.foldl _ (fun t l => ?_) _ _)
  · exact keeps_updFence s _ _ fun _ => rfl
  unfold State.sendRevoke
  split
  · exact Keeps.refl t
  · exact keeps_hand t _ _

/-! ### Management messages -/

theorem keeps_queueCommand (s : State) (h : MgmtHeader) (r : RangeArg) (k : StepKind) :
    Keeps s (s.queueCommand h r k) := by
  unfold State.queueCommand
  split
  · exact keeps_refuse s _ _ _ _
  · rename_i room
    split
    · split
      · constructor <;> first | rfl | exact id | exact fun _ => id | skip
        rintro ⟨hd, hq⟩
        refine ⟨?_, hq⟩
        simp only [List.length_append, List.length_singleton]
        omega
      · exact keeps_hand s _ _
    · exact keeps_hand s _ _

theorem keeps_takeTagcmd (s : State) (h : MgmtHeader) (r : RangeArg) (k : StepKind) :
    Keeps s (s.takeTagcmd h r k) :=
  keeps_takeManaged s h _ fun _ a => a.trans (keeps_queueCommand _ h r k)

theorem keeps_openDomain (s : State) (d : DomainNo) : Keeps s (s.openDomain d).1 := by
  unfold State.openDomain
  split
  · exact Keeps.refl s
  · split
    · exact Keeps.refl s
    · exact (keeps_setDomain s d _ fun _ => Nat.zero_le _).trans (keeps_setViolation _ _ _)

theorem keeps_retireDomain (s : State) (d : DomainNo) : Keeps s (s.retireDomain d).1 := by
  unfold State.retireDomain
  repeat' split
  all_goals first | exact Keeps.refl s | exact keeps_startRetire s d

theorem keeps_judgeScan (s : State) (g : Nat) : Keeps s (s.judgeScan g) := by
  unfold State.judgeScan
  split
  · split
    · constructor <;> first | rfl | exact id | exact fun _ => id
    · exact keeps_scannerMoves s
  · exact (keeps_foundFailure s _ _ _).trans (keeps_scannerMoves _)

theorem keeps_scanRead (s : State) (g : Nat) : Keeps s (s.scanRead g) := by
  unfold State.scanRead
  split
  · constructor <;> first | rfl | exact id | exact fun _ => id
  · exact keeps_judgeScan s g

theorem keeps_sweepFound (s : State) (g : Nat) (img : Image) : Keeps s (s.sweepFound g img) := by
  unfold State.sweepFound
  simp only
  have told : Keeps s (((s.capture g .sweep img).report .integrity none (some g) none
      (.checks img[15] (checkByte img.toList))).raise .integrityError) := by
    refine Keeps.trans ?_ (keeps_raise _ _)
    refine Keeps.trans ?_ (keeps_report _ _ _ _ _ _)
    exact keeps_capture s g .sweep img
  refine told.trans ?_
  constructor <;> first | rfl | exact id | exact fun _ => id | skip
  rintro ⟨hd, hq, hn⟩
  exact ⟨hd, Nat.le_trans (List.length_filter_le _ _) hq, hn.filter _⟩

theorem keeps_sweepRead (s : State) (g : Nat) : Keeps s (s.sweepRead g) := by
  unfold State.sweepRead
  split
  · exact keeps_sweepMoves s
  · split
    · exact keeps_sweepMoves s
    · exact keeps_sweepFound s g _

theorem keeps_clearCapture (s : State) : Keeps s s.clearCapture.1 := by
  constructor <;> first | rfl | exact id | exact fun _ => id

theorem keeps_startInit (s : State) : Keeps s s.startInit.1 := by
  unfold State.startInit
  repeat' split
  all_goals constructor <;> first | rfl | exact id | exact fun _ => id

theorem keeps_queueSoftware (s : State) (h : MgmtHeader) (i : Nat) (r : SoftRequest) :
    Keeps s (s.queueSoftware h i r) := by
  unfold State.queueSoftware
  split
  · exact keeps_refuse s _ _ _ _
  · split
    · exact keeps_refuse s _ _ _ _
    · refine Keeps.trans ?_ (keeps_placeSoftRead _)
      constructor <;> first | rfl | exact id | exact fun _ => id

theorem keeps_headRead (s : State) : Keeps s s.headRead := by
  unfold State.headRead
  split
  · rename_i r rest hq
    split
    · refine Keeps.trans ?_ (keeps_placeSoftRead _)
      constructor <;> first | rfl | exact id | exact fun _ => id
    · unfold State.replySoftware
      refine Keeps.trans ?_ (keeps_placeSoftRead _)
      have base : Keeps s { s with store := { s.store with softQueue := rest } } := by
        constructor <;> first | rfl | exact id | exact fun _ => id
      split
      · exact base.trans (keeps_hand _ _ _)
      · exact base
  · exact Keeps.refl s

theorem keeps_chainStartOp (s : State) (a : ChainStartArg) : Keeps s (s.chainStartOp a).1 := by
  unfold State.chainStartOp
  repeat' split
  all_goals first | exact Keeps.refl s | exact (keeps_updChan s _ _).trans (keeps_fetchBlock _ _)

/-- An operation on a channel keeps what it keeps on each channel. -/
theorem keeps_onChannel (s : State) (b : Byte) (f : ChannelId → State × ControlOutcome)
    (k : ∀ c, Keeps s (f c).1) : Keeps s (s.onChannel b f).1 := by
  unfold State.onChannel
  split
  · exact k _
  · exact Keeps.refl s

theorem keeps_chainStopOp (s : State) (c : ChannelId) : Keeps s (s.chainStopOp c).1 := by
  unfold State.chainStopOp
  split
  all_goals first | exact Keeps.refl s | exact (keeps_updChan s c _).trans (keeps_settleChannel _ c)

theorem keeps_chainResumeOp (s : State) (c : ChannelId) : Keeps s (s.chainResumeOp c).1 := by
  unfold State.chainResumeOp
  dsimp only
  split
  · split
    · dsimp only
      refine Keeps.trans ?_ (keeps_updChan _ c _)
      exact keeps_updChan s c _
    · dsimp only
      refine Keeps.trans ?_ (keeps_fetchBlock _ c)
      exact keeps_updChan s c _
  · exact Keeps.refl s

theorem keeps_chainCancelOp (s : State) (c : ChannelId) : Keeps s (s.chainCancelOp c).1 := by
  unfold State.chainCancelOp
  split
  · dsimp only
    exact keeps_restChannel s c _ _ _
  · exact Keeps.refl s

theorem keeps_chainStatusOp (s : State) (c : ChannelId) : Keeps s (s.chainStatusOp c).1 := by
  unfold State.chainStatusOp
  dsimp only
  exact keeps_updChan s c _

theorem keeps_flushActive (s : State) : Keeps s s.flushActive := by
  unfold State.flushActive
  refine Keeps.foldl _ (fun t l => ?_) _ s
  split
  · exact keeps_flushDue t l
  · exact Keeps.refl t

theorem keeps_watchTrial (s : State) (src : SourceId) : Keeps s (s.watchTrial src) := by
  unfold State.watchTrial
  split
  · exact Keeps.refl s
  · exact keeps_writeWatch s _

theorem keeps_logReadOp (s : State) (h : MgmtHeader) (q : QueueId) (p n : Nat) :
    Keeps s (s.logReadOp h q p n) := keeps_hand s _ _

/-- Removing records from the front keeps a queue's bounds and its size (R165). -/
theorem acked_ok {α : Type} (q r : ReportQueue α) (p : Nat) (h : QueueOk q) (e : q.acked p = some r) :
    QueueOk r ∧ r.size = q.size := by
  unfold ReportQueue.acked ReportQueue.spanOffset at e
  split at e
  · rename_i lt
    simp only at e
    split at e
    · simp only [Option.map_some, Option.some.injEq] at e
      subst e
      refine ⟨⟨?_, Or.inl (Nat.mod_lt _ (by omega))⟩, rfl⟩
      have := h.1
      simp only [ReportQueue.fill, ReportQueue.removeFront, List.length_drop] at this ⊢
      omega
    · simp at e
  · simp at e

theorem keeps_ackQueue (s t : State) (q : QueueId) (p : Nat) (e : s.ackQueue q p = some t) : Keeps s t := by
  cases q with
  | q0 =>
    simp only [State.ackQueue, Option.map_eq_some_iff] at e
    obtain ⟨x, hx, rfl⟩ := e
    constructor <;> first | rfl | exact id | exact fun _ => id | skip
    rintro ⟨h0, h1, hs⟩
    have := acked_ok _ _ _ h0 hx
    refine ⟨this.1, h1, ?_⟩
    simp only [this.2]
    exact hs
  | q1 =>
    simp only [State.ackQueue, Option.map_eq_some_iff] at e
    obtain ⟨x, hx, rfl⟩ := e
    constructor <;> first | rfl | exact id | exact fun _ => id | skip
    rintro ⟨h0, h1, hs⟩
    have := acked_ok _ _ _ h1 hx
    refine ⟨h0, this.1, ?_⟩
    simp only [this.2]
    exact hs

theorem keeps_logAckOp (s : State) (h : MgmtHeader) (q : QueueId) (p : Nat) :
    Keeps s (s.logAckOp h q p) := by
  unfold State.logAckOp
  split
  · rename_i t e
    exact (keeps_ackQueue s t q p e).trans (keeps_hand _ _ _)
  · exact (keeps_raise s _).trans (keeps_hand _ _ _)

theorem keeps_clearFlags (s : State) (a b : DomainNo) : Keeps s (s.clearFlags a b).1 := by
  constructor <;> first | rfl | exact id | exact fun _ => id

theorem clearLost_ok {α : Type} (q : ReportQueue α) (n : Bool) (h : QueueOk q) :
    QueueOk (q.clearLost n) ∧ (q.clearLost n).size = q.size := by
  cases n <;> exact ⟨h, rfl⟩

/-- The report queues change and keep their bounds. -/
theorem keeps_reports (s : State) (r : ReportState) (h : s.QueuesOk → { s with reports := r }.QueuesOk) :
    Keeps s { s with reports := r } := by
  constructor <;> first | rfl | exact id | exact fun _ => id | exact h

theorem keeps_clearStatuses (s : State) (n : StatusSet) : Keeps s (s.clearStatuses n).1 := by
  refine keeps_reports s _ ?_
  rintro ⟨h0, h1, hs⟩
  have a := clearLost_ok s.reports.q0 (StatusSet.has n .q0Lost) h0
  have b := clearLost_ok s.reports.q1 (StatusSet.has n .q1Lost) h1
  refine ⟨a.1, b.1, ?_⟩
  simp only [a.2, b.2]
  exact hs

theorem keeps_writeAdmission (s : State) (l : LinkId) (v : Quad) : Keeps s (s.writeAdmission l v) := by
  have base := keeps_updLink s l (fun k => { k with admission := v != 0 }) fun _ => ⟨rfl, rfl⟩
  unfold State.writeAdmission
  dsimp only
  split
  case h_1 | h_2 =>
    split
    · refine base.trans ?_
      exact keeps_updLinkTo _ l _ (fun _ => rfl) fun _ => Or.inl rfl
    · exact base
  case h_3 =>
    split
    · exact base
    · exact base.trans (keeps_holdLink _ l)
  case h_4 => exact base

theorem keeps_writeCounter (s : State) (l : LinkId) (t : CounterType) : Keeps s (s.writeCounter l t) :=
  keeps_setCounter s l t Counter.zero fun _ => Nat.zero_le _

theorem keeps_writeEnable (s : State) (v : Quad) : Keeps s (s.writeEnable v) := by
  constructor <;> first | rfl | exact id | exact fun _ => id

theorem keeps_writePacer (s : State) (p : PacerParam) (v : Quad) : Keeps s (s.writePacer p v) := by
  have h (w : SweepState) (e : w.requests = s.sweep.requests) : Keeps s { s with sweep := w.restarted } := by
    have r : w.restarted.requests = s.sweep.requests := by
      unfold SweepState.restarted
      split <;> exact e
    constructor <;> first | rfl | exact id | exact fun _ => id | skip
    rintro ⟨hd, hq, hn⟩
    refine ⟨hd, ?_, ?_⟩
    · simp only [r]; exact hq
    · simp only [r]; exact hn
  cases p <;> exact h _ rfl

theorem keeps_writeSweepEnable (s : State) (v : Quad) : Keeps s (s.writeSweepEnable v) := by
  constructor <;> first | rfl | exact id | exact fun _ => id

theorem keeps_cfgReadOp (s : State) (h : MgmtHeader) (p : Param) : Keeps s (s.cfgReadOp h p) := by
  unfold State.cfgReadOp
  split <;> exact keeps_hand s _ _

end Sys2Proof.Machine
end

