-- ==== Sys2Proof/Tests/Slice0.lean ====
section
/-! SUPPORT. Tests of the model: ill-formed commands, cases the manual works out, and for each statement a small
state and operands that meet its hypotheses. -/

namespace Sys2Proof.Tests

open Sys2Proof Sys2Proof.Machine

set_option Elab.async false

/-! ### Small states -/

/-- A link that was accepted. -/
def upLink : Link :=
  { Link.reset with
    state := .active, lastReply := some .accepted, sessionCount := 1, admission := true
    announced := some { role := .socket, revision := 1, maxOpen := 8, capacity := 64 } }

/-- The part in STARTUP with its lead link up. -/
def boot : State := State.reset.setLink 0 upLink

/-- A window of 16 granules of 4 KiB. -/
def win (base : PAddr) (tagBase : Nat) (m : WindowMode) : Window :=
  { enabled := true, base := base, size := 16, granule := .kib4, tagBase := tagBase, mode := m }

/-- An element for one source on every link. -/
def elem (src : Half) (a : ElementAction) (d : DomainNo) : Element :=
  { kind := .exact, first := src, second := src, links := 15, action := a, domain := d, watch := false
    enabled := true }

/-- Four windows, one of each mode; source 1 is the platform, 2 and 4 are domains 5 and 7, 3 is blocked. -/
def policy : PolicyCopy :=
  { PolicyCopy.reset with
    windows := ((((PolicyCopy.reset.windows.set 0 (win 0 0 .tagged)).set 1
      (win 0x100000 0 .openAll)).set 2 (win 0x200000 0 .platformOnly)).set 3 (win 0x300000 0 .closed))
    elements := [(0, elem 1 .domain 0), (1, elem 2 .domain 5), (2, elem 3 .block 0),
      (3, elem 4 .domain 7)]
    length := 4 }

/-- The part in OPERATING: geometry 24, two links up, domains 5 and 6 ACTIVE. -/
def run : State :=
  { (State.reset.setLink 0 upLink).setLink 1 upLink with
    mode := .operating, epoch := 1, shadow := policy, active := policy
    domains := [(5, { state := .active, owned := 2 }), (6, { state := .active, owned := 0 })]
    store := { StoreState.reset with geometry := some 24, tableValid := true } }

/-- The header of a platform message on link 0. -/
def mh : MgmtHeader := { link := 0, tag := 15, source := 1 }

/-- The record of a granule owned by domain 5. -/
def ownedBy5 : TagRecord :=
  { freeRecord with state := .owned, owner := 5, generation := 7 }

/-- `run` with record 3 FREE and record 4 owned by domain 5; the others are not verifiable. -/
def tagged : State := (run.writeRecord 3 freeRecord).writeRecord 4 ownedBy5

/-- A CHECK of source `src` at an address. -/
def chk (src : SourceId) (a : PAddr) : CheckMsg :=
  { tag := 7, source := src, address := a, access := .read, cacheWanted := true }

/-- The outcome is a next state with a property. -/
def nextHas (o : Host.Outcome State Fault Refusal) (p : State → Bool) : Bool :=
  match o with
  | .next t => p t
  | _ => false

/-! ### Well-formed commands -/

def rng (f : TagForm) (first n : Nat) : RangeArg := { form := f, first := first, count := n }

def content (n : Nat) : RebuildContent :=
  { state := .shared, owner := 5, sharers := List.replicate n (6, .read), platformAccess := false
    label := 0 }

theorem test_wellFormed_release : (Instr.release mh (rng .index 3 65536) 5).wellFormed = true := by
  decide

theorem test_illFormed_count_zero : (Instr.release mh (rng .index 3 0) 5).wellFormed = false := by decide

theorem test_illFormed_count_large : (Instr.assign mh (rng .index 3 65537) 5 false 0).wellFormed = false := by
  decide

theorem test_illFormed_index_large :
    (Instr.share mh (rng .index 4294967296 1) 5 6 .read).wellFormed = false := by decide

theorem test_illFormed_address_large :
    (Instr.unshare mh (rng .address 4503599627370496 1) 5 6).wellFormed = false := by decide

theorem test_illFormed_sharers :
    (Instr.rebuild mh (rng .index 3 1) (content 4)).wellFormed = false := by decide

theorem test_wellFormed_rebuild :
    (Instr.rebuild mh (rng .index 3 1) (content 3)).wellFormed = true := by decide

/-! ### Cases the manual works out -/

/-- Figure 1-1, the record before its TRANSFER. -/
def fig11 : TagRecord :=
  { freeRecord with state := .owned, owner := 37, generation := 258, label := 165 }

theorem test_checks_of_a_transfer :
    (recordImage fig11)[15] = 49 ∧ (recordImage (fencedRecord (.verified fig11)))[15] = 31 ∧
      (recordImage (finalRecord (.transfer 37 40) (.verified fig11)))[15] = 45 ∧
      (recordImage freeRecord)[15] = 255 := by decide +kernel

theorem test_check_of_a_shared_record :
    recordImage { fig11 with
        state := .shared, platformAccess := true, slot1 := slotOf 5 .read
        slot2 := slotOf 300 .readWrite, generation := 0x103 } =
      #v[2, 1, 37, 0, 5, 0x80, 0x2C, 0xC1, 0, 0, 3, 1, 165, 0, 0, 188] := by decide +kernel

theorem test_altered_record_is_unverifiable :
    verify ((recordImage fig11).set 2 0x27) = .unverifiable ((recordImage fig11).set 2 0x27) ∧
      verify (recordImage fig11) = .verified fig11 := by decide +kernel

/-- W2, W5 and W6 of section 2.3. -/
def w2 : Window :=
  { enabled := true, base := 0x4000000000, size := 16777216, granule := .kib4, tagBase := 33554432
    mode := .tagged }
def w5 : Window :=
  { enabled := true, base := 0x100000000, size := 2048, granule := .mib2, tagBase := 50331648
    mode := .tagged }
def w6 : Window :=
  { enabled := true, base := 0x240000000, size := 262144, granule := .kib4, tagBase := 0
    mode := .openAll }

/-- A copy with the three windows at their numbers. -/
def sec23 : PolicyCopy :=
  { PolicyCopy.reset with
    windows := ((PolicyCopy.reset.windows.set 2 w2).set 5 w5).set 6 w6 }

theorem test_lookup_in_a_4KiB_window :
    sec23.lookup 0x4123456789 = some (2, w2) ∧ w2.offsetOf 0x4123456789 = 1193046 ∧
      w2.baseOf 0x4123456789 = 0x4123456000 ∧ w2.indexOf 0x4123456789 = 34747478 ∧
      recordBase 34747478 = 555959648 ∧ 34747478 % Config.directorySets = 1110 ∧
      sec23.validate (2 ^ 25) = some (.range 2) ∧ sec23.validate (2 ^ 26) = none := by decide +kernel

theorem test_lookups_with_a_gap :
    sec23.lookup 0x140601234 = some (5, w5) ∧ w5.indexOf 0x140601234 = 50332163 ∧
      w5.baseOf 0x140601234 = 0x140600000 ∧ sec23.lookup 0x210000000 = none ∧
      sec23.lookup 0x240008000 = some (6, w6) := by decide +kernel

theorem test_conversions :
    sec23.convert 0x140601234 8 = some 50332163 ∧ sec23.convert 0x140600000 1533 = some 50332163 ∧
      sec23.convert 0x140600000 1600 = none ∧ sec23.convert 0x240008000 1 = none ∧
      sec23.convert 0x210000000 1 = none := by decide +kernel

/-- The classifier of Table 3-5. -/
def table35 : PolicyCopy :=
  let e (k : ElementKind) (a b : Half) (ls : LinkSet) (act : ElementAction) (d : DomainNo)
      (w en : Bool) : Element :=
    { kind := k, first := a, second := b, links := ls, action := act, domain := d, watch := w
      enabled := en }
  { PolicyCopy.reset with
    elements := [(0, e .exact 0x10 0x11 3 .domain 0 false true),
      (1, e .range 0x2000 0x20FF 4 .block 0 true true),
      (2, e .masked 0x2100 0xFF00 12 .domain 37 false true),
      (3, e .masked 0x0100 0xFF80 3 .domain 40 false true),
      (4, e .range 0 0xFFFF 15 .domain 5 false false),
      (5, e .exact 0x3000 0x3000 8 .domain 0 false true)]
    length := 5
    nonMatch := PolicyCopy.reset.nonMatch.set 2 { isDomain := true, domain := 0 } }

theorem test_classification_of_seven_pairs :
    (table35.classify 0 0x11).result = .domain 0 ∧ (table35.classify 2 0x11).result = .domain 0 ∧
      table35.classify 2 0x2042 = { result := .block, decidedBy := .element 1, watched := some 1 } ∧
      (table35.classify 3 0x2042).result = .unclassified ∧
      (table35.classify 3 0x21A7).result = .domain 37 ∧
      (table35.classify 1 0x0145).result = .domain 40 ∧
      (table35.classify 1 0x01C0).result = .unclassified ∧
      (table35.classify 3 0x3000).result = .unclassified := by decide +kernel

/-- The shadow copy of Table 8-2 with its mistyped element. -/
def table82 : PolicyCopy :=
  { sec23 with
    windows := (sec23.windows.set 7 { w5 with base := 0x1FFE00000, size := 16, tagBase := 50333696 }).set
      9 { w2 with base := 0x300000000, size := 4096, tagBase := 50333700 }
    elements := [(3, elem 9 .domain 1100)], length := 4 }

def fix7 : Window := { w5 with base := 0x200000000, size := 16, tagBase := 50333696 }
def fix9 : Window := { w2 with base := 0x300000000, size := 4096, tagBase := 50333712 }

/-- The corrections of Table 8-3, one after another. -/
def commit2 : PolicyCopy := { table82 with windows := table82.windows.set 7 fix7 }
def commit3 : PolicyCopy := { commit2 with windows := commit2.windows.set 9 fix9 }
def commit4 : PolicyCopy := { commit3 with elements := [(3, elem 9 .domain 41)] }

theorem test_commit_validation_in_order :
    table82.validate (2 ^ 26) = some (.overlap 5 7) ∧
      commit2.validate (2 ^ 26) = some (.tagOverlap 7 9) ∧
      commit2.validate (2 ^ 25) = some (.range 2) ∧
      commit3.validate (2 ^ 26) = some (.badElement (.element 3)) ∧
      commit4.validate (2 ^ 26) = none := by decide +kernel

/-- The announcement of section 11.2.1 on the lead link. -/
def hello : AnnounceMsg :=
  { role := 1, revision := 3, maxOpen := 48, capacity := 8192, cacheEmpty := 1, sum := 170 }

/-- The part in STARTUP with link 0 in ANNOUNCING. -/
def greeting : State :=
  State.reset.setLink 0 { Link.reset with state := .announcing, announceTimer := some 1000, sessionCount := 1
                                          minRevision := 2, expectRole := some .socket }

theorem test_announce_of_the_lead_link :
    nextHas (exec (.announce 0 hello) greeting) (fun t =>
      (t.link 0).state == .active && (t.link 0).announceTimer == none &&
      (t.link 0).outbound == [.announceReply .accepted (some 48)] &&
      (t.link 0).announced == some { role := .socket, revision := 3, maxOpen := 48, capacity := 8192 })
      = true := by decide +kernel

theorem test_announce_bad_sum :
    nextHas (exec (.announce 0 { hello with capacity := 8193 }) greeting) (fun t =>
      (t.link 0).state == .announcing && (t.link 0).counters.malformed.value == 1 &&
      (t.link 0).outbound == [.announceReply .badSum none]) = true := by decide +kernel

/-- Link 2 of Figure 11-2 with two counter values. -/
def countersLink (fc mal : Nat) : Link :=
  { upLink with
    errorMode := 1, faultMask := 2
    counters := { frameCheck := { value := fc, reached := fc != 0 }
                  malformed := { value := mal, reached := false }, unexpected := Counter.zero } }

/-- The part of Figure 11-2: threshold `n`, two counter values of link 2. -/
def twoCounters (n fc mal : Nat) : State :=
  { run.setLink 2 (countersLink fc mal) with errorThreshold := n }

theorem test_error_counters_and_threshold :
    nextHas (exec (.frameRejected 2 .frameCheck) (twoCounters 3 2 0)) (fun t =>
      (t.link 2).counters.frameCheck == { value := 3, reached := true } &&
      StatusSet.has t.reports.status .linkEvent && (t.link 2).state == .active) = true ∧
    nextHas (exec (.frameRejected 2 .frameCheck) (twoCounters 2 255 0)) (fun t =>
      (t.link 2).counters.frameCheck == { value := 0, reached := true } &&
      !StatusSet.has t.reports.status .linkEvent) = true ∧
    nextHas (exec (.cfgRead { mh with link := 2, tag := 20 } .timeBase) (twoCounters 2 0 1)) (fun t =>
      (t.link 2).state == .faulted && (t.link 2).lastFault == some .threshold &&
      (t.link 2).counters.malformed == { value := 2, reached := true } &&
      (t.link 2).outbound.isEmpty && t.reports.q1.records.map EventRecord.detail ==
        [.fault .threshold (some .malformed)]) = true := by decide +kernel

/-- The memory bytes of block A of Table 7-9. -/
def blockA : Vector Byte 32 :=
  #v[1, 0x0A, 3, 0, 0x29, 0, 0xB7, 0, 0x58, 2, 0, 3, 0, 0, 0, 0,
     0, 0x10, 0, 0x80, 0, 0, 0, 0, 0x20, 0, 0, 0x80, 0, 0, 0, 0]

theorem test_block_decoding :
    (blockOf blockA).step = some (.assign 41 false 0xB7) ∧ (blockOf blockA).count = 4 ∧
      (blockOf blockA).first = 0x3000258 ∧ (blockOf blockA).statusAddr = 0x80001000 ∧
      (blockOf blockA).nextAddr = 0x80000020 ∧ (blockOf blockA).postStatus = true ∧
      (blockOf blockA).stopOnError = true ∧ (blockOf blockA).notify = false ∧
      (blockOf blockA).addressForm = false := by decide +kernel

theorem test_block_validation :
    (match (blockOf blockA).validate sec23 with
     | .ok i => i == 50332248
     | .error _ => false) = true := by decide +kernel

theorem test_status_record_bytes :
    statusBytes 1 0 3 1 (some (2, .notFree)) = [1, 1, 0, 0, 3, 0, 0, 0, 1, 0, 0, 0, 2, 0, 0, 0] := by
  decide +kernel

/-- A pacer with parameters and phase, enabled. -/
def pacer (x a b p r : Nat) : State :=
  { State.reset with sweep := { SweepState.reset with
      enable := true, pacerX := x, pacerA := a, pacerB := b, phase := p, residue := r } }

theorem test_three_ticks_of_the_pacer :
    nextHas (exec .pacerTick (pacer 1431655765 1 3 0 0)) (fun t =>
      t.sweep.residue == 1 && t.sweep.phase == 1431655765 && !t.sweep.creditPending) = true ∧
    nextHas (exec .pacerTick (pacer 1431655765 1 3 1431655765 1)) (fun t =>
      t.sweep.residue == 2 && t.sweep.phase == 2863311530 && !t.sweep.creditPending) = true ∧
    nextHas (exec .sweepCredit (pacer 1431655765 1 3 2863311530 2)) (fun t =>
      t.sweep.residue == 0 && t.sweep.phase == 0 && t.sweep.creditPending) = true := by decide +kernel

/-- A Q0 denial record that names domain 40. -/
def denial40 : DenialRecord :=
  { time := 9, link := 1, source := 2, domain := some 40, decidedBy := some (.element 1), address := 0
    access := .read, reason := .notOwner, window := some 0, granule := some 4
    stateSeen := some .owned, ownerSeen := some 5, labelSeen := some 0 }

/-- Q0 of Figure 10-1: size 8, watermark 6, `n` records from `get` on. -/
def q0 (m : QueueMode) (get n : Nat) : State :=
  { run with reports := { run.reports with
      q0 := { size := 8, mode := m, watermark := 6, get := get, records := List.replicate n denial40
              lost := false }
      enable := 0x1003 } }

theorem test_queue_overwrite_and_loss :
    StatusSet.has ((q0 .overwrite 0 5).storeDenial denial40).reports.status .q0Watermark = true ∧
      (let t := (q0 .overwrite 0 8).storeDenial denial40
       t.reports.q0.put = 1 ∧ t.reports.q0.get = 1 ∧ t.reports.q0.fill = 8 ∧
         t.reports.status = 0 ∧ t.violation 40 = { flag := true, count := 1 }) ∧
      (let t := (q0 .blocking 4 8).storeDenial denial40
       t.reports.q0.put = 4 ∧ t.reports.q0.lost = true ∧
         StatusSet.has t.reports.status .q0Lost = true ∧
         t.violation 40 = { flag := true, count := 1 }) := by decide +kernel

theorem test_log_ack_in_and_out_of_the_span :
    nextHas (exec (.logAck mh .q0 3) (q0 .overwrite 1 8)) (fun t =>
      t.reports.q0.get == 4 && t.reports.q0.fill == 5 && t.reports.q0.put == 1) = true ∧
    nextHas (exec (.logAck mh .q0 2) (q0 .overwrite 4 5)) (fun t =>
      t.reports.q0.get == 4 && t.reports.q0.fill == 5 &&
      (t.link 0).outbound.getLast? == some (.notify 0 0x1000 0x1000)) = true ∧
    ((q0 .overwrite 1 8).logRecords .q0 1 4).length = 4 := by decide +kernel

/-- The set-full case of section 5.1.1: ways 0 to 3 of set 1,110. -/
def fullSet : State :=
  { run with
    directory := [(4440, some { granule := 34747478, holders := 4 }),
      (4441, some { granule := 34751574, holders := 2 }),
      (4442, some { granule := 34755670, holders := 5 }),
      (4443, some { granule := 34759766, holders := 8 })] }

theorem test_grants_in_a_full_set :
    (fullSet.recordGrant 34743382 1).2 = false ∧
      (fullSet.recordGrant 34743382 1).1.directoryMisses = 1 ∧
      (fullSet.recordGrant 34747478 0).2 = true ∧
      (fullSet.recordGrant 34747478 0).1.holders 34747478 = 5 ∧
      ((fullSet.dropHolder 34751574 1).recordGrant 34743382 1).2 = true := by decide +kernel

/-! ### Resets and invariants: the hypotheses of the statements -/

theorem test_meets_step :
    ({ State.reset with pending := [.pacerTick, .timeBaseAdvance] } : State).pending =
      .pacerTick :: [.timeBaseAdvance] ∧ State.reset.pending = [] := ⟨rfl, rfl⟩

theorem test_meets_execLeavesTheQueue :
    exec .timeBaseAdvance State.reset = .next { State.reset with timeBase := 1 } := rfl

theorem test_meets_reached :
    (0 : Nat) < 2 ^ 46 ∧ 70368744177663 < 2 ^ 46 ∧
      ({ State.reset with timeBase := State.reset.timeBase + 5 } : State).reached
        (some (State.reset.expiryAfter 5)) = true ∧
      ({ State.reset with timeBase := State.reset.timeBase + 4 } : State).reached
        (some (State.reset.expiryAfter 5)) = false := by decide +kernel

/-- The invariants a step keeps, together. -/
def invariants (s : State) : Prop :=
  s.MemoryOk ∧ s.TablesOk ∧ s.FenceOk ∧ s.PolicyOk ∧ s.QueuesOk ∧ s.RangesOk ∧ s.CountersOk ∧
    s.OwnedOk ∧ s.ListsOk ∧ s.CommitOk

/-- A state with something in every part the invariants speak of, and a command in front. -/
def busy : State :=
  { tagged with
    pending := [.commandReadGrant]
    fence := [newFence 3 .direct (.assign 5 false 0), newFence 4 .sweep .quarantine]
    directory := fullSet.directory, phase := .flushing, flushSet := 1
    directQueue := [directEntry mh (.assign 5 false 0) 3 2]
    sweep := { tagged.sweep with requests := [9, 7] }
    reports := { (q0 .blocking 4 5).reports with violations := [(40, { flag := true, count := 1 })] }
    store := { tagged.store with commandQ := [{ granule := 3, access := .read }] } }

theorem test_meets_tables : busy.TablesOk := by
  unfold State.TablesOk; decide +kernel

theorem test_meets_memory : busy.MemoryOk ∧ run.MemoryOk := by
  unfold State.MemoryOk; decide +kernel

theorem test_meets_invariants : invariants busy := by
  refine ⟨test_meets_memory.1, test_meets_tables, ?_, ?_, ?_, ?_, ?_, ?_, ?_, ?_⟩
  · unfold State.FenceOk; decide +kernel
  · unfold State.PolicyOk; decide +kernel
  · unfold State.QueuesOk QueueOk; decide +kernel
  · unfold State.RangesOk; decide +kernel
  · intro l t; cases t <;> revert l <;> decide +kernel
  · unfold State.OwnedOk; decide +kernel
  · unfold State.ListsOk; decide +kernel
  · show busy.flushSet ≠ 0 ∨ busy.oldEpochCount ≠ 0
    decide +kernel

theorem test_meets_step_of_invariants :
    nextHas (step busy) (fun t => t.pending.isEmpty && t.store.commandQ ==
      [{ granule := 3, access := .fenceWrite }]) = true := by decide +kernel

/-- The range codes of the geometry at their ends. -/
theorem test_meets_geometry_ends :
    ({ run with store := { run.store with geometry := some 28 } } : State).RangesOk ∧
      ¬ ({ run with store := { run.store with geometry := some 29 } } : State).RangesOk ∧
      ¬ ({ run with store := { run.store with geometry := some 23 } } : State).RangesOk := by
  unfold State.RangesOk; decide +kernel

theorem test_meets_pacer :
    (pacer 1 0 1 4294967295 0).sweep.enable = true ∧ State.reset.sweep.enable = false ∧
      2 ^ 32 ≤ (pacer 1 0 1 4294967295 0).sweep.phaseSum ∧
      nextHas (exec .pacerTick (pacer 1 0 1 0 0)) (fun t => t == pacer 1 0 1 1 0) = true := by
  decide +kernel

/-! ### Links and frames: the hypotheses of the statements -/

/-- `run` with a channel changed. -/
def withChan (c : ChannelId) (k : Channel) : State := run.updChan c fun _ => k

/-- A channel that fetches on link 0, in a state, with a read or write outstanding until time 9. -/
def fetching (st : ChannelState) (kind : MemKind) (stage : PostStage) : Channel :=
  { Channel.reset with
    state := st, posting := stage, blockAddr := 0x80000000, rangeFirst := 3, rangeCount := 4
    memRequest := some { kind := kind, tag := 0, expiry := 9 }, sequence := 1 }

/-- The same with block A held, at an offset. -/
def holding (st : ChannelState) (stage : PostStage) (off fence : Nat) : Channel :=
  { fetching st .write stage with block := some (blockOf blockA), nextOffset := off, inFence := fence }

/-- A state at a time. -/
def atTime (s : State) (t : Time) : State := { s with timeBase := t }

/-- A link in a state. -/
def onLink (s : State) (l : LinkId) (st : LinkState) : State := s.updLink l fun k => { k with state := st }

theorem test_meets_linkComesUp :
    (State.reset.link 3).state = .down ∧ ((onLink State.reset 3 .training).link 3).state = .training := by
  decide +kernel

theorem test_meets_signalLoss :
    (run.link 0).state.inSession = true ∧ run.Between ∧ (run.link 2).state.inSession = false ∧
      ((withChan 0 (fetching .fetching .read .none)).chan 0).fetchLink = 0 ∧
      ((withChan 0 (fetching .fetching .read .none)).chan 0).state = .fetching ∧
      ((withChan 1 (holding .posting .status 4 0)).chan 1).state = .posting ∧
      ((withChan 1 (holding .stopped .none 2 0)).chan 1).state = .stopped := by decide +kernel

/-- Link 1 with its flush outstanding until time 64, and pending on a fence entry of granule 3. -/
def flushing : State :=
  { run.setLink 1 { upLink with flushOutstanding := true, flushTimer := some 64 } with
    flushSet := 2, phase := .flushing, directory := [(12, some { granule := 3, holders := 3 })] }

theorem test_meets_timers :
    (greeting.link 0).state = .announcing ∧
      (atTime greeting 1000).reached ((atTime greeting 1000).link 0).announceTimer = true ∧
      greeting.reports.q1.fill + 4 < greeting.reports.q1.size ∧
      (flushing.link 1).state.inSession = true ∧
      (atTime flushing 64).reached ((atTime flushing 64).link 1).flushTimer = true ∧
      (atTime flushing 63).reached ((atTime flushing 63).link 1).flushTimer = false := by
  decide +kernel

/-- A fence entry of granule 3 in REVOKING: its generation read is 7, links 0 and 2 are pending. -/
def revoking : FenceEntry :=
  { newFence 3 .direct (.transfer 5 6) with
    phase := .revoking, prior := some (.verified ownedBy5), genRead := some 7, consulted := true
    pending := 5, timer := some 64 }

def withFence (s : State) (e : FenceEntry) : State := { s with fence := [e] }

theorem test_meets_revokeTimer :
    (withFence (atTime run 64) revoking).fenceOf 3 = some revoking ∧
      (withFence (atTime run 64) revoking).reached revoking.timer = true ∧
      LinkSet.has revoking.pending 0 = true ∧
      ((withFence (atTime run 64) revoking).link 0).state.inSession = true ∧
      LinkSet.has revoking.pending 1 = false := by decide +kernel

theorem test_meets_memoryTimer :
    let s : State := atTime (withChan 1 (holding .posting .status 4 0)) 9
    (s.chan 1).memRequest = some { kind := .write, tag := 0, expiry := 9 } ∧ s.reached (some 9) = true ∧
      (s.chan 1).state = .posting ∧
      ((withChan 0 (fetching .fetching .read .none)).chan 0).state = .fetching := by decide +kernel

/-- A sum byte that makes the seven bytes total 255, for an open-check maximum and a capacity of 0. -/
def helloOf (role rev : Byte) : AnnounceMsg :=
  { role := role, revision := rev, maxOpen := 0, capacity := 0, cacheEmpty := 1, sum := 254 - role - rev }

theorem test_meets_announceAccepted :
    greeting.Takes 0 (.announce 0 hello) ∧ (greeting.link 0).state = .announcing ∧
      (hello.role.toNat + hello.revision.toNat + hello.maxOpen.toNat + hello.capacity.toNat % 256 +
        hello.capacity.toNat / 256 + hello.cacheEmpty.toNat + hello.sum.toNat) % 256 = 255 ∧
      hello.role = 1 ∧ (greeting.link 0).expectRole = some .socket ∧
      (greeting.link 0).minRevision ≤ hello.revision.toNat ∧ hello.cacheEmpty = 1 ∧
      AnnounceSound (helloOf 2 15) = true ∧ AnnounceSound (helloOf 1 1) = true := by decide +kernel

theorem test_meets_announceRefused :
    AnnounceSound (helloOf 2 15) = true ∧ (greeting.link 0).acceptsRole (helloOf 2 15) = none ∧
      greeting.Takes 0 (.announce 0 (helloOf 2 15)) ∧
      AnnounceSound { hello with cacheEmpty := 0, sum := 171 } = true ∧
      (greeting.link 0).acceptsRole { hello with cacheEmpty := 0, sum := 171 } = some .socket ∧
      AnnounceSound { hello with sum := 0 } = false ∧
      (greeting.link 0).counters.malformed.value < 255 ∧
      (greeting.link 0).counters.malformed.value + 1 ≠ greeting.errorThreshold := by decide +kernel

/-- A link with FRAME_CHECK at a value, its mode and its mask bit. -/
def frameCheckAt (n : Nat) (wrap mask : Bool) : State :=
  { run.setLink 2 { countersLink n 0 with
      errorMode := if wrap then 1 else 0, faultMask := if mask then 1 else 0 } with
    errorThreshold := 3 }

theorem test_meets_rejectedFrames :
    (frameCheckAt 2 false false).Takes 2 (.frameRejected 2 .frameCheck) ∧
      ((frameCheckAt 2 false true).link 2).faultMask.getLsbD 0 = true ∧
      ((frameCheckAt 255 true false).link 2).errorMode.getLsbD 0 = true ∧
      ((frameCheckAt 255 false false).link 2).errorMode.getLsbD 0 = false ∧
      run.Takes 0 (.frameRejected 0 (.undecodable (some { kind := .check, tag := 3 }))) ∧
      run.Takes 0 (.frameRejected 0 (.undecodable none)) ∧
      (run.link 0).counters.malformed.value + 1 ≠ run.errorThreshold ∧
      run.Takes 0 (.frameRejected 0 (.misplaced true)) ∧ run.Takes 0 (.frameRejected 0 (.misplaced false)) ∧
      run.Serves 0 ∧ greeting.Takes 0 (.frameRejected 0 (.misplaced false)) ∧
      greeting.Takes 0 (.frameRejected 0 (.misplaced true)) ∧
      (greeting.link 0).state = .announcing := by decide +kernel

theorem test_wrap_and_hold_at_255 :
    nextHas (exec (.frameRejected 2 .frameCheck) (frameCheckAt 255 true true)) (fun t =>
      (t.link 2).counters.frameCheck.value == 0 && (t.link 2).state == .active) = true ∧
    nextHas (exec (.frameRejected 2 .frameCheck) (frameCheckAt 255 false true)) (fun t =>
      (t.link 2).counters.frameCheck.value == 255 && (t.link 2).state == .active) = true ∧
    nextHas (exec (.frameRejected 2 .frameCheck) (frameCheckAt 2 false true)) (fun t =>
      (t.link 2).counters.frameCheck == { value := 3, reached := true } &&
      (t.link 2).state == .faulted) = true := by decide +kernel

/-! ### Checks: the hypotheses of the statements -/

theorem test_meets_checkStateSteps :
    (onLink run 1 .admitWait).Takes 1 (.check 1 (chk 2 0)) ∧ (onLink run 1 .held).Takes 1 (.check 1 (chk 2 0)) ∧
      boot.Takes 0 (.check 0 (chk 2 0)) ∧ boot.mode = .startup ∧ (chk 2 0).tag < boot.maxOpen 0 ∧
      boot.tagOpen 0 (chk 2 0).tag = false ∧ run.Takes 1 (.check 1 (chk 4 0)) ∧
      (run.active.classify 1 4).result = .domain 7 ∧ (run.domainEntry 7).state ≠ .active := by
  decide +kernel

theorem test_meets_checkSourceStep :
    run.Takes 1 (.check 1 (chk 2 0)) ∧ (run.link 1).state = .active ∧ run.mode = .operating ∧
      (chk 2 0).tag < run.maxOpen 1 ∧ run.tagOpen 1 (chk 2 0).tag = false ∧
      (run.active.classify 1 9).result = .unclassified ∧ (run.active.classify 1 3).result = .block ∧
      (run.active.classify 1 2).result = .domain 5 := by decide +kernel

theorem test_meets_checkWindowSteps :
    run.domainActive 5 = true ∧ run.domainActive 0 = true ∧ run.active.lookup 0x400000 = none ∧
      run.active.lookup 0x30FFFF = some (3, win 0x300000 0 .closed) ∧
      run.active.lookup 0x200000 = some (2, win 0x200000 0 .platformOnly) ∧
      run.active.lookup 0x100000 = some (1, win 0x100000 0 .openAll) ∧
      run.active.lookup 0xFFFF = some (0, win 0 0 .tagged) := by decide +kernel

/-- A record shared with domain 6 for reading and domain 9 for both. -/
def sharedRec : TagRecord :=
  { ownedBy5 with state := .shared, slot1 := slotOf 6 .read, slot3 := slotOf 9 .readWrite }

theorem test_meets_recordDecision :
    sharedRec.slots = [] ++ slotOf 6 .read :: [0, slotOf 9 .readWrite] ∧
      sharedRec.slots = [slotOf 6 .read, 0] ++ slotOf 9 .readWrite :: [] ∧
      slotPresent (slotOf 9 .readWrite) = true ∧ slotDomain (slotOf 9 .readWrite) = 9 ∧
      ([slotOf 6 .read, 0].all fun x => !slotPresent x || slotDomain x != 9) = true ∧
      (sharedRec.slots.all fun x => !slotPresent x || slotDomain x != 7) = true := by decide +kernel

theorem test_decision_from_a_shared_record :
    recordOutcome 6 .read (.verified sharedRec) = .allowRead ∧
      recordOutcome 6 .write (.verified sharedRec) = .deny .readOnly ∧
      recordOutcome 9 .write (.verified sharedRec) = .allowReadWrite ∧
      recordOutcome 7 .read (.verified sharedRec) = .deny .notOwner ∧
      recordOutcome 0 .read (.verified sharedRec) = .deny .privateGranule := by decide +kernel

/-- A check of domain 5 on link 1 in a phase, for a granule. -/
def openAt (g : Nat) (ph : CheckPhase) (seen : Option RecordSeen) : OpenCheck :=
  { link := 1, tag := 7, source := 2, address := 0x4000, access := .read, cacheWanted := true, epoch := 1
    phase := ph, classified := some { result := .domain 5, decidedBy := .element 1, watched := none }
    window := some { window := 0, mode := .tagged, base := 0x4000, granule := .kib4 }
    granule := some g, seen := seen, stale := false, oldEpoch := false }

/-- `tagged` with one open check whose record read waits. -/
def waiting (g : Nat) : State :=
  { tagged with
    openChecks := [openAt g .waitRecord none]
    store := { tagged.store with verdictQ := [(1, 7)] } }

theorem test_meets_recordReadGrant :
    (waiting 4).arbPick = some .verdict ∧ (waiting 4).store.verdictQ = (1, 7) :: [] ∧
      (waiting 4).openChecks.find? (fun x => x.named (1, 7)) = some (openAt 4 .waitRecord none) ∧
      4 < (waiting 4).capacity ∧ (waiting 4).readRecord 4 = .verified ownedBy5 ∧
      (waiting 5).readRecord 5 = .unverifiable (Vector.replicate 16 0) ∧
      (waiting 16777216).capacity ≤ 16777216 := by decide +kernel

/-- `tagged` with one open check decided. -/
def decided (o : CheckOutcome) : State :=
  { tagged with openChecks := [openAt 4 (.deciding o) (some (.verified ownedBy5))] }

theorem test_meets_verdictIssue :
    (decided .allowReadWrite).offered 1 = some (openAt 4 (.deciding .allowReadWrite) (some (.verified ownedBy5))) ∧
      (decided (.deny .notOwner)).offered 1 =
        some (openAt 4 (.deciding (.deny .notOwner)) (some (.verified ownedBy5))) ∧
      DenyReason.logged .notOwner = true ∧
      (decided (.deny .notOwner)).reports.q0.fill < (decided (.deny .notOwner)).reports.q0.size := by
  decide +kernel

theorem test_issue_grants_and_logs :
    nextHas (exec (.verdictIssue 1) (decided .allowReadWrite)) (fun t =>
      t.holders 4 == 2 && t.openChecks.isEmpty) = true ∧
    nextHas (exec (.verdictIssue 1) (decided (.deny .notOwner))) (fun t =>
      t.holders 4 == 0 && t.reports.q0.fill == 1 && t.violation 5 == { flag := true, count := 1 }) = true := by
  decide +kernel

/-! ### Directory, revocation, flushes and steps: the hypotheses of the statements -/

theorem test_meets_drop :
    flushing.Takes 0 (.drop 0 3) ∧ flushing.Serves 0 ∧ flushing.pendingOn 3 0 = false ∧
      LinkSet.has (flushing.holders 3) 0 = true ∧ LinkSet.has (flushing.holders 3) 2 = false ∧
      (withFence run revoking).pendingOn 3 0 = true ∧ (withFence run revoking).Takes 0 (.drop 0 3) ∧
      flushing.dirFind 3 = some 12 := by decide +kernel

theorem test_meets_revokeAck :
    (withFence run revoking).Takes 0 (.revokeAck 0 3 7) ∧ (withFence run revoking).Serves 0 ∧
      (withFence run revoking).fenceOf 3 = some revoking ∧ revoking.phase = .revoking ∧
      revoking.consulted = true ∧ revoking.genRead = some 7 ∧ LinkSet.has revoking.pending 0 = true ∧
      LinkSet.has revoking.pending 1 = false ∧ (withFence run revoking).fenceOf 4 = none := by
  decide +kernel

theorem test_meets_flushAck :
    flushing.Takes 1 (.flushAck 1) ∧ flushing.Serves 1 ∧ (flushing.link 1).flushOutstanding = true ∧
      run.Takes 1 (.flushAck 1) ∧ (run.link 1).flushOutstanding = false := by decide +kernel

/-- The same entry before its directory consultation. -/
def written : FenceEntry := { revoking with consulted := false, pending := 0, timer := none }

theorem test_meets_consultation :
    (withFence flushing written).fenceOf 3 = some written ∧ written.phase = .revoking ∧
      written.consulted = false ∧ written.genRead = some 7 ∧
      LinkSet.has ((withFence flushing written).holders 3) 0 = true ∧
      ((withFence flushing written).link 0).flushOutstanding = false := by decide +kernel

theorem test_revoke_goes_to_links_without_a_flush :
    nextHas (exec (.directoryConsultation 3) (withFence flushing written)) (fun t =>
      (t.link 0).outbound == [.revoke 3 7] && (t.link 1).outbound.isEmpty &&
      t.fence.map FenceEntry.pending == [3]) = true := by decide +kernel

/-- A message whose tests pass in `run`. -/
theorem test_meets_carries :
    run.Carries mh (.cfgRead mh .timeBase) run ∧ boot.Carries { mh with source := 9 } (.commit { mh with source := 9 }) boot := by
  decide +kernel

/-- The direct command queue full. -/
def fullQueue : State :=
  { run with directQueue := List.replicate 16 (directEntry { mh with link := 1 } (.release 5) 3 1) }

theorem test_meets_tagCommands :
    let r : RangeArg := rng .address 0x4000 12
    let out : RangeArg := rng .address 0x4000 13
    tagcmdFrame mh r (.release 5) = some (.release mh r 5) ∧ run.Carries mh (.release mh r 5) run ∧
      run.directQueue.length < 16 ∧ (StepKind.release 5).argsOk = true ∧
      run.active.rangeFirst r.form r.first r.count = some 4 ∧
      fullQueue.Carries mh (.release mh r 5) fullQueue ∧ 16 ≤ fullQueue.directQueue.length ∧
      (StepKind.release 1024).argsOk = false ∧ (StepKind.release 0).argsOk = false ∧
      (StepKind.share 5 5 .read).argsOk = false ∧
      run.active.rangeFirst out.form out.first out.count = none := by decide +kernel

/-- The content of a REBUILD that is well made. -/
def remade : RebuildContent :=
  { state := .shared, owner := 5, sharers := [(6, .read)], platformAccess := true, label := 1 }

theorem test_every_tagcmd_is_carried_out :
    run.Carries mh (.assign mh (rng .index 3 1) 5 false 0) run ∧
      run.Carries mh (.share mh (rng .index 3 1) 5 6 .read) run ∧
      run.Carries mh (.unshare mh (rng .index 3 1) 5 6) run ∧
      run.Carries mh (.transfer mh (rng .index 3 1) 5 6) run ∧
      run.Carries mh (.setAttr mh (rng .index 3 1) 5 true 1) run ∧
      run.Carries mh (.rebuild mh (rng .index 3 1) remade) run ∧
      (StepKind.rebuild remade).argsOk = true ∧ (StepKind.assign 1023 false 0).argsOk = true ∧
      (StepKind.transfer 5 5).argsOk = true := by decide +kernel

/-- A direct command in front. -/
def queued (k : StepKind) (first n : Nat) : State :=
  { tagged with directQueue := [directEntry mh k first n] }

theorem test_meets_allocation :
    (queued (.release 5) 4 2).chosen = some (.direct, 4, .release 5) ∧ (queued (.release 5) 4 2).Between ∧
      (queued (.release 5) 4 2).fence.length < 8 := by decide +kernel

theorem test_meets_outOfRange :
    (queued (.release 5) 16777216 2).directQueue = [directEntry mh (.release 5) 16777216 2] ∧
      (queued (.release 5) 16777216 2).capacity ≤ 16777216 + 0 ∧
      (let k : Channel := { holding .executing .none 0 0 with
         rangeFirst := 16777215, nextOffset := 1, block := some { blockOf blockA with flags := 2 } }
       (withChan 0 k).chainNext 0 = some (16777216, .assign 41 false 0xB7) ∧
         ((withChan 0 k).chan 0).nextOffset + 1 ≠ ((withChan 0 k).chan 0).rangeCount ∧
         (((withChan 0 k).chan 0).block.any Block.stopOnError) = false) := by decide +kernel

/-- The COMMAND class asked for one access of the step of granule 4. -/
def commanded (a : StepAccess) (e : FenceEntry) : State :=
  { tagged with
    fence := [e], store := { tagged.store with commandQ := [{ granule := e.granule, access := a }] } }

theorem test_meets_commandRead :
    let pass := commanded .read (newFence 4 .direct (.release 5))
    pass.arbPick = some .command ∧ pass.fenceOf 4 = some (newFence 4 .direct (.release 5)) ∧
      4 < pass.capacity ∧ pass.stepFails (.release 5) (pass.readRecord 4) = none ∧
      pass.stepFails (.release 6) (pass.readRecord 4) = some .wrongOwner ∧
      (commanded .read (newFence 4 .sweep .quarantine)).readRecord 4 = .verified ownedBy5 ∧
      (commanded .read (newFence 5 .sweep .quarantine)).readRecord 5 =
        .unverifiable (Vector.replicate 16 0) := by decide +kernel

theorem test_meets_stepTests :
    run.stepFails (.release 5) (.unverifiable (Vector.replicate 16 0)) = some .integrity ∧
      (fencedRecord (.verified ownedBy5)).state = .fenced ∧ sharedRec.state = .shared ∧
      run.stepFails (.unshare 5 9) (.verified sharedRec) = none ∧
      run.stepFails (.share 5 6 .read) (.verified sharedRec) = some .alreadySharer ∧
      (finalRecord (.unshare 5 6) (.verified sharedRec)).sharers = [(9, .readWrite)] := by decide +kernel

/-- The entry of a TRANSFER of granule 4 that has its prior record. -/
def transferEntry (ph : FencePhase) : FenceEntry :=
  { newFence 4 .direct (.transfer 5 6) with
    phase := ph, prior := some (.verified ownedBy5), genRead := some 7, consulted := ph == .finishing }

theorem test_tagged_memory : tagged.MemoryOk := by unfold State.MemoryOk; decide +kernel

theorem test_meets_fenceWrite :
    let s := commanded .fenceWrite (transferEntry .fencing)
    s.arbPick = some .command ∧ s.fenceOf 4 = some (transferEntry .fencing) ∧ 4 < s.capacity ∧
      s.dram = tagged.dram := by decide +kernel

theorem test_meets_finalWrite :
    let s := commanded .finalWrite (transferEntry .finishing)
    s.arbPick = some .command ∧ s.fenceOf 4 = some (transferEntry .finishing) ∧ 4 < s.capacity ∧
      s.dram = tagged.dram ∧ (transferEntry .finishing).source ≠ .retire := by decide +kernel

theorem test_final_write_moves_the_owned_count :
    nextHas (exec .finalWriteGrant (commanded .finalWrite (transferEntry .finishing))) (fun t =>
      t.readRecord 4 == .verified { ownedBy5 with owner := 6, generation := 8 } &&
      (t.domainEntry 5).owned == 1 && (t.domainEntry 6).owned == 1 && t.fence.isEmpty) = true := by
  decide +kernel

/-! ### Domains, the sweep and the store: the hypotheses of the statements -/

theorem test_meets_domainOpen :
    run.Carries mh (.domainOpen mh 1024) run ∧ (1023 : Nat) < (1024 : DomainNo).toNat ∧
      run.Carries mh (.domainOpen mh 0) run ∧ (run.domainEntry 5).state ≠ .absent ∧
      run.Carries mh (.domainOpen mh 1023) run ∧ (run.domainEntry 1023).state = .absent := by
  decide +kernel

/-- A retire of domain 5 at a position. -/
def retiring : State :=
  { tagged with
    domains := [(5, { state := .retiring, owned := 1 })]
    retire := { RetireScanner.reset with running := true, domain := 5, position := some (0, 4) }
    store := { tagged.store with retireQ := some 4 } }

/-- No window is TAGGED and in use. -/
def untagged : State := { run with active := { policy with windows := PolicyCopy.reset.windows } }

theorem test_meets_domainRetire :
    run.Carries mh (.domainRetire mh 1024) run ∧ run.Carries mh (.domainRetire mh 0) run ∧
      run.Carries mh (.domainRetire mh 5) run ∧ run.retire.running = false ∧
      (run.domainEntry 5).state ≠ .absent ∧ (run.domainEntry 7).state = .absent ∧
      run.active.firstTagged 0 = some (0, 0) ∧ untagged.Carries mh (.domainRetire mh 5) untagged ∧
      untagged.active.firstTagged 0 = none ∧ retiring.Carries mh (.domainRetire mh 5) retiring ∧
      retiring.retire.running = true := by decide +kernel

theorem test_meets_scanningRead :
    let shared : State := retiring.writeRecord 4 { sharedRec with owner := 6, slot1 := slotOf 5 .read }
    retiring.arbPick = some .retire ∧ retiring.store.retireQ = some 4 ∧ 4 < retiring.capacity ∧
      retiring.fenced 4 = false ∧ retiring.readRecord 4 = .verified ownedBy5 ∧
      ownedBy5.countedOwner = some retiring.retire.domain ∧
      (withFence retiring (newFence 4 .direct (.release 5))).fenced 4 = true ∧
      (match shared.readRecord 4 with
       | .verified r => r.countedOwner == some 6 && r.hasSharer 5
       | .unverifiable _ => false) = true ∧
      freeRecord.countedOwner = none ∧
      retiring.readRecord 5 = .unverifiable (Vector.replicate 16 0) := by decide +kernel

/-- The sweep at a position, with a credit pending. -/
def sweeping (w o : Nat) : State :=
  { tagged with sweep := { tagged.sweep with creditPending := true, window := w, offset := o } }

theorem test_meets_sweepPlacement :
    (sweeping 0 4).sweep.creditPending = true ∧ (sweeping 0 4).store.sweepQ = none ∧
      (sweeping 0 4).sweep.held = none ∧ (sweeping 0 4).sweep.requests = [] ∧
      (sweeping 0 4).active.positionStands 0 15 = true ∧ (sweeping 0 4).active.positionStands 0 16 = false ∧
      (sweeping 0 4).active.nextPosition 0 16 = none ∧ (sweeping 0 4).active.firstTagged 0 = some (0, 0) ∧
      untagged.active.firstTagged 0 = none ∧
      (let p : PolicyCopy := { policy with windows := policy.windows.set 4 (win 0x500000 16 .tagged) }
       p.positionStands 3 0 = false ∧ p.nextPosition 3 0 = some (4, 0)) := by decide +kernel

/-- A sweep read of granule `g` waits. -/
def sweepRead (g : Nat) : State := { tagged with store := { tagged.store with sweepQ := some g } }

theorem test_meets_sweepRead :
    (sweepRead 4).arbPick = some .sweep ∧ (sweepRead 4).store.sweepQ = some 4 ∧
      4 < (sweepRead 4).capacity ∧ (sweepRead 4).readRecord 4 = .verified ownedBy5 ∧
      (sweepRead 5).fenced 5 = false ∧ (sweepRead 5).sweep.capture = none ∧
      (sweepRead 5).readRecord 5 = .unverifiable (Vector.replicate 16 0) ∧
      (withFence (sweepRead 4) (newFence 4 .direct (.release 5))).fenced 4 = true ∧
      (sweepRead 5).reports.q1.fill < (sweepRead 5).reports.q1.size := by decide +kernel

/-- The part in STARTUP with a store, TABLE_INIT running or not, at a progress. -/
def storing (running : Bool) (n : Nat) : State :=
  { boot with store := { boot.store with
      geometry := some 24, initRunning := running, initProgress := n, softTurn := .initWrite } }

theorem test_meets_tableInit :
    boot.Carries mh (.tableInit mh) boot ∧ boot.store.geometry = none ∧
      (storing true 0).Carries mh (.tableInit mh) (storing true 0) ∧
      (storing false 0).Carries mh (.tableInit mh) (storing false 0) ∧
      (storing false 0).store.geometry ≠ none ∧ run.Carries mh (.tableInit mh) run ∧
      run.mode = .operating := by decide +kernel

theorem test_boot_memory : (storing true 0).MemoryOk := by unfold State.MemoryOk; decide +kernel

theorem test_meets_initWrite :
    (storing true 0).softOffer = some .initWrite ∧ (storing true 0).arbPick = some .software ∧
      (storing true 0).store.initProgress < (storing true 0).capacity ∧
      (storing true 16777215).store.initProgress + 1 = (storing true 16777215).capacity := by
  decide +kernel

theorem test_last_init_write :
    nextHas (exec .tableInitWriteGrant (storing true 16777215)) (fun t =>
      t.store.tableValid && !t.store.initRunning && t.store.initProgress == 16777216 &&
      t.reports.status == Status.tableInitDone.mask &&
      t.readRecord 16777215 == .verified freeRecord) = true := by decide +kernel

/-- Requests of the VERDICT and SWEEP classes wait; the SWEEP class was passed over `n` times. -/
def contended (n : Nat) : State :=
  { waiting 4 with store := { (waiting 4).store with
      sweepQ := some 5, passOver := { (waiting 4).store.passOver with sweep := n } } }

theorem test_meets_arbiter :
    (contended 63).arbPick = some .verdict ∧ (contended 64).arbPick = some .sweep ∧
      ((contended 63).countGrant .verdict).store.passOver.sweep = 64 ∧
      ((contended 64).countGrant .sweep).store.passOver.verdict = 1 ∧
      (storing true 0).classReady .command = false := by decide +kernel

theorem test_meets_software :
    run.Carries mh (.tagRead mh 4 0) run ∧ run.Carries mh (.tagScan mh 4 .owned (some 5)) run ∧
      run.store.geometry ≠ none ∧ run.capacity ≤ 16777216 ∧ (16777215 : Nat) < run.capacity ∧
      boot.Carries mh (.tagRead mh 4 5) boot ∧ boot.store.geometry = none := by decide +kernel

/-- A software request in front with its read queued. -/
def softReading (next stop : Nat) (k : SoftKind) : State :=
  { tagged with store := { tagged.store with
      softRead := some { granule := next, live := true }
      softQueue := [{ link := 0, tag := 3, first := 3, next := next, stop := stop, kind := k }] } }

theorem test_meets_softwareRead :
    let s := softReading 3 5 (.read [])
    s.softOffer = some .softwareRead ∧ s.arbPick = some .software ∧ (3 : Nat) < s.capacity ∧
      scanMatches .owned (some 5) (s.readRecord 4) = true ∧
      scanMatches .owned (some 5) (s.readRecord 3) = false := by decide +kernel

theorem test_reads_and_scans :
    nextHas (exec .softwareReadGrant (softReading 3 5 (.read []))) (fun t =>
      t.store.softRead == some { granule := 4, live := true }) = true ∧
    nextHas (exec .softwareReadGrant (softReading 4 5 (.scan .owned (some 5)))) (fun t =>
      (t.link 0).outbound == [.tagData 3 (.found 4)] && t.store.softQueue.isEmpty) = true ∧
    nextHas (exec .softwareReadGrant (softReading 3 4 (.scan .owned none))) (fun t =>
      (t.link 0).outbound == [.tagData 3 (.noneFound 4)]) = true := by decide +kernel

/-- A link with a message to send and a frame held. -/
def sending (st : LinkState) (held : List Instr) : State :=
  run.setLink 0 { upLink with state := st, outbound := [.flushAll, .announceReply .badSum none], held := held }

theorem test_meets_outbound :
    ((sending .announcing []).link 0).outbound.find? OutMsg.isAnnounceReply = some (.announceReply .badSum none) ∧
      ((sending .active [.check 0 (chk 2 0)]).link 0).outbound.head? = some .flushAll ∧
      ((sending .active [.check 0 (chk 2 0)]).setLink 0 { (sending .active [.check 0 (chk 2 0)]).link 0 with
        outbound := [.announceReply .badSum none] }).mustHold 0 (.check 0 (chk 2 0)) = false := by
  decide +kernel

/-- Link 0 HELD, its 32 reply places in use, with `first` to be sent before them and a frame held. -/
def waitingLink (replies : Nat) (first : OutMsg) (f : Instr) : State :=
  run.setLink 0 { upLink with
    state := .held, outbound := first :: List.replicate replies (.controlReply 0 .accepted), held := [f] }

/-- Link 0 HELD with a VERDICT to send, some checks open and a CHECK held. -/
def verdictFirst (checks : Nat) : State :=
  { waitingLink 0 (.verdict ((openAt 4 .waitRecord none).verdict .allowRead false)) (.check 0 (chk 2 0)) with
    openChecks := List.replicate checks { openAt 4 .waitRecord none with link := 0, tag := 9 } }

theorem test_meets_placeFreed :
    (OutMsg.controlReply 0 .accepted).isReply = true ∧ repliesTo (.commit mh) = true ∧
      ((waitingLink 31 (.controlReply 0 .accepted) (.commit mh)).link 0).outbound.head? =
        some (.controlReply 0 .accepted) ∧
      (waitingLink 31 .flushAll (.commit mh)).mustHold 0 (.commit mh) = false ∧
      64 ≤ (verdictFirst 63).verdictPlacesUsed 0 ∧ (verdictFirst 62).verdictPlacesUsed 0 = 63 := by
  decide +kernel

/-- A frame that waits for a reply place is taken at the sending of a reply, not at that of another message, also
when a dropped reply has left a place free. -/
theorem test_held_frame_waits_for_a_reply_sent :
    nextHas (exec (.outboundMessageSent 0) (waitingLink 31 .flushAll (.commit mh))) (fun t =>
      (t.link 0).held == [.commit mh]) = true ∧
    nextHas (exec (.outboundMessageSent 0) (waitingLink 31 (.controlReply 0 .accepted) (.commit mh))) (fun t =>
      (t.link 0).held.isEmpty && (t.link 0).outbound.getLast? ==
        some (.refuse { kind := .management, tag := 15 } .notAdmitted)) = true ∧
    nextHas (exec (.outboundMessageSent 0) (waitingLink 32 (.controlReply 0 .accepted) (.commit mh))) (fun t =>
      (t.link 0).held == [.commit mh] && (t.link 0).outbound.length == 32) = true ∧
    nextHas (exec (.outboundMessageSent 0) (verdictFirst 63)) (fun t => (t.link 0).held.isEmpty) = true ∧
    nextHas (exec (.outboundMessageSent 0) (verdictFirst 62)) (fun t => !(t.link 0).held.isEmpty) = true := by
  decide +kernel

/-! ### Commit, start and chains: the hypotheses of the statements -/

/-- The part in STARTUP, ready for START but for the fields named. -/
def ready (running valid : Bool) (e : Epoch) (p : PolicyCopy) : State :=
  { boot with
    active := p, epoch := e
    store := { boot.store with geometry := some 24, initRunning := running, tableValid := valid } }

theorem test_meets_commit :
    ({ run with phase := .flushing } : State).Carries mh (.commit mh) { run with phase := .flushing } ∧
      ({ run with epoch := 4294967295 } : State).Carries mh (.commit mh) { run with epoch := 4294967295 } ∧
      run.Carries mh (.commit mh) run ∧
      run.phase = .idle ∧ run.epoch ≠ 4294967295 ∧ run.shadow.validate run.capacity = none ∧
      ({ run with shadow := table82 } : State).Carries mh (.commit mh) { run with shadow := table82 } ∧
      table82.validate run.capacity = some (.overlap 5 7) := by decide +kernel

theorem test_meets_start :
    (ready false true 1 policy).Carries mh (.start mh) (ready false true 1 policy) ∧
      (ready false true 1 policy).mode = .startup ∧
      ((ready false true 1 policy).active.classify 0 1).result = .domain 0 ∧
      ((ready false true 1 PolicyCopy.reset).active.classify 0 1).result ≠ .domain 0 ∧
      ((ready false true 1 PolicyCopy.reset).active.classify 0 1).watched = none ∧
      (ready true true 1 policy).store.initRunning = true ∧ (ready false false 1 policy).store.tableValid = false ∧
      (ready false true 0 policy).epoch = 0 := by decide +kernel

/-- The arguments of the CHAIN_START of section 7.9. -/
def startArg : ChainStartArg :=
  { channel := 0, fetchLink := 0, firstBlock := 0x80000000, notifyAddr := some 0x80002000, notifyValue := 1 }

theorem test_meets_chainStart :
    run.Carries mh (.chainStart mh startArg) run ∧ startArg.firstBlock.toNat % 32 = 0 ∧
      startArg.firstBlock.toNat < 2 ^ 52 ∧ (run.chan 0).state = .idle ∧ (run.link 0).state = .active ∧
      (run.link 2).state ≠ .active ∧ 2 ^ 52 ≤ (0x10000000000000 : Quad).toNat ∧
      1 < ({ startArg with channel := 2 } : ChainStartArg).channel.toNat ∧
      3 < ({ startArg with fetchLink := 4 } : ChainStartArg).fetchLink.toNat := by decide +kernel

/-- `run` with channel 1 as given. -/
def chan1 (k : Channel) : State := withChan 1 k

theorem test_meets_chainControl :
    run.Carries mh (.chainStop mh 2) run ∧ run.Carries mh (.chainResume mh 255) run ∧
      run.Carries mh (.chainStatus mh 2) run ∧ run.Carries mh (.chainStop mh 1) run ∧
      (chan1 (holding .executing .none 2 1)).Carries mh (.chainStop mh 1) (chan1 (holding .executing .none 2 1)) ∧
      (chan1 (holding .executing .none 2 0)).Carries mh (.chainStop mh 1) (chan1 (holding .executing .none 2 0)) ∧
      (chan1 (holding .stopped .none 2 0)).Carries mh (.chainResume mh 1) (chan1 (holding .stopped .none 2 0)) ∧
      (chan1 (fetching .stopped .read .none)).Carries mh (.chainResume mh 1)
        (chan1 (fetching .stopped .read .none)) := by decide +kernel

theorem test_meets_chainCancel :
    run.Carries mh (.chainCancel mh 2) run ∧ run.Carries mh (.chainCancel mh 0) run ∧
      (run.chan 0).state ≠ .stopped ∧
      (chan1 (holding .stopped .none 2 0)).Carries mh (.chainCancel mh 1) (chan1 (holding .stopped .none 2 0)) ∧
      ((chan1 (holding .stopped .none 2 0)).chan 1).state = .stopped := by decide +kernel

/-- The policy of section 2.3 in a channel that fetches. -/
def fetched (stop : Bool) : State :=
  { withChan 0 { fetching .fetching .read .none with stopRequested := stop } with active := sec23 }

/-- Block A with an unknown kind code, and with a next address that is not aligned. -/
def badKind : Vector Byte 32 := blockA.set 0 7
def badNext : Vector Byte 32 := blockA.set 24 1

theorem test_meets_memData :
    (fetched false).Takes 0 (.memData 0 0 blockA) ∧ (fetched false).Serves 0 ∧
      (fetched false).answered 0 .read 0 = some 0 ∧ (fetched false).answered 0 .read 1 = none ∧
      (match (blockOf blockA).validate (fetched true).active with
       | .ok i => i == 50332248
       | .error _ => false) = true ∧
      (match (blockOf badKind).validate sec23 with
       | .ok _ => false
       | .error r => r == .badArgument && !(blockOf badKind).postsWhenBad) = true ∧
      (match (blockOf badNext).validate sec23 with
       | .ok _ => false
       | .error r => r == .badArgument && (blockOf badNext).postsWhenBad) = true := by decide +kernel

/-- Channel 0 in POSTING at a stage of its last block, with a notify address. -/
def posting (stage : PostStage) : State :=
  withChan 0 { holding .posting stage 4 0 with
    notifyAddr := some 0x80002000, block := some { blockOf blockA with nextAddr := 0 } }

theorem test_meets_memDone :
    (posting .status).Takes 0 (.memDone 0 0) ∧ (posting .status).Serves 0 ∧
      (posting .status).answered 0 .write 0 = some 0 ∧ (posting .status).answered 1 .write 0 = none ∧
      ((posting .badStatus).chan 0).posting = .badStatus ∧
      ((posting .notify).chan 0).notifyAddr = some 0x80002000 := by decide +kernel

theorem test_posting_goes_on :
    nextHas (exec (.memDone 0 0) (posting .status)) (fun t =>
      (t.chan 0).posting == .notify && (t.link 0).outbound ==
        [.memWrite 1 0x80002000 [0, 0, 0, 0, 0, 0, 0, 0]]) = true ∧
    nextHas (exec (.memDone 0 0) (posting .notify)) (fun t =>
      (t.chan 0).termination == some { cause := .normalEnd, block := 0x80000000, offset := 4 } &&
      StatusSet.has t.reports.status .chain0End) = true := by decide +kernel

/-! ### Reports and parameters: the hypotheses of the statements -/

/-- An event record. -/
def anEvent : EventRecord :=
  { time := 3, kind := .integrity, link := none, granule := some 4, domain := none, detail := .checks 1 2 }

/-- Q1 with `n` records of `size`. -/
def q1 (size n : Nat) (m : QueueMode) : State :=
  { run with reports := { run.reports with q1 := { run.reports.q1 with
      size := size, mode := m, watermark := 2, records := List.replicate n anEvent } } }

theorem test_meets_recordStored :
    (q1 3 1 .blocking).reports.q1.fill < (q1 3 1 .blocking).reports.q1.size ∧
      (q1 3 1 .blocking).reports.q1.fill + 1 = (q1 3 1 .blocking).reports.q1.watermark ∧
      (q1 0 0 .overwrite).reports.q1.size = 0 ∧
      (q1 3 3 .blocking).reports.q1.size ≤ (q1 3 3 .blocking).reports.q1.fill ∧
      (q1 3 3 .overwrite).reports.q1.mode = .overwrite ∧ 0 < (q1 3 3 .overwrite).reports.q1.size := by
  decide +kernel

theorem test_meets_notify :
    run.reports.notifyDue = 0 ∧
      ({ run with reports := { run.reports with notifyDue := 2 } } : State).reports.notifyDue ≠ 0 := by
  decide +kernel

theorem test_meets_logs :
    let s := q0 .overwrite 6 4
    s.Carries mh (.logRead mh .q0 7 2) s ∧ s.Carries mh (.logAck mh .q0 1) s ∧
      (3 : Nat) < s.reports.q0.fill ∧ 1 = (s.reports.q0.get + 3) % s.reports.q0.size ∧
      (∀ k : Fin 4, 2 ≠ (s.reports.q0.get + k.val) % s.reports.q0.size) ∧
      (q1 3 1 .blocking).reports.q1.records[0]? = some anEvent := by decide +kernel

theorem test_meets_queuesOk : (q0 .overwrite 6 4).QueuesOk ∧ (q1 3 1 .blocking).QueuesOk := by
  unfold State.QueuesOk QueueOk; decide +kernel

theorem test_meets_reportClears :
    run.Carries mh (.captureClear mh) run ∧ run.Carries mh (.flagsClear mh 1023 65535) run ∧
      run.Carries mh (.notifyClear mh 0x1FFF) run := by decide +kernel

theorem test_run_tables : run.TablesOk := by unfold State.TablesOk; decide +kernel

theorem test_meets_parameterAccess :
    run.Carries mh (.cfgRead mh (.linkState 3)) run ∧ (run.readParam (.linkState 3)).isSome = true ∧
      run.readParam (.linkState 4) = none ∧ run.Carries mh (.cfgRead mh (.linkState 4)) run ∧
      run.Carries mh (.cfgWrite mh (.window .base 15 .shadow) 1) run ∧
      run.Carries mh (.cfgWrite mh (.window .base 16 .active) 1) run ∧
      run.Carries mh (.cfgWrite mh .timeBase 1) run := by decide +kernel

theorem test_meets_geometryWrite :
    boot.Carries mh (.storeGeometry mh 99) boot ∧ boot.mode = .startup ∧
      (storing true 0).Carries mh (.storeGeometry mh 0) (storing true 0) ∧
      run.Carries mh (.storeGeometry mh 25) run ∧
      ({ boot with active := sec23 } : State).Carries mh (.storeGeometry mh 25) { boot with active := sec23 } ∧
      2 ^ 25 < (sec23.windows[(2 : Fin 16)]).tagBase + (sec23.windows[(2 : Fin 16)]).effSize ∧
      boot.fence = [] ∧ boot.store.softQueue = [] ∧ boot.sweep.requests = [] := by decide +kernel

theorem test_boot_tables : boot.TablesOk := by unfold State.TablesOk; decide +kernel

theorem test_meets_parameterWrites :
    run.Carries mh (.admission mh 1 0) run ∧ (run.link 1).state = .active ∧
      (onLink run 1 .held).Carries mh (.admission mh 1 2) (onLink run 1 .held) ∧
      boot.Carries mh (.admission mh 3 1) boot := by decide +kernel

theorem test_meets_moreParameterWrites :
    run.Carries mh (.errorCounter mh 3 .unexpected 9) run ∧
      run.Carries mh (.queueSizeWrite mh .q0 4097) run ∧ run.Carries mh (.queueSizeWrite mh .q1 0) run ∧
      run.Carries mh (.notifyEnable mh 0xFFFF) run ∧ run.Carries mh (.pacerParameterWrite mh .b 0) run ∧
      run.Carries mh (.sweepEnable mh 0) run := by decide +kernel

theorem test_admission_clear_holds_the_link :
    nextHas (exec (.admission mh 1 0) run) (fun t =>
      (t.link 1).state == .held && (t.link 1).flushOutstanding && (t.link 1).outbound == [.flushAll]) = true := by
  decide +kernel

/-! ### Further clauses: the stages of a frame, and what is read -/

/-- `run` with `n` replies still to be sent on link 0, and `m` checks of it open. -/
def crowded (n m : Nat) : State :=
  { run.setLink 0 { upLink with outbound := List.replicate n (.controlReply 0 .accepted) } with
    openChecks := (List.range m).map fun i =>
      { openAt 4 (.deciding .allowRead) none with link := 0, tag := i } }

theorem test_meets_frameStages :
    managedHeader (.commit mh) = some mh ∧ (State.reset.link 0).state.inSession = false ∧
      ((sending .active [.commit mh]).link 0).held ≠ [] ∧ 32 ≤ (crowded 32 0).replyPlacesUsed 0 ∧
      (crowded 31 0).Takes 0 (.commit mh) ∧ greeting.Takes 0 (.commit mh) ∧
      run.Takes 0 (.commit { mh with tag := 16 }) ∧ run.Serves 0 ∧ busy.Takes 0 (.commit mh) ∧ busy.Serves 0 ∧
      busy.tagOutstanding 0 15 = true ∧ (onLink run 0 .held).Takes 0 (.commit mh) ∧
      (onLink run 0 .admitWait).Takes 0 (.commit mh) ∧ run.tagOutstanding 0 15 = false ∧
      (run.authority { mh with source := 9 }).2 = false := by decide +kernel

theorem test_meets_authority :
    boot.mode = .startup ∧ run.mode = .operating ∧
      (boot.authority { mh with source := 9 } == (boot, true)) = true ∧
      (run.active.classify 0 1).result = .domain 0 ∧ (run.active.classify 0 2).result = .domain 5 ∧
      (run.active.classify 0 3).result = .block ∧ (run.active.classify 0 9).result = .unclassified ∧
      (table35.classify 2 0x2042).watched = some 1 := by decide +kernel

theorem test_a_tenant_is_refused :
    nextHas (exec (.commit { mh with source := 2 }) run) (fun t => t.epoch == 1 &&
      (t.link 0).outbound.head? == some (.refuse { kind := .management, tag := 15 } .notPlatform) &&
      t.reports.q1.records.map EventRecord.detail == [.auth .tenant]) = true := by decide +kernel

theorem test_meets_checkStages :
    64 ≤ (crowded 0 64).verdictPlacesUsed 0 ∧ (crowded 0 7).Takes 0 (.check 0 (chk 2 0)) ∧
      run.maxOpen 0 ≤ ({ chk 2 0 with tag := 8 } : CheckMsg).tag ∧ (chk 2 0).tag < run.maxOpen 0 ∧
      (crowded 0 7).tagOpen 0 7 = false ∧ (crowded 0 8).tagOpen 0 7 = true ∧
      (crowded 0 8).Takes 0 (.check 0 (chk 2 0)) ∧ greeting.Takes 0 (.check 0 (chk 2 0)) ∧
      (greeting.link 0).held = [] ∧ run.Takes 0 (.announce 0 hello) := by decide +kernel

theorem test_meets_policyReading :
    (win 0x300000 0 .closed).effBase ≤ 0x30FFFF ∧ 0x30FFFF < (win 0x300000 0 .closed).limit ∧
      (win 0x300000 0 .closed).limit = 0x310000 ∧ (win 0x300000 0 .closed).inUse = true ∧
      (elem 2 .domain 5).matchesPair 3 2 = true ∧ ((elem 2 .domain 5).matchesPair 3 3) = false ∧
      (table35.element 1).matchesPair 2 0x20FF = true ∧ (table35.element 1).matchesPair 2 0x2100 = false ∧
      (table35.element 3).matchesPair 0 0x017F = true ∧ (table35.element 3).matchesPair 0 0x0180 = false := by
  decide +kernel

theorem test_meets_badPolicy :
    let p (d : DomainNo) : PolicyCopy :=
      { commit4 with nonMatch := commit4.nonMatch.set 1 { isDomain := true, domain := d } }
    (p 1024).validate (2 ^ 26) = some (.badElement (.policy 1)) ∧ (p 1023).validate (2 ^ 26) = none := by
  decide +kernel

/-- Whether the image of a record verifies as that record. -/
def verifies (r : TagRecord) : Bool := verify (recordImage r) == .verified r

theorem test_meets_recordReading :
    verifies { ownedBy5 with owner := 1023 } = true ∧ verifies { ownedBy5 with owner := 1024 } = false ∧
      verifies { freeRecord with owner := 1 } = false ∧ verifies { ownedBy5 with slot1 := slotOf 6 .read } = false ∧
      verifies sharedRec = true ∧ verifies { freeRecord with state := .quarantined, owner := 1024 } = true ∧
      verifies (fencedRecord (.verified sharedRec)) = true ∧
      verifies (fencedRecord (.verified { freeRecord with state := .quarantined, owner := 1024 })) = true ∧
      tagged.readRecord 4 = .verified ownedBy5 := by decide +kernel

/-! ### Further clauses: verdicts, steps and results -/

/-- A part with a check decided, its entry, its Q0 and its directory as given. -/
def issuing (e : OpenCheck) (q : State) (d : List (Nat × Option DirEntry)) : State :=
  { tagged with openChecks := [e], reports := q.reports, directory := d }

/-- Set 4 of the directory, full with granules other than 4. -/
def fullSet4 : List (Nat × Option DirEntry) :=
  [(16, some { granule := 4100, holders := 1 }), (17, some { granule := 8196, holders := 1 }),
    (18, some { granule := 12292, holders := 2 }), (19, some { granule := 16388, holders := 1 })]

/-- The decided check of granule 4 as a stale one, watched by element 1. -/
def staleCheck : OpenCheck :=
  { openAt 4 (.deciding (.deny .notOwner)) (some (.verified ownedBy5)) with
    stale := true, classified := some { result := .domain 5, decidedBy := .element 1, watched := some 1 } }

theorem test_issue_misses_a_full_set :
    nextHas (exec (.verdictIssue 1) (issuing (openAt 4 (.deciding .allowRead) (some (.verified ownedBy5))) run
      fullSet4)) (fun t => t.directoryMisses == 1 && t.directory == fullSet4) = true ∧
      dirWays 4 = [16, 17, 18, 19] := by decide +kernel

theorem test_issue_of_a_stale_watched_denial :
    let s (q : State) : State :=
      { issuing staleCheck q [] with fence := [{ transferEntry .revoking with staleCount := 2 }] }
    (s run).offered 1 = some staleCheck ∧
      nextHas (exec (.verdictIssue 1) (s (q0 .overwrite 3 8))) (fun t =>
        t.fence.map FenceEntry.staleCount == [1] && t.reports.q0.get == 4 &&
        t.watchReport.map WatchReport.placement == some (.q0 3)) = true ∧
      nextHas (exec (.verdictIssue 1) (s (q0 .blocking 3 8))) (fun t => t.reports.q0.lost &&
        t.watchReport.map WatchReport.placement == some .lost) = true := by decide +kernel

theorem test_meets_furtherStepTests :
    run.contentActive remade = true ∧ run.contentActive { remade with sharers := [(7, .read)] } = false ∧
      run.contentActive { remade with state := .free, owner := 9 } = true := by decide +kernel

theorem test_meets_fenceWrite_unverifiable :
    let e : FenceEntry := { newFence 5 .sweep .quarantine with
      prior := some (.unverifiable (Vector.replicate 16 0)), genRead := some 0 }
    let s := commanded .fenceWrite e
    s.arbPick = some .command ∧ s.fenceOf 5 = some e ∧ 5 < s.capacity ∧
      nextHas (exec .fenceWriteGrant s) (fun t => t.readRecord 5 ==
        .verified { freeRecord with state := .fenced, fencedFrom := .quarantined }) = true := by decide +kernel

/-- The last step of a retire of domain 5, its count at `n`. -/
def lastRetire (n : Nat) : State :=
  { commanded .finalWrite { newFence 4 .retire (.release 5) with
      phase := .finishing, prior := some (.verified ownedBy5), genRead := some 7, consulted := true } with
    domains := [(5, { state := .retiring, owned := n })]
    retire := { RetireScanner.reset with running := true, domain := 5, stepsInFence := 1 } }

theorem test_meets_lastRetire : (lastRetire 2).TablesOk ∧ (lastRetire 1).MemoryOk := by
  unfold State.TablesOk State.MemoryOk; decide +kernel

theorem test_the_last_step_ends_a_retire :
    (lastRetire 1).arbPick = some .command ∧
    nextHas (exec .finalWriteGrant (lastRetire 1)) (fun t => (t.domainEntry 5).state == .absent &&
      !t.retire.running && t.reports.q1.records.isEmpty &&
      StatusSet.has t.reports.status .retireDone) = true ∧
    nextHas (exec .finalWriteGrant (lastRetire 2)) (fun t => (t.domainEntry 5).state == .absent &&
      t.reports.q1.records.map EventRecord.detail == [.count 1]) = true := by decide +kernel

theorem test_results_of_a_direct_command :
    ((queued (.release 5) 4 2).stepResult .direct 4 none).directQueue.map DirectEntry.done = [1] ∧
    ((queued (.release 5) 4 1).stepResult .direct 4 none).directQueue = [] ∧
    (((queued (.release 5) 4 1).stepResult .direct 4 none).link 0).outbound =
      [.commandReply { tag := 15, result := .done, done := 1, failed := 0, firstOffset := none
                       firstReason := none }] ∧
    (((queued (.release 6) 4 1).stepResult .direct 4 (some .wrongOwner)).link 0).outbound =
      [.commandReply { tag := 15, result := .partialDone, done := 0, failed := 1, firstOffset := some 0
                       firstReason := some .wrongOwner }] ∧
    ((queued (.release 6) 4 1).stepResult .direct 4 (some .wrongOwner)).reports.q1.records.map
      EventRecord.granule = [some 4] := by decide +kernel

/-- Channel 0 executing block A up to an offset, with none of its steps in a fence entry. -/
def executing (off : Nat) (stop err lost : Bool) : State :=
  withChan 0 { holding .executing .none off 0 with
    stopRequested := stop, errorStop := err, linkLost := lost }

theorem test_a_channel_settles :
    ((executing 4 false false false).settleChannel 0).chan 0 =
      { (executing 4 false false false).chan 0 with
        state := .posting, posting := .status, sequence := 2
        memRequest := some { kind := .write, tag := 1, expiry := 20 } } ∧
    (((executing 4 true true true).settleChannel 0).chan 0).termination =
      some { cause := .linkLost, block := 0x80000000, offset := 4 } ∧
    (((executing 2 true true true).settleChannel 0).chan 0).state = .idle ∧
    (((executing 2 true true false).settleChannel 0).chan 0).termination =
      some { cause := .stepErrorStop, block := 0x80000000, offset := 2 } ∧
    (((executing 2 true false false).settleChannel 0).chan 0).state = .stopped ∧
    (((executing 2 false false false).settleChannel 0).chan 0).state = .executing := by decide +kernel

/-- Block A with its flags and the next address as given. -/
def blockWith (flags : Byte) (next : Quad) : Block := { blockOf blockA with flags := flags, nextAddr := next }

theorem test_a_completed_block_is_left :
    ((executing 4 false false false).enterPosting 0 (blockWith 0 0x80000020)).chan 0 =
      { (executing 4 false false false).chan 0 with
        state := .fetching, posting := .none, sequence := 2, blockAddr := 0x80000020, block := none
        memRequest := some { kind := .read, tag := 1, expiry := 20 } } ∧
    (((executing 4 false false false).leavePosting 0 (blockWith 0 0)).chan 0).termination =
      some { cause := .normalEnd, block := 0x80000000, offset := 4 } ∧
    (((executing 4 true true false).leavePosting 0 (blockWith 0 32)).chan 0).termination =
      some { cause := .stepErrorStop, block := 32, offset := 0 } ∧
    (((executing 4 true false false).leavePosting 0 (blockWith 0 32)).chan 0).termination =
      some { cause := .stoppedByRequest, block := 32, offset := 0 } := by decide +kernel

theorem test_meets_blockFlags :
    ((List.range 16).map fun n => (blockWith (BitVec.ofNat 8 n) 0).stopAfter).contains true = true ∧
      (blockWith 0 0).postStatus = false ∧ (blockOf blockA).postStatus = true ∧
      ((posting .notify).chan 0).notifyAddr = some 0x80002000 ∧
      ((posting .status).chan 0).block = some { blockOf blockA with nextAddr := 0 } := by decide +kernel

theorem test_a_retire_reports_a_failure :
    (({ lastRetire 2 with retire := { (lastRetire 2).retire with held := some (3, .release 5) } } : State).stepResult
      .retire 4 (some .wrongOwner)).reports.q1.records.map EventRecord.kind = [.commandFailure] ∧
    ((lastRetire 2).stepResult .retire 4 (some .wrongOwner)).reports.q1.records.map EventRecord.kind =
      [.commandFailure, .countResidue] := by decide +kernel

/-! ### Further clauses: reports, parameters and invariants -/

theorem test_meets_timerRecords :
    (withFence (atTime run 64) revoking).reports.q1.fill + 20 ≤
      (withFence (atTime run 64) revoking).reports.q1.size := by decide +kernel

theorem test_meets_denialStores :
    (q0 .overwrite 0 5).reports.q0.fill + 1 = (q0 .overwrite 0 5).reports.q0.watermark ∧
      (q0 .overwrite 0 8).reports.q0.size ≤ (q0 .overwrite 0 8).reports.q0.fill ∧
      (q0 .blocking 0 8).reports.q0.mode = .blocking ∧ denial40.domain = some 40 ∧
      ({ denial40 with domain := none } : DenialRecord).domain = none := by decide +kernel

theorem test_logs_of_both_queues :
    let s := q1 3 3 .blocking
    s.Carries mh (.logAck mh .q1 1) s ∧ (s.logRecords .q1 1 0).length = 1 ∧ (s.logRecords .q1 1 9).length = 2 ∧
      s.logRecords .q1 3 1 = [] ∧
      nextHas (exec (.logAck mh .q1 1) s) (fun t => t.reports.q1.get == 2 && t.reports.q1.fill == 1) = true ∧
      nextHas (exec (.logAck mh .q1 3) s) (fun t => t.reports.q1.fill == 3 &&
        StatusSet.has t.reports.status .ackRange) = true := by decide +kernel

theorem test_meets_allParameters :
    ∀ p ∈ [Param.classElement .kind 255 .shadow, .classElement .kind 256 .shadow, .classElement .kind 255 .active,
        .nonMatch .action 3 .shadow, .nonMatch .action 4 .shadow, .nonMatch .domain 3 .active,
        .classLength .active, .linkExpectRole 3, .linkMinRevision 0, .errorMode 4, .faultMask 4, .queueMode .q1,
        .queueWatermark .q0, .notifyLinks, .pacerPhaseMode, .leadLink, .linkState 3, .linkState 4,
        .domainEntry 1023, .domainEntry 1024, .chainProgress 1, .chainProgress 2, .storeGeometry, .admission 3,
        .errorCounter 3 .malformed, .queueSize .q1, .notifyEnable, .pacer .x, .sweepEnable],
      run.Carries mh (.cfgWrite mh p 1) run := by decide +kernel

theorem test_meets_elements : run.ElementsOk ∧ busy.ElementsOk := by
  unfold State.ElementsOk; decide +kernel

theorem test_writes_of_policy_fields :
    nextHas (exec (.cfgWrite mh (.classElement .domain 255 .shadow) 0x10007) run) (fun t =>
      (t.shadow.element 255).domain == 7 && t.shadow.element 1 == run.shadow.element 1) = true ∧
    nextHas (exec (.cfgWrite mh (.nonMatch .action 3 .shadow) 1) run) (fun t =>
      (t.shadow.nonMatch[(3 : Fin 4)]).isDomain && !(t.shadow.nonMatch[(2 : Fin 4)]).isDomain) = true ∧
    nextHas (exec (.cfgWrite mh .notifyLinks 0x12) run) (fun t => t.reports.notifyLinks == 2) = true := by
  decide +kernel

theorem test_meets_badLinkNumber : run.Carries mh (.admission mh 4 1) run ∧
    run.Carries mh (.errorCounter mh 4 .malformed 0) run := by decide +kernel

theorem test_meets_directory : flushing.DirectoryOk := by
  have key (w : Nat) (e : DirEntry) (h : flushing.dirWay w = some e) :
      w = 12 ∧ e = { granule := 3, holders := 3 } := by
    have m := Table.listed_of_get none _ w (some e) h (by simp)
    have d : flushing.directory = [(12, some { granule := 3, holders := 3 })] := rfl
    rw [d] at m
    simpa using m
  refine ⟨by decide +kernel, fun w e h => ?_, fun v w d e hv hw _ => (key v d hv).1.trans (key w e hw).1.symm⟩
  obtain ⟨rfl, rfl⟩ := key w e h
  decide +kernel

theorem test_a_step_with_a_directory :
    nextHas (step { flushing with pending := [.drop 0 3] }) (fun t => t.holders 3 == 2) = true := by decide +kernel

/-! ### Further clauses: arguments, blocks, sources, moves -/

theorem test_meets_contentTests :
    (StepKind.rebuild { remade with sharers := [(6, .read), (6, .read)] }).argsOk = false ∧
      (StepKind.rebuild { remade with sharers := [(5, .read)] }).argsOk = false ∧
      (StepKind.rebuild { remade with sharers := [] }).argsOk = false ∧
      (StepKind.rebuild { remade with state := .owned }).argsOk = false ∧
      (StepKind.rebuild { remade with state := .owned, sharers := [] }).argsOk = true ∧
      (StepKind.rebuild { remade with state := .free, owner := 0, sharers := [] }).argsOk = true ∧
      (StepKind.rebuild { remade with state := .fenced, sharers := [] }).argsOk = false ∧
      run.active.rangeFirst .address 0x4000 12 = some 4 ∧ run.active.rangeFirst .index 99 5 = some 99 := by
  decide +kernel

theorem test_meets_blockTests :
    let b := blockOf blockA
    (blockOf badKind).step = none ∧ b.step = some (.assign 41 false 0xB7) ∧
      (match ({ b with domain := 0 } : Block).validate sec23 with
       | .ok _ => false
       | .error r => r == .badArgument && !({ b with domain := 0 } : Block).postsWhenBad) = true ∧
      (match ({ b with statusAddr := 8 } : Block).validate sec23 with
       | .ok _ => false
       | .error r => r == .badArgument && !({ b with statusAddr := 8 } : Block).postsWhenBad) = true ∧
      (match ({ b with flags := 0x12, first := 0x210000000 } : Block).validate sec23 with
       | .ok _ => false
       | .error r => r == .outOfRange && ({ b with flags := 0x12 } : Block).postsWhenBad) = true := by
  decide +kernel

/-- Channel 0 executing block A, in INDEX form with the flags given, its one offset left at or above the capacity. -/
def lastOut (flags : Byte) : State :=
  withChan 0 { holding .executing .none 3 0 with
    rangeFirst := 16777213, block := some { blockOf blockA with flags := flags } }

theorem test_last_offset_out_of_range :
    (lastOut 10).chainNext 0 = some (16777216, .assign 41 false 0xB7) ∧
    nextHas (exec (.granuleOutOfRange .direct) (queued (.release 5) 16777216 1)) (fun t =>
      t.directQueue.isEmpty && (t.link 0).outbound == [.commandReply
        { tag := 15, result := .partialDone, done := 0, failed := 1, firstOffset := some 0
          firstReason := some .outOfRange }]) = true ∧
    nextHas (exec (.granuleOutOfRange (.chain 0)) (lastOut 10)) (fun t =>
      (t.chan 0).state == .posting && (t.chan 0).errorStop) = true ∧
    nextHas (exec (.granuleOutOfRange (.chain 0)) (lastOut 2)) (fun t => (t.chan 0).state == .posting) = true := by
  decide +kernel

theorem test_out_of_range_stops_on_error :
    let s := withChan 0 { holding .executing .none 2 0 with
      rangeFirst := 16777214, block := some { blockOf blockA with flags := 10 } }
    nextHas (exec (.granuleOutOfRange (.chain 0)) s) (fun t => (t.chan 0).state == .stopped &&
      (t.chan 0).nextOffset == 3) = true := by decide +kernel

/-- A retire that holds a step, and a sweep that holds one or lists a request. -/
def holdsStep : State :=
  { retiring with
    sourcePtr := .retire
    retire := { retiring.retire with held := some (4, .release 5) }, store := { retiring.store with retireQ := none } }
def sweepHolds (held : Option Nat) : State :=
  { tagged with
    sourcePtr := .sweep
    sweep := { tagged.sweep with held := held, requests := [9, 7], offset := 15 } }

theorem test_meets_sources :
    (executing 2 false false false).offer (.chain 0) = some (5, .assign 41 false 0xB7) ∧
      (executing 2 true false false).offer (.chain 0) = none ∧
      (executing 2 false false false).chosen = some (.chain 0, 5, .assign 41 false 0xB7) ∧
      holdsStep.chosen = some (.retire, 4, .release 5) ∧
      (sweepHolds (some 3)).chosen = some (.sweep, 3, .quarantine) ∧
      (sweepHolds none).chosen = some (.sweep, 9, .quarantine) ∧ holdsStep.Between ∧
      (queued (.release 5) 4 0).offer .direct = none := by decide +kernel

theorem test_sources_move_on :
    nextHas (exec .fenceAllocation holdsStep) (fun t => t.retire.position == some (0, 5) &&
      t.store.retireQ == some 5 && t.retire.stepsInFence == 1 && t.retire.held == none) = true ∧
    nextHas (exec .fenceAllocation (sweepHolds (some 3))) (fun t => t.sweep.held == none &&
      t.sweep.passes == 1 && t.sweep.offset == 0 && t.sweep.requests == [9, 7]) = true ∧
    nextHas (exec .fenceAllocation (sweepHolds none)) (fun t => t.sweep.requests == [7] &&
      t.sweep.offset == 15) = true := by decide +kernel

theorem test_meets_moves :
    retiring.retire.position = some (0, 4) ∧ retiring.active.nextPosition 0 4 = some (0, 5) ∧
      retiring.active.nextPosition 0 15 = none ∧ untagged.active.nextPosition 0 0 = none ∧
      untagged.active.firstTagged 0 = none ∧ (sweeping 0 15).active.nextPosition 0 15 = none := by
  decide +kernel

/-- A software read whose request was removed, with another request behind it. -/
def removedRead : State :=
  { softReading 8 9 (.read []) with store := { (softReading 8 9 (.read [])).store with
      softRead := some { granule := 3, live := false } } }

theorem test_removed_read_is_discarded :
    removedRead.softOffer = some .softwareRead ∧ removedRead.arbPick = some .software ∧
    nextHas (exec .softwareReadGrant removedRead) (fun t =>
      t.store.softRead == some { granule := 8, live := true } && (t.link 0).outbound.isEmpty) = true ∧
    tagged.tagEntry 5 = .unverifiable (Vector.replicate 16 0) ∧
    tagged.tagEntry 4 = .verified (tagView ownedBy5 (recordImage ownedBy5)) := by decide +kernel

/-- The final write of granule 4, with its directory entry. -/
def finalWithEntry : State :=
  { commanded .finalWrite (transferEntry .finishing) with directory := [(16, some { granule := 4, holders := 2 })] }

theorem test_meets_finalWrite_directory : finalWithEntry.DirectoryOk := by
  have key (w : Nat) (e : DirEntry) (h : finalWithEntry.dirWay w = some e) :
      w = 16 ∧ e = { granule := 4, holders := 2 } := by
    have m := Table.listed_of_get none _ w (some e) h (by simp)
    have d : finalWithEntry.directory = [(16, some { granule := 4, holders := 2 })] := rfl
    rw [d] at m
    simpa using m
  refine ⟨by decide +kernel, fun w e h => ?_, fun v w d e hv hw _ => (key v d hv).1.trans (key w e hw).1.symm⟩
  obtain ⟨rfl, rfl⟩ := key w e h
  decide +kernel

theorem test_final_write_frees_the_directory_entry :
    nextHas (exec .finalWriteGrant finalWithEntry) (fun t => t.directory.isEmpty) = true := by decide +kernel

theorem test_reads_of_parameters :
    run.readParam (.window .mode 3 .active) = some (.num 3) ∧ run.readParam (.window .mode 16 .active) = none ∧
      run.readParam (.classElement .domain 255 .shadow) = some (.num 0) ∧
      run.readParam (.classElement .domain 256 .shadow) = none ∧
      run.readParam (.domainEntry 1023) = some (.domain { state := .absent, owned := 0 }) ∧
      run.readParam (.domainEntry 1024) = none ∧ run.readParam (.queueState 2) = none ∧
      (lastRetire 1).readParam .retireStatus = some (.retire (some 5) none 1) ∧
      busy.readParam .violationFirst = some (.optional (some 40)) ∧
      busy.readParam .directoryInUse = some (.num 4) := by decide +kernel

/-- Source 1 is watched, WATCH_HIT is enabled and link 0 is a notify link. -/
def watching : State :=
  { run with
    active := { policy with elements := [(0, { elem 1 .domain 0 with watch := true })], length := 1 }
    reports := { run.reports with enable := 16, notifyLinks := 1 } }

theorem test_notify_clear_of_its_own_watch_hit :
    nextHas (exec (.notifyClear mh 16) watching) (fun t => t.reports.status == 0 &&
      (t.link 0).outbound == [.controlReply 15 .accepted, .notify 0 0 16]) = true := by decide +kernel

/-! ### Further clauses: drains, commit flushes, quarantine requests, sources, held frames -/

/-- Three fence entries: of granules 3 and 9 with their drains complete but for link 1, of granule 5 pending on link 2. -/
def draining : State :=
  { flushing with fence :=
      [{ revoking with pending := 2 }, { revoking with granule := 5, pending := 4 },
        { revoking with granule := 9, pending := 2 }] }

theorem test_meets_settle :
    let s : State := { run with
      phase := .flushing, fence := [{ revoking with pending := 0 }, { revoking with granule := 5 }] }
    s.FenceOk ∧ s.flushSet = 0 ∧ s.oldEpochCount = 0 ∧ FenceEntry.drained { revoking with pending := 0 } = true ∧
      FenceEntry.drained revoking = false ∧ run.phase ≠ .flushing := by
  unfold State.FenceOk; decide +kernel

theorem test_a_flush_ack_completes_drains_and_the_commit_flush :
    nextHas (exec (.flushAck 1) draining) (fun t => t.phase == .idle && t.flushSet == 0 &&
      StatusSet.has t.reports.status .commitDone &&
      t.fence.map FenceEntry.phase == [.finishing, .revoking, .finishing] &&
      t.store.commandQ == [{ granule := 3, access := .finalWrite }, { granule := 9, access := .finalWrite }])
      = true ∧
    nextHas (exec (.flushAck 1) { draining with oldEpochCount := 1 }) (fun t => t.phase == .flushing &&
      t.flushSet == 0 && t.reports.status == 0) = true ∧
    nextHas (exec (.flushAck 1) { draining with flushSet := 6 }) (fun t => t.phase == .flushing &&
      t.flushSet == 4) = true := by decide +kernel

theorem test_a_revoke_ack_completes_its_drain :
    nextHas (exec (.revokeAck 0 3 7) (withFence run { revoking with pending := 1 })) (fun t =>
      t.fence.map FenceEntry.phase == [.finishing] &&
      t.store.commandQ == [{ granule := 3, access := .finalWrite }]) = true ∧
    nextHas (exec (.revokeAck 0 3 7) (withFence run revoking)) (fun t =>
      t.fence.map FenceEntry.phase == [.revoking] && t.store.commandQ.isEmpty) = true := by decide +kernel

theorem test_a_loss_completes_drains_and_the_commit_flush :
    nextHas (exec (.linkSignalLoss 1) draining) (fun t => t.phase == .idle &&
      StatusSet.has t.reports.status .commitDone &&
      t.fence.map FenceEntry.phase == [.finishing, .revoking, .finishing]) = true := by decide +kernel

theorem test_a_switch_with_nothing_to_wait_for :
    let alone : State := onLink (onLink run 1 .down) 0 .held
    nextHas (exec (.commit mh) run) (fun t => t.phase == .flushing && t.flushSet == 3) = true ∧
      alone.commitSwitch.phase = .idle ∧
      StatusSet.has alone.commitSwitch.reports.status .commitDone = true := by decide +kernel

/-- The last old-epoch check of a commit flush, decided. -/
theorem test_the_last_old_check_ends_the_commit_flush :
    let e : OpenCheck := { openAt 4 (.deciding .allowRead) (some (.verified ownedBy5)) with oldEpoch := true }
    let s : State := { tagged with openChecks := [e], oldEpochCount := 1, phase := .flushing }
    s.offered 1 = some e ∧ nextHas (exec (.verdictIssue 1) s) (fun t => t.phase == .idle &&
      StatusSet.has t.reports.status .commitDone) = true := by decide +kernel

theorem test_meets_refused_loses_its_reply :
    let s : State := State.reset.setLink 2 { upLink with
      state := .refused, outbound := [.announceReply .mismatch none] }
    (s.link 2).state.inSession = false ∧ s.Between ∧
      nextHas (exec (.linkSignalLoss 2) s) (fun t => (t.link 2).outbound.isEmpty && (t.link 2).state == .down)
        = true := by decide +kernel

theorem test_no_revoke_to_a_flushed_link_or_to_none :
    LinkSet.has ((withFence flushing written).holders 3) 1 = true ∧
      ((withFence flushing written).link 1).flushOutstanding = true ∧
      LinkSet.has ((withFence flushing written).holders 3) 2 = false ∧
      nextHas (exec (.directoryConsultation 3) (withFence flushing written)) (fun t =>
        (t.link 1).outbound.isEmpty && (t.link 2).outbound.isEmpty && (t.link 3).outbound.isEmpty) = true := by
  decide +kernel

/-- A retire whose scanning read of granule 4 is set aside under a step's entry. -/
def asideFor (a : StepAccess) (e : FenceEntry) : State :=
  { commanded a e with retire := { retiring.retire with setAside := some 4 } }

theorem test_a_read_set_aside_is_placed_again :
    (asideFor .finalWrite (transferEntry .finishing)).arbPick = some .command ∧
    nextHas (exec .finalWriteGrant (asideFor .finalWrite (transferEntry .finishing))) (fun t =>
      t.store.retireQ == some 4 && t.retire.setAside == none && t.fence.isEmpty) = true ∧
    nextHas (exec .commandReadGrant (asideFor .read (newFence 4 .direct (.release 6)))) (fun t =>
      t.store.retireQ == some 4 && t.retire.setAside == none && t.fence.isEmpty) = true ∧
    (run.freeFence 4).store.retireQ = none := by decide +kernel

/-- The quarantine request list and the step the sweep holds. -/
def listed (held : Option Nat) (requests : List Nat) : State :=
  { run with sweep := { run.sweep with held := held, requests := requests } }

theorem test_quarantine_requests :
    ((listed none [9, 7]).fileRequest 7).sweep.requests = [9, 7] ∧
      ((listed (some 5) [9, 7]).fileRequest 5).sweep.requests = [9, 7] ∧
      ((listed none [9, 7, 6, 5]).fileRequest 4).sweep.requests = [9, 7, 6, 5] ∧
      ((listed (some 5) [9, 7, 6]).fileRequest 4).sweep.requests = [9, 7, 6, 4] := by decide +kernel

theorem test_the_error_capture :
    let img : Image := Vector.replicate 16 0
    let c : Capture := { granule := 1, foundBy := .sweep, stored := 0, computed := 255 }
    let full (n : Nat) : State := { run with sweep := { run.sweep with capture := some c, overflow := n } }
    (run.capture 1 .sweep img).sweep.capture = some c ∧ ((full 254).capture 9 .verdict img).sweep.overflow = 255 ∧
      ((full 255).capture 9 .verdict img).sweep.overflow = 255 ∧
      ((full 0).capture 9 .verdict img).sweep.capture = some c := by decide +kernel

theorem test_ready_sources :
    run.chosen = none ∧ (sweepHolds none).readyStep .sweep = some (9, .quarantine) ∧
      (withFence (sweepHolds none) (newFence 9 .direct (.release 5))).readyStep .sweep = none ∧
      ({ sweepHolds none with fence := List.replicate 8 (newFence 3 .direct (.release 5)) } : State).fence.length = 8 ∧
      ({ sweepHolds none with sourcePtr := .chain 1 } : State).chosen = some (.sweep, 9, .quarantine) := by
  decide +kernel

/-- The part in STARTUP, ready for START, with source 1 watched and given a domain. -/
def watchedTrial (d : DomainNo) : State :=
  ready false true 1 { policy with elements := [(0, { elem 1 .domain d with watch := true })], length := 1 }

theorem test_a_watched_trial_is_reported :
    (watchedTrial 0).Carries mh (.start mh) (watchedTrial 0) ∧
    (watchedTrial 5).Carries mh (.start mh) (watchedTrial 5) ∧
    ((watchedTrial 5).active.classify (watchedTrial 5).leadLink 1).watched = some 0 ∧
    nextHas (exec (.start mh) (watchedTrial 0)) (fun t => t.mode == .operating &&
      t.watchReport == some { element := 0, message := .management, link := 0, source := 1, domain := some 0
                              placement := .none } && StatusSet.has t.reports.status .watchHit) = true ∧
    nextHas (exec (.start mh) (watchedTrial 5)) (fun t => t.mode == .startup &&
      t.watchReport == some { element := 0, message := .management, link := 0, source := 1, domain := some 5
                              placement := .none } && StatusSet.has t.reports.status .watchHit &&
      (t.link 0).outbound == [.controlReply 15 (.refused .noPlatformRoute)]) = true := by decide +kernel

/-- Link 0 HELD with a reply to send before `replies` more, and frames held. -/
def heldFrames (replies : Nat) (fs : List Instr) : State :=
  (waitingLink replies (.controlReply 0 .accepted) (.commit mh)).setHeld 0 fs

theorem test_held_frames_are_taken_in_turn :
    let drop : Instr := .drop 0 3
    nextHas (exec (.outboundMessageSent 0) (heldFrames 31 [.commit mh, drop, drop])) (fun t =>
      (t.link 0).held.isEmpty) = true ∧
    nextHas (exec (.outboundMessageSent 0) (heldFrames 31 [.commit mh, drop, .commit mh, drop])) (fun t =>
      (t.link 0).held == [.commit mh, drop]) = true ∧
    (heldFrames 30 [.commit mh]).mustHold 0 (.commit mh) = false ∧ run.Takes 0 (.commit mh) ∧
      run.Takes 0 drop ∧ managedHeader (.commit mh) = some mh := by decide +kernel

/-! ### Further clauses: losses, faults, grants, statuses of chains -/

/-- Link 1 leaves with a stale old-epoch check, a waiting check and the head software request, whose read is queued;
link 0 keeps a stale check of the same granule, a waiting check and a request. -/
def leaving (read : Option SoftRead) : State :=
  let on (l : LinkId) (e : OpenCheck) : OpenCheck := { e with link := l }
  let stale : OpenCheck :=
    { openAt 3 (.deciding .allowRead) (some (.verified ownedBy5)) with stale := true, oldEpoch := true }
  let request (l : LinkId) : SoftRequest :=
    { link := l, tag := 3, first := 8, next := 8, stop := 9, kind := .read [] }
  { draining with
    openChecks := [stale, on 0 stale, { openAt 4 .waitRecord none with tag := 6 },
      on 0 { openAt 4 .waitRecord none with tag := 6 }]
    oldEpochCount := 2
    fence := [{ revoking with pending := 3, staleCount := 2 }, { revoking with granule := 9, pending := 2 }]
    store := { draining.store with
      verdictQ := [(1, 6), (0, 6)], softRead := read, softQueue := [request 1, request 0] } }

theorem test_a_loss_leaves_the_other_links_their_own :
    nextHas (exec (.linkSignalLoss 1) (leaving (some { granule := 7, live := true }))) (fun t =>
      t.openChecks.map OpenCheck.link == [0, 0] && t.oldEpochCount == 1 &&
      t.store.verdictQ == [(0, 6)] && t.store.softQueue.map SoftRequest.link == [0] &&
      t.store.softRead == some { granule := 7, live := false } &&
      t.fence == [{ revoking with pending := 1, staleCount := 1 },
        { revoking with granule := 9, pending := 0, timer := none, phase := .finishing }] &&
      t.dirWay 12 == some { granule := 3, holders := 1 }) = true ∧
    nextHas (exec (.linkSignalLoss 1) (leaving none)) (fun t =>
      t.store.softRead == some { granule := 8, live := true }) = true := by decide +kernel

theorem test_a_loss_reaches_an_executing_channel :
    let s (fence : Nat) : State := withChan 0 (holding .executing .none 2 fence)
    (s 1).link 0 = run.link 0 ∧ ((s 1).chan 0).fetchLink = 0 ∧ ((s 1).chan 0).block = some (blockOf blockA) ∧
    nextHas (exec (.linkSignalLoss 0) (s 1)) (fun t => t.chan 0 == { (s 1).chan 0 with linkLost := true } &&
      t.reports.q1.records.isEmpty) = true ∧
    nextHas (exec (.linkSignalLoss 0) (s 0)) (fun t => (t.chan 0).state == .idle &&
      (t.chan 0).termination == some { cause := .linkLost, block := 0x80000000, offset := 2 } &&
      t.reports.q1.records.map EventRecord.detail == [.chain .linkLost] &&
      StatusSet.has t.reports.status .chain0End) = true := by decide +kernel

theorem test_the_links_a_revoke_timer_faults :
    let s : State := { leaving none with timeBase := 64 }
    s.fenceOf 3 = some { revoking with pending := 3, staleCount := 2 } ∧ s.reached revoking.timer = true ∧
      (s.faultCore 2 .revokeTimeout none (some 3)).reports.q1.records.isEmpty = true ∧
      nextHas (exec (.revokeTimerExpiry 9) s) (fun t => t.openChecks.map OpenCheck.link == [0, 0] && t.store.verdictQ == [(0, 6)] &&
        t.store.softQueue.map SoftRequest.link == [0] && t.flushSet == 0 &&
        t.fence.map FenceEntry.pending == [1, 0] && t.fence.map FenceEntry.timer == [some 64, none] &&
        t.fence.map FenceEntry.staleCount == [1, 0] &&
        t.dirWay 12 == some { granule := 3, holders := 1 }) = true := by decide +kernel

theorem test_meets_leaving_tables :
    ({ leaving none with timeBase := 64 } : State).TablesOk ∧
      ({ leaving none with timeBase := 64 } : State).DirectoryOk ∧ flushing.TablesOk ∧
      ({ tagged with directory := [(17, some { granule := 4100, holders := 1 }),
        (18, some { granule := 4, holders := 1 })] } : State).TablesOk := by
  refine ⟨?_, test_meets_directory, ?_, ?_⟩ <;> (unfold State.TablesOk; decide +kernel)

theorem test_meets_thresholds :
    let s : State := { run.setLink 2 { countersLink 0 0 with faultMask := 5 } with errorThreshold := 1 }
    nextHas (exec (.frameRejected 2 .frameCheck) s) (fun t => (t.link 2).lastFault == some .threshold &&
      StatusSet.has t.reports.status .linkEvent && t.reports.q1.records.map EventRecord.detail ==
        [.fault .threshold (some .frameCheck)]) = true ∧
      ((s.countError 2 .unexpected).link 2).lastFault = some .threshold ∧
      ((s.countError 2 .malformed).link 2).state = .active ∧
      ((s.countError 2 .malformed).link 2).counters.malformed = { value := 1, reached := true } ∧
      s.reports.q1.fill + 4 < s.reports.q1.size ∧ s.Takes 2 (.frameRejected 2 .frameCheck) ∧
      (s.setLink 2 { s.link 2 with state := .faulted }).faultCore 2 .threshold none none =
        s.setLink 2 { s.link 2 with state := .faulted } := by decide +kernel

theorem test_roles_and_revisions :
    let k : Link := { upLink with minRevision := 3 }
    k.acceptsRole (helloOf 1 3) = some .socket ∧ k.acceptsRole (helloOf 2 15) = some .ioRoot ∧
      k.acceptsRole (helloOf 1 2) = none ∧ k.acceptsRole (helloOf 1 16) = none ∧
      k.acceptsRole (helloOf 3 3) = none ∧ k.acceptsRole (helloOf 0 3) = none ∧
      { k with expectRole := some .socket }.acceptsRole (helloOf 2 3) = none := by decide +kernel

theorem test_images_of_records :
    recordImage { ownedBy5 with state := .shared, slot1 := 0xBC05, slot2 := 0x7C06, slot3 := 0xFFFF } =
      #v[2, 0, 5, 0, 5, 0x80, 0, 0, 0xFF, 0xC3, 7, 0, 0, 0, 0, 170] ∧
    recordImage { ownedBy5 with state := .quarantined, slot1 := 0xBC05, slot2 := 0x7C06, fencedFrom := .owned } =
      #v[4, 0, 5, 0, 5, 0xBC, 6, 0x7C, 0, 0, 7, 0, 0, 0, 0, 172] ∧
    recordImage { ownedBy5 with
        state := .fenced, fencedFrom := .quarantined, platformAccess := true, slot2 := 0x7C06, label := 0x102 } =
      #v[3, 0x41, 5, 0, 0, 0, 6, 0x7C, 0, 0, 7, 0, 2, 1, 0, 42] ∧
    (tagged.writeRecord 9 ownedBy5).readRecord 9 = .verified ownedBy5 := by decide +kernel

theorem test_the_lowest_free_way_is_taken :
    let s (d : List (Nat × Option DirEntry)) : State := { tagged with directory := d }
    let other (g : Nat) : Option DirEntry := some { granule := g, holders := 1 }
    ((s [(16, other 4100), (18, other 8196)]).recordGrant 4 1).1.directory =
      [(16, other 4100), (17, some { granule := 4, holders := 2 }), (18, other 8196)] ∧
    ((s [(17, other 4100), (18, other 4)]).recordGrant 4 1).1.directory =
      [(17, other 4100), (18, some { granule := 4, holders := 3 })] := by decide +kernel

theorem test_the_first_in_deciding_is_offered :
    let second : OpenCheck := { openAt 4 (.deciding .allowRead) none with tag := 6 }
    let s : State := { tagged with openChecks := [{ second with link := 0 }, openAt 4 .waitRecord none, second] }
    s.offered 1 = some second ∧ s.offered 2 = none ∧ (waiting 4).offered 1 = none ∧
      nextHas (exec (.verdictIssue 1) (waiting 4)) (fun t => t == waiting 4) = true := by decide +kernel

theorem test_denial_reports :
    run.denialOf (openAt 4 (.deciding (.deny .notOwner)) (some (.verified sharedRec))) .notOwner =
      { time := 0, link := 1, source := 2, domain := some 5, decidedBy := some (.element 1), address := 0x4000
        access := .read, reason := .notOwner, window := some 0, granule := some 4, stateSeen := some .shared
        ownerSeen := some 5, labelSeen := some 0 } ∧
    (run.denialOf (openAt 4 (.deciding (.deny .integrity)) (some .unverifiable)) .integrity).stateSeen =
      some .unverifiable ∧
    (run.denialOf (openAt 4 (.deciding (.deny .unmapped)) none) .unmapped).granule = none ∧
    (run.denialOf { openAt 4 (.deciding (.deny .unclassified)) none with
        classified := some { result := .unclassified, decidedBy := .nonMatch, watched := none }
      } .unclassified).domain = none := by decide +kernel

theorem test_classes_and_the_software_turn :
    let both (turn : SoftTurn) : State := { storing true 0 with store := { (storing true 0).store with
      softRead := some { granule := 3, live := true }, softTurn := turn, retireQ := some 4, sweepQ := some 5
      commandQ := [{ granule := 4, access := .read }] } }
    run.arbPick = none ∧ run.softOffer = none ∧ (both .initWrite).softOffer = some .initWrite ∧
      (both .softwareRead).softOffer = some .softwareRead ∧ (both .initWrite).arbPick = some .software ∧
      (both .initWrite).classReady .retire = false ∧ (contended 0).classReady .verdict = true ∧
      (contended 0).classReady .sweep = true := by decide +kernel

theorem test_a_fence_write_keeps_its_entry :
    nextHas (exec .fenceWriteGrant (commanded .fenceWrite (transferEntry .fencing))) (fun t =>
      t.fenceOf 4 == some { transferEntry .fencing with phase := .revoking, staleCount := 0 }) = true := by
  decide +kernel

/-- Link 0 ACTIVE, link 1 with its flush outstanding already. -/
theorem test_a_commit_flushes_the_active_links :
    let s : State := { run.setLink 1 { upLink with flushOutstanding := true, flushTimer := some 9 } with
      links := (run.setLink 1 { upLink with flushOutstanding := true, flushTimer := some 9 }).links.set 2
        { upLink with state := .held } }
    s.Carries mh (.commit mh) s ∧ nextHas (exec (.commit mh) s) (fun t =>
      (t.link 0).outbound == [.flushAll, .controlReply 15 (.acceptedEpoch 2)] && (t.link 0).flushOutstanding &&
      (t.link 1).outbound.isEmpty && (t.link 1).flushOutstanding && (t.link 1).flushTimer == some 9 &&
      (t.link 2).outbound.isEmpty && !(t.link 2).flushOutstanding) = true := by decide +kernel

theorem test_admission_writes :
    let s (st : LinkState) : State := run.setLink 1 { upLink with
      state := st, flushOutstanding := true, flushTimer := some 9 }
    nextHas (exec (.admission mh 1 0) (s .active)) (fun t => (t.link 1).state == .held &&
      (t.link 1).outbound.isEmpty && (t.link 1).flushTimer == some 9) = true ∧
    nextHas (exec (.admission mh 1 1) (s .held)) (fun t => t.link 1 == (s .active).link 1) = true ∧
    nextHas (exec (.admission mh 1 0) (s .admitWait)) (fun t =>
      t.link 1 == { (s .admitWait).link 1 with admission := false }) = true ∧
    nextHas (exec (.admission mh 0 0) (withChan 0 (holding .stopped .none 2 0))) (fun t =>
      (t.chan 0).termination == some { cause := .linkLost, block := 0x80000000, offset := 2 } &&
      t.reports.q1.records.map EventRecord.detail == [.chain .linkLost]) = true ∧
    nextHas (exec (.admission mh 3 1) boot) (fun t =>
      t.link 3 == { boot.link 3 with admission := true }) = true := by decide +kernel

theorem test_chains_that_end_report :
    nextHas (exec (.memoryTimerExpiry 0) (atTime (withChan 0 (fetching .fetching .read .none)) 9)) (fun t =>
      t.reports.q1.records.map EventRecord.detail == [.chain .fetchTimeout] &&
      StatusSet.has t.reports.status .chain0End) = true ∧
    nextHas (exec (.memData 0 0 badKind) (fetched false)) (fun t =>
      t.reports.q1.records.map EventRecord.detail == [.chain .badBlock] &&
      StatusSet.has t.reports.status .chain0End) = true ∧
    nextHas (exec (.memDone 0 0) (posting .badStatus)) (fun t =>
      t.reports.q1.records.map EventRecord.detail == [.chain .badBlock]) = true ∧
    nextHas (exec (.chainStop mh 1) (chan1 (holding .executing .none 2 0))) (fun t =>
      StatusSet.has t.reports.status .chain1End && t.reports.q1.records.isEmpty &&
      (t.chan 1).state == .stopped) = true := by decide +kernel

/-- A request that no path has sent when its memory timer expires (log entry 43). -/
theorem test_a_timed_out_request_is_still_sent :
    let s : State := (atTime (withChan 0 (fetching .fetching .read .none)) 9).hand 0 (.memRead 0 0x80000000)
    nextHas (exec (.memoryTimerExpiry 0) s) (fun t => (t.chan 0).state == .idle &&
      (t.link 0).outbound == [.memRead 0 0x80000000]) = true := by decide +kernel

/-- A request that no path has sent when it is answered (log entry 43): the bad block of the answer has its status
record written behind the MEM_READ, and leaves the counts of the block before it (log entry 48). -/
theorem test_an_answered_request_is_still_sent :
    let k : Channel := { fetching .fetching .read .none with
      done := 3, failed := 1, firstFailed := some (2, .notFree) }
    let s : State := { (withChan 0 k).hand 0 (.memRead 0 0x80000000) with active := sec23 }
    nextHas (exec (.memData 0 0 badNext) s) (fun t => (t.link 0).outbound ==
        [.memRead 0 0x80000000, .memWrite (BitVec.ofNat 8 k.sequence) (blockOf badNext).statusAddr
          [2, 11, 0, 0, 0, 0, 0, 0, 0, 0, 0, 0, 255, 255, 255, 255]] &&
      (t.chan 0).done == 3 && (t.chan 0).failed == 1 && (t.chan 0).firstFailed == some (2, .notFree)) = true ∧
    nextHas (exec (.memDone 0 0) ((posting .notify).hand 0 (.memWrite 0 0x80002000 []))) (fun t =>
      (t.chan 0).state == .idle && (t.link 0).outbound == [.memWrite 0 0x80002000 []]) = true := by decide +kernel

/-- Messages that no path has sent when their acknowledgement is taken (log entry 45). -/
theorem test_acknowledged_messages_are_still_sent :
    nextHas (exec (.flushAck 1) ((flushing.hand 1 .flushAll).hand 0 (.revoke 9 7))) (fun t =>
      (t.link 1).flushOutstanding == false && (t.link 1).outbound == [.flushAll] &&
      (t.link 0).outbound == [.revoke 9 7] &&
      ((t.flushDue 1).link 1).outbound == [.flushAll, .flushAll]) = true ∧
    nextHas (exec (.revokeAck 0 3 7) ((withFence run { revoking with pending := 1 }).hand 0 (.revoke 3 7)))
      (fun t => (t.fenceOf 3).map FenceEntry.pending == some 0 &&
        (t.link 0).outbound == [.revoke 3 7]) = true := by decide +kernel

/-- Frames that Table 11-2 marks MALFORMED, with 32 reply places in use (log entry 12). -/
theorem test_a_misplaced_frame_waits_by_its_kind :
    (crowded 32 0).Serves 0 ∧ (onLink (crowded 32 0) 0 .announcing).mustHold 0 (.commit mh) = true ∧
    nextHas (exec (.announce 0 hello) (crowded 32 0)) (fun t =>
      (t.link 0).held == [.announce 0 hello] && (t.link 0).counters == Counters.zero) = true ∧
    nextHas (exec (.frameRejected 0 (.misplaced true)) (crowded 32 0)) (fun t =>
      (t.link 0).held == [] && (t.link 0).counters.malformed.value == 1) = true := by decide +kernel

/-- A START in OPERATING that a watched element classifies to domain 0 (log entry 46). -/
theorem test_a_start_in_operating_writes_the_watch_report :
    nextHas (exec (.start mh) watching) (fun t => t.watchReport == some
        { element := 0, message := .management, link := 0, source := 1, domain := some 0, placement := .none } &&
      t.reports.status == 16 && (t.link 0).outbound ==
        [.controlReply 15 (.refused .notStartup), .notify 0 16 16]) = true := by decide +kernel

/-! ### Further clauses: rejected frames, places, ends of a retire, links made ACTIVE -/

theorem test_meets_rejectedElsewhere :
    (State.reset.link 0).state = .down ∧ (sending .active [.commit mh]).Serves 0 ∧
      ((sending .active [.commit mh]).link 0).held ≠ [] ∧ (crowded 32 0).Serves 0 ∧
      32 ≤ (crowded 32 0).replyPlacesUsed 0 ∧ (crowded 31 0).replyPlacesUsed 0 = 31 ∧
      busy.replyPlacesUsed 0 = 1 ∧ (crowded 0 7).verdictPlacesUsed 0 = 7 := by decide +kernel

theorem test_an_undecodable_frame_waits_for_a_reply_place :
    let f : Instr := .frameRejected 0 (.undecodable (some { kind := .check, tag := 3 }))
    nextHas (exec f (crowded 32 0)) (fun t => (t.link 0).held == [f]) = true ∧
    nextHas (exec f (crowded 31 0)) (fun t => (t.link 0).held == [] &&
      (t.link 0).outbound.getLast? == some (.refuse { kind := .check, tag := 3 } .malformed)) = true := by
  decide +kernel

theorem test_a_retire_of_an_empty_sequence_reports_its_count :
    nextHas (exec (.domainRetire mh 5) untagged) (fun t =>
      t.reports.q1.records.map EventRecord.detail == [.count 2] &&
      (t.link 0).outbound == [.controlReply 15 .accepted]) = true := by decide +kernel

theorem test_a_verdict_goes_behind_the_messages_of_its_path :
    nextHas (exec (.verdictIssue 1) ((decided .allowReadWrite).hand 1 .flushAll)) (fun t =>
      (t.link 1).outbound.head? == some .flushAll && (t.link 1).outbound.length == 2) = true := by decide +kernel

theorem test_meets_holders :
    let s : State := { run with directory := [(13, some { granule := 3, holders := 6 })] }
    13 ∈ dirWays 3 ∧ s.dirWay 13 = some { granule := 3, holders := 6 } ∧ s.dirWay 12 = none ∧
      s.holders 3 = 6 ∧ s.holders 4099 = 0 := by decide +kernel

/-- The NOTIFY of the WATCH_HIT of the write that makes link 1 ACTIVE goes to it too (log entry 47). -/
theorem test_a_link_made_active_gets_the_notify_of_its_event :
    let s : State := { onLink watching 1 .admitWait with reports := { watching.reports with notifyLinks := 2 } }
    nextHas (exec (.admission mh 1 1) s) (fun t => (t.link 1).state == .active &&
      (t.link 1).outbound == [.notify 0 16 16]) = true := by decide +kernel

/-! ### Commands that are not due -/

theorem test_events_not_due_change_nothing :
    nextHas (exec (.linkSignalAppears 0) run) (fun t => t == run) = true ∧
      nextHas (exec .commandReadGrant run) (fun t => t == run) = true ∧
      nextHas (exec (.flushTimerExpiry 0) run) (fun t => t == run) = true := by decide +kernel

end Sys2Proof.Tests
end

section
/-! SUPPORT. The check code of the records the part writes (R6), and CONTROL TABLE_INIT (R12). -/

namespace Sys2Proof.Machine

/-! ### The check code (R6) -/

/-- The sum of bytes, modulo 256. -/
theorem foldl_add_toNat (bs : List Byte) (a : Byte) :
    (bs.foldl (· + ·) a).toNat = (a.toNat + (bs.map BitVec.toNat).sum) % 256 := by
  induction bs generalizing a with
  | nil =>
    have := a.isLt
    simp only [List.foldl_nil, List.map_nil, List.sum_nil]
    omega
  | cons b bs ih =>
    simp only [List.foldl_cons, List.map_cons, List.sum_cons, ih, BitVec.toNat_add]
    omega

/-- The check code as a number: 255 minus the sum of bytes 0 to 14, the sum taken modulo 256. -/
theorem checkByte_toNat (bs : List Byte) :
    (checkByte bs).toNat = 255 - ((bs.take 15).map BitVec.toNat).sum % 256 := by
  have sum := foldl_add_toNat (bs.take 15) 0
  have zero : (0 : Byte).toNat = 0 := rfl
  have top : (255 : Byte).toNat = 255 := rfl
  rw [checkByte, BitVec.toNat_sub, sum, zero, top]
  omega

/-- The image of a record is its first fifteen bytes and their check code. -/
theorem recordImage_toList (r : TagRecord) :
    (recordImage r).toList = recordBytes15 r ++ [checkByte (recordBytes15 r)] := rfl

theorem recordImage_take (r : TagRecord) : (recordImage r).toList.take 15 = recordBytes15 r := rfl

/-- Byte 15 of the image of a record is the check code of the bytes before it. -/
theorem recordImage_check (r : TagRecord) :
    (recordImage r)[15].toNat =
      255 - (((recordImage r).toList.take 15).map BitVec.toNat).sum % 256 :=
  checkByte_toNat (recordBytes15 r)

/-- The sixteen bytes of the image of a record sum to 255 modulo 256. -/
theorem recordImage_sum (r : TagRecord) :
    ((recordImage r).toList.map BitVec.toNat).sum % 256 = 255 := by
  have check := checkByte_toNat (recordBytes15 r)
  have all : (recordBytes15 r).take 15 = recordBytes15 r := rfl
  rw [all] at check
  simp only [recordImage_toList, List.map_append, List.sum_append, List.map_cons, List.map_nil,
    List.sum_cons, List.sum_nil, check]
  omega

/-! ### The bytes that the writes of records leave -/

/-- A record written reads back as its image (R15). -/
theorem readImage_writeRecord (s : State) (i : Nat) (r : TagRecord) (ok : s.MemoryOk) :
    Memory.readImage (s.writeRecord i r).dram i = recordImage r :=
  Memory.readImage_writeImage s.dram i (recordImage r) ok

/-- A write of TABLE_INIT changes no byte but those of the FREE record it writes (R13). -/
theorem initWrite_dram (s : State) :
    s.initWrite.dram = (s.writeRecord s.store.initProgress freeRecord).dram := by
  unfold State.initWrite
  dsimp only
  split
  · exact (keeps_raise _ _).dram
  · rfl

/-- A fence write changes no byte but those of the FENCED record it writes (R76). -/
theorem fenceWrite_dram (s : State) (e : FenceEntry) (p : ReadRecord) (h : e.prior = some p) :
    (s.fenceWrite e).dram = (s.writeRecord e.granule (fencedRecord p)).dram := by
  simp only [State.fenceWrite, h, State.updFence_dram]

/-- A final write changes no byte but those of the final record: the directory, the owned counts, the fence entry
and the result of the step hold none (R81). -/
theorem finalWrite_dram (s : State) (e : FenceEntry) (p : ReadRecord) (h : e.prior = some p) :
    (s.finalWrite e).dram = (s.writeRecord e.granule (finalRecord e.kind p)).dram := by
  simp only [State.finalWrite, h]
  rw [(keeps_stepResult _ _ _ _).dram, (keeps_freeFence _ _).dram, (keeps_adjustOwned _ _ _ _).dram,
    (keeps_freeGranule _ _).dram]

/-- Settles O30: what is read back is the image written, whose check code is computed from its other bytes, and
each of the three writes leaves the bytes of one record written. -/
theorem checkCodeOfWrites : Obligations.CheckCodeOfWrites := by
  unfold Obligations.CheckCodeOfWrites
  refine ⟨fun s i r ok => ?_, initWrite_dram,
    fun s e p h => ⟨fenceWrite_dram s e p h, finalWrite_dram s e p h⟩⟩
  rw [readImage_writeRecord s i r ok]
  exact ⟨recordImage_sum r, recordImage_check r⟩

/-! ### CONTROL TABLE_INIT (R12) -/

/-- TABLE_INIT in OPERATING. -/
theorem startInit_operating (s : State) (m : s.mode = .operating) :
    s.startInit = (s, .refused .notStartup) := by
  simp [State.startInit, m]

/-- TABLE_INIT while the geometry is UNSET. -/
theorem startInit_noGeometry (s : State) (m : s.mode = .startup) (g : s.store.geometry = none) :
    s.startInit = (s, .refused .noGeometry) := by
  simp [State.startInit, m, g]

/-- TABLE_INIT while one runs. -/
theorem startInit_running (s : State) (m : s.mode = .startup) (g : s.store.geometry ≠ none)
    (r : s.store.initRunning = true) : s.startInit = (s, .refused .tableBusy) := by
  simp [State.startInit, m, g, r]

/-- TABLE_INIT with its conditions met: the table-valid flag is cleared and the writes begin at record 0, with the
turn of the SOFTWARE class (R16). -/
theorem startInit_accepted (s : State) (m : s.mode = .startup) (g : s.store.geometry ≠ none)
    (r : s.store.initRunning = false) :
    s.startInit = ({ s with store := { s.store with
      tableValid := false, initRunning := true, initProgress := 0, softTurn := .initWrite } }, .accepted) := by
  simp [State.startInit, m, g, r]

/-- CONTROL TABLE_INIT carried out: its effect on the part after the authority test, then its reply, then the end of
the event. -/
theorem exec_tableInit_carries (s t : State) (h : MgmtHeader) (c : s.Carries h (.tableInit h) t) :
    exec (.tableInit h) s = .next
      (t.startInit.1.hand h.link (.controlReply h.tag t.startInit.2)).closeEvent :=
  congrArg Host.Outcome.next (deliver_control s t h (.tableInit h) State.startInit c)

/-- Settles O38, one case of TABLE_INIT's tests for each clause. -/
theorem tableInitControl : Obligations.TableInitControl := by
  unfold Obligations.TableInitControl
  intro s t h c
  rw [exec_tableInit_carries s t h c]
  refine ⟨fun m => ?_, fun m g => ?_, fun m g r => ?_, fun m g r => ?_⟩
  · rw [startInit_operating t m]
  · rw [startInit_noGeometry t m g]
  · rw [startInit_running t m g r]
  · rw [startInit_accepted t m g r]

end Sys2Proof.Machine
end

section
/-! SUPPORT. How a CHECK is decided: what its entry holds when steps 1 and 2 pass it, the outcome of the source and
of the window (R52 to R54), and the table of step 7 (R55). -/

namespace Sys2Proof.Machine

/-! ### The entry of a CHECK past steps 1 and 2 (R48, R51) -/

/-- The phase of an entry for the outcome of steps 3 to 6: without one it waits for its record. -/
def phaseOf : Option CheckOutcome → CheckPhase
  | some o => .deciding o
  | none => .waitRecord

/-- The outcome of steps 3 to 6 for a CHECK of a link. -/
def State.stepsOutcome (s : State) (l : LinkId) (m : CheckMsg) : Option CheckOutcome :=
  s.classOutcome (s.active.classify l m.source).result (s.active.lookup m.address.toNat)

/-- The full entry, its fields one by one: the outcome of steps 3 to 6 settles the phase and whether there is a
granule to read, and no other field. -/
theorem fullEntry_eq (s : State) (l : LinkId) (m : CheckMsg) :
    s.fullEntry l m =
      { link := l, tag := m.tag, source := m.source, address := m.address, access := m.access
        cacheWanted := m.cacheWanted, epoch := s.epoch, phase := phaseOf (s.stepsOutcome l m)
        classified := some (s.active.classify l m.source)
        window := (s.active.lookup m.address.toNat).map fun x => lookupHit x.1 x.2 m.address.toNat
        granule := if (s.stepsOutcome l m).isNone then
          (s.active.lookup m.address.toNat).map fun x => x.2.indexOf m.address.toNat else none
        seen := none, stale := false, oldEpoch := false } := by
  unfold State.fullEntry State.stepsOutcome
  cases h : s.classOutcome (s.active.classify l m.source).result (s.active.lookup m.address.toNat) <;>
    simp only [h] <;> rfl

/-- The full entry holds what the CHECK brought, the present epoch and the classification. -/
theorem fullEntry_message (s : State) (l : LinkId) (m : CheckMsg) :
    (s.fullEntry l m).link = l ∧ (s.fullEntry l m).tag = m.tag ∧ (s.fullEntry l m).source = m.source ∧
      (s.fullEntry l m).address = m.address ∧ (s.fullEntry l m).access = m.access ∧
      (s.fullEntry l m).cacheWanted = m.cacheWanted ∧ (s.fullEntry l m).epoch = s.epoch ∧
      (s.fullEntry l m).classified = some (s.active.classify l m.source) := by
  rw [fullEntry_eq]
  exact ⟨rfl, rfl, rfl, rfl, rfl, rfl, rfl, rfl⟩

theorem fullEntry_phase (s : State) (l : LinkId) (m : CheckMsg) :
    (s.fullEntry l m).phase = phaseOf (s.stepsOutcome l m) := by rw [fullEntry_eq]

/-- The domain of the full entry is that of the class result (R52). -/
theorem fullEntry_domain (s : State) (l : LinkId) (m : CheckMsg) :
    (s.fullEntry l m).domain? = (s.active.classify l m.source).result.domain? := by
  rw [fullEntry_eq]
  rfl

theorem fullEntry_window (s : State) (l : LinkId) (m : CheckMsg) :
    (s.fullEntry l m).window =
      (s.active.lookup m.address.toNat).map fun x => lookupHit x.1 x.2 m.address.toNat := by
  rw [fullEntry_eq]

theorem fullEntry_seen (s : State) (l : LinkId) (m : CheckMsg) : (s.fullEntry l m).seen = none := by
  rw [fullEntry_eq]

/-- An entry that no step from 3 to 6 decides has the granule index of its address in the window found. -/
theorem fullEntry_granule (s : State) (l : LinkId) (m : CheckMsg) (h : s.stepsOutcome l m = none) :
    (s.fullEntry l m).granule =
      (s.active.lookup m.address.toNat).map fun x => x.2.indexOf m.address.toNat := by
  rw [fullEntry_eq, h]
  rfl

/-- A denial of steps 3 to 6 is the phase of the entry, and is reported with the domain of the class result. -/
theorem fullEntry_denied (s : State) (l : LinkId) (m : CheckMsg) (r : DenyReason)
    (h : s.stepsOutcome l m = some (.deny r)) :
    (s.fullEntry l m).phase = .deciding (.deny r) ∧
      (s.denialOf (s.fullEntry l m) r).domain = (s.active.classify l m.source).result.domain? := by
  rw [fullEntry_phase, h]
  exact ⟨rfl, fullEntry_domain s l m⟩

/-- The VERDICT of an entry that saw no record names no granule and no generation (R57). -/
theorem verdict_unseen (e : OpenCheck) (o : CheckOutcome) (b : Bool) (h : e.seen = none) :
    (e.verdict o b).granule = none ∧ (e.verdict o b).generation = none := by
  simp only [OpenCheck.verdict, h, Option.isSome_none, Bool.false_eq_true, if_false, and_self]

/-- Steps 1 and 2 decide nothing on an ACTIVE link in OPERATING, so the entry is the full one. -/
theorem checkEntry_passes (s : State) (l : LinkId) (m : CheckMsg) (a : (s.link l).state = .active)
    (o : s.mode = .operating) : s.checkEntry l m = s.fullEntry l m := by
  have undenied : s.earlyDenial l = none := by simp only [State.earlyDenial, a, o]
  simp only [State.checkEntry, undenied]

/-- A CHECK with a free tag below the maximum, on an ACTIVE link in OPERATING, opens its full entry; one that waits
has its record read placed. -/
theorem exec_check_passes (s : State) (l : LinkId) (m : CheckMsg) (h : s.Takes l (.check l m))
    (a : (s.link l).state = .active) (o : s.mode = .operating) (below : m.tag < s.maxOpen l)
    (free : s.tagOpen l m.tag = false) :
    exec (.check l m) s = .next ({ s with
      openChecks := s.openChecks ++ [s.fullEntry l m]
      store := { s.store with verdictQ :=
        if (s.fullEntry l m).phase = .waitRecord then s.store.verdictQ ++ [(l, m.tag)]
        else s.store.verdictQ } } : State).closeEvent := by
  have taken : s.takeCheck l m = s.openCheck (s.fullEntry l m) := by
    simp only [State.takeCheck, a, free, checkEntry_passes s l m a o, Nat.not_le.mpr below, if_false,
      Bool.false_eq_true]
  have delivered : exec (.check l m) s = .next (s.openCheck (s.fullEntry l m)).closeEvent := by
    rw [← taken]
    exact congrArg Host.Outcome.next (deliver_takes s l (.check l m) _ h)
  rw [delivered, State.openCheck]
  simp only [OpenCheck.waits, beq_iff_eq, fullEntry_eq]

/-! ### Steps 3 to 6 (R52 to R54) -/

theorem classOutcome_active (s : State) (d : DomainNo) (hit : Option (Nat × Window))
    (a : s.domainActive d = true) : s.classOutcome (.domain d) hit = windowOutcome d hit := if_pos a

theorem classOutcome_inactive (s : State) (d : DomainNo) (hit : Option (Nat × Window))
    (a : s.domainActive d = false) : s.classOutcome (.domain d) hit = some (.deny .domainInactive) := by
  simp only [State.classOutcome, a, Bool.false_eq_true, if_false]

/-- The outcome in a window found, by its mode (R54). -/
theorem windowOutcome_some (d : DomainNo) (n : Nat) (w : Window) :
    (w.mode = .closed → windowOutcome d (some (n, w)) = some (.deny .closedRegion)) ∧
    (w.mode = .platformOnly → d = 0 → windowOutcome d (some (n, w)) = some .allowReadWrite) ∧
    (w.mode = .platformOnly → d ≠ 0 → windowOutcome d (some (n, w)) = some (.deny .platformRegion)) ∧
    (w.mode = .openAll → windowOutcome d (some (n, w)) = some .allowReadWrite) ∧
    (w.mode = .tagged → windowOutcome d (some (n, w)) = none) := by
  unfold windowOutcome
  refine ⟨fun h => ?_, fun h z => ?_, fun h z => ?_, fun h => ?_, fun h => ?_⟩
  case refine_2 => simp only [h, if_pos z]
  case refine_3 => simp only [h, if_neg z]
  all_goals simp only [h]

/-- The denials that steps 5 and 6 can give. -/
theorem windowOutcome_denial (d : DomainNo) (hit : Option (Nat × Window)) (r : DenyReason)
    (h : windowOutcome d hit = some (.deny r)) :
    r = .unmapped ∨ r = .closedRegion ∨ r = .platformRegion := by
  rcases hit with _ | ⟨n, w⟩
  · cases h
    exact .inl rfl
  · obtain ⟨closed, platform, other, openAll, tagged⟩ := windowOutcome_some d n w
    cases mode : w.mode with
    | closed => cases (closed mode).symm.trans h; exact .inr (.inl rfl)
    | platformOnly =>
      by_cases z : d = 0
      · cases (platform mode z).symm.trans h
      · cases (other mode z).symm.trans h
        exact .inr (.inr rfl)
    | openAll => cases (openAll mode).symm.trans h
    | tagged => cases (tagged mode).symm.trans h

/-- A source with a domain is not denied by step 3: the steps after it have denials of their own (R52). -/
theorem classOutcome_domain_denial (s : State) (d : DomainNo) (hit : Option (Nat × Window)) (r : DenyReason)
    (h : s.classOutcome (.domain d) hit = some (.deny r)) : r ≠ .unclassified ∧ r ≠ .sourceBlocked := by
  cases a : s.domainActive d with
  | false =>
    cases (classOutcome_inactive s d hit a).symm.trans h
    decide
  | true =>
    rw [classOutcome_active s d hit a] at h
    rcases windowOutcome_denial d hit r h with rfl | rfl | rfl <;> decide

/-- An entry decided to be denied was so decided by its outcome. -/
theorem phaseOf_deny (o : Option CheckOutcome) (r : DenyReason) (h : phaseOf o = .deciding (.deny r)) :
    o = some (.deny r) := by
  cases o with
  | none => cases h
  | some x => cases h; rfl

/-- Settles O16: the full entry is the witness, and each class result settles the outcome of step 3. -/
theorem checkSourceStep : Obligations.CheckSourceStep := by
  unfold Obligations.CheckSourceStep
  intro s l m h a o below free
  refine ⟨s.fullEntry l m, exec_check_passes s l m h a o below free, ?_⟩
  obtain ⟨link, tag, source, address, access, cacheWanted, epoch, classified⟩ := fullEntry_message s l m
  refine ⟨link, tag, source, address, access, cacheWanted, epoch, classified, fun c => ?_, fun c => ?_,
    fun d c => ?_⟩
  · have outcome : s.stepsOutcome l m = some (.deny .unclassified) := by rw [State.stepsOutcome, c]; rfl
    obtain ⟨phase, domain⟩ := fullEntry_denied s l m .unclassified outcome
    exact ⟨phase, rfl, by rw [domain, c]; rfl⟩
  · have outcome : s.stepsOutcome l m = some (.deny .sourceBlocked) := by rw [State.stepsOutcome, c]; rfl
    obtain ⟨phase, domain⟩ := fullEntry_denied s l m .sourceBlocked outcome
    exact ⟨phase, rfl, by rw [domain, c]; rfl⟩
  · have denied (r : DenyReason) (p : (s.fullEntry l m).phase = .deciding (.deny r)) :
        r ≠ .unclassified ∧ r ≠ .sourceBlocked := by
      rw [fullEntry_phase] at p
      have outcome := phaseOf_deny _ r p
      rw [State.stepsOutcome, c] at outcome
      exact classOutcome_domain_denial s d _ r outcome
    refine ⟨?_, fun p => (denied _ p).1 rfl, fun p => (denied _ p).2 rfl⟩
    rw [fullEntry_domain, c]
    rfl

/-- Settles O17: past steps 3 and 4 the outcome is that of the window lookup, taken mode by mode. -/
theorem checkWindowSteps : Obligations.CheckWindowSteps := by
  unfold Obligations.CheckWindowSteps
  intro s l m d h a o below free c act
  have outcome : s.stepsOutcome l m = windowOutcome d (s.active.lookup m.address.toNat) := by
    rw [State.stepsOutcome, c, classOutcome_active s d _ act]
  have phase := fullEntry_phase s l m
  have window := fullEntry_window s l m
  refine ⟨s.fullEntry l m, exec_check_passes s l m h a o below free, fun miss => ?_, fun n w hit => ?_⟩
  · rw [miss] at outcome window
    rw [phase, outcome, window]
    exact ⟨rfl, rfl, rfl⟩
  · rw [hit] at outcome window
    obtain ⟨closed, platform, other, openAll, tagged⟩ := windowOutcome_some d n w
    rw [phase, outcome, window]
    refine ⟨rfl, fun mode => ?_, fun mode z => ?_, fun mode z => ?_, fun mode => ?_, fun mode => ?_,
      fun _ x b => ?_⟩
    · rw [closed mode]
      exact ⟨rfl, rfl⟩
    · rw [platform mode z]
      rfl
    · rw [other mode z]
      exact ⟨rfl, rfl⟩
    · rw [openAll mode]
      rfl
    · have waits := outcome.trans (tagged mode)
      rw [tagged mode, fullEntry_granule s l m waits, hit]
      exact ⟨rfl, rfl⟩
    · have base : ((s.fullEntry l m).verdict x b).granuleBase =
          some (w.baseOf m.address.toNat, w.granule) := by
        rw [OpenCheck.verdict, window]
        rfl
      exact ⟨base, verdict_unseen _ x b (fullEntry_seen s l m)⟩

/-! ### Step 7 (R55) -/

theorem slotNames_iff (d : DomainNo) (w : Half) :
    slotNames d w = true ↔ slotPresent w = true ∧ slotDomain w = d := by
  rw [slotNames, Bool.and_eq_true, beq_iff_eq]

/-- Slots none of which is present for the domain hold no slot that names it. -/
theorem find_slotNames_none (d : DomainNo) (ws : List Half)
    (h : ∀ w ∈ ws, slotPresent w = true → slotDomain w ≠ d) : ws.find? (slotNames d) = none := by
  rw [List.find?_eq_none]
  intro w inside names
  obtain ⟨present, domain⟩ := (slotNames_iff d w).mp names
  exact h w inside present domain

/-- A domain in no present slot has no rights of a sharer. -/
theorem sharerRights_none (r : TagRecord) (d : DomainNo)
    (h : ∀ w ∈ r.slots, slotPresent w = true → slotDomain w ≠ d) : r.sharerRights d = none := by
  rw [TagRecord.sharerRights, find_slotNames_none d r.slots h]
  rfl

/-- The rights of a sharer are those of the first present slot that names it. -/
theorem sharerRights_first (r : TagRecord) (d : DomainNo) (pre post : List Half) (w : Half)
    (slots : r.slots = pre ++ w :: post) (h : ∀ x ∈ pre, slotPresent x = true → slotDomain x ≠ d)
    (present : slotPresent w = true) (domain : slotDomain w = d) :
    r.sharerRights d = some (slotRights w) := by
  have names : slotNames d w = true := (slotNames_iff d w).mpr ⟨present, domain⟩
  rw [TagRecord.sharerRights, slots, List.find?_append, find_slotNames_none d pre h,
    List.find?_cons_of_pos names]
  rfl

/-- An OWNED and a SHARED record are decided alike (Table 4-3). -/
theorem recordOutcome_held (d : DomainNo) (a : AccessKind) (r : TagRecord)
    (h : r.state = .owned ∨ r.state = .shared) : recordOutcome d a (.verified r) = heldOutcome r d a := by
  rcases h with h | h <;> simp only [recordOutcome, h]

theorem heldOutcome_platform (r : TagRecord) (a : AccessKind) :
    heldOutcome r 0 a = if r.platformAccess then .allowReadWrite else .deny .privateGranule := if_pos rfl

theorem heldOutcome_owner (r : TagRecord) (d : DomainNo) (a : AccessKind) (nonzero : d ≠ 0)
    (own : d = r.owner) : heldOutcome r d a = .allowReadWrite := by
  rw [heldOutcome, if_neg nonzero, if_pos own]

/-- A tenant domain that is not the owner and has no rights of a sharer is denied. -/
theorem heldOutcome_stranger (r : TagRecord) (d : DomainNo) (a : AccessKind) (nonzero : d ≠ 0)
    (other : d ≠ r.owner) (absent : r.sharerRights d = none) : heldOutcome r d a = .deny .notOwner := by
  rw [heldOutcome, if_neg nonzero, if_neg other, absent]

/-- A sharer may do what its rights name. -/
theorem heldOutcome_sharer (r : TagRecord) (d : DomainNo) (a : AccessKind) (q : Rights) (nonzero : d ≠ 0)
    (other : d ≠ r.owner) (rights : r.sharerRights d = some q) :
    heldOutcome r d a =
      if q = .readWrite then .allowReadWrite else if a = .read then .allowRead else .deny .readOnly := by
  rw [heldOutcome, if_neg nonzero, if_neg other, rights]
  cases q with
  | read => rfl
  | readWrite => rfl

/-- Settles O18, one row of Table 4-3 for each clause. -/
theorem recordDecision : Obligations.RecordDecision := by
  unfold Obligations.RecordDecision
  intro d a
  refine ⟨fun _ => rfl, fun r => ⟨fun st => ?_, fun st => ?_, fun st z => ?_, fun st z => ?_,
    fun st z p => ?_, fun st z p => ?_, fun st nonzero own => ?_, fun st nonzero other absent => ?_,
    fun st nonzero other pre post w slots before present domain => ?_⟩⟩
  · simp only [recordOutcome, st]
  · simp only [recordOutcome, st]
  · simp only [recordOutcome, st, if_pos z]
  · simp only [recordOutcome, st, if_neg z]
  · rw [recordOutcome_held d a r st, z, heldOutcome_platform, if_pos p]
  · rw [recordOutcome_held d a r st, z, heldOutcome_platform, p, if_neg Bool.false_ne_true]
  · rw [recordOutcome_held d a r st, heldOutcome_owner r d a nonzero own]
  · rw [recordOutcome_held d a r st,
      heldOutcome_stranger r d a nonzero other (sharerRights_none r d absent)]
  · rw [recordOutcome_held d a r st, heldOutcome_sharer r d a (slotRights w) nonzero other
      (sharerRights_first r d pre post w slots before present domain)]

end Sys2Proof.Machine
end

section
/-! SUPPORT. What a write of the domain table or of the violation flags leaves to read, and CONTROL DOMAIN_OPEN
(R108). -/

namespace Sys2Proof.Machine

/-! ### The domain table and the violation flags after a write (R106, R167) -/

/-- The entry of a domain after the entry of a tenant domain was stored. -/
theorem domainEntry_setDomain (s : State) (d e : DomainNo) (v : DomainEntry) (nonzero : d ≠ 0)
    (ok : s.TablesOk) : (s.setDomain d v).domainEntry e = if e = d then v else s.domainEntry e := by
  obtain ⟨_, domains, _⟩ := ok
  rw [setDomain_of_ne s d v nonzero]
  unfold State.domainEntry
  by_cases z : e = 0
  · rw [if_pos z, if_pos z, if_neg (z.trans_ne nonzero.symm)]
  · rw [if_neg z, if_neg z, Table.get_set _ s.domains d.toNat e.toNat v domains.1]
    simp only [BitVec.toNat_inj]

/-- The violation of a domain after that of a domain was stored. -/
theorem violation_setViolation (s : State) (d n : Nat) (v : Violation) (ok : s.TablesOk) :
    (s.setViolation d v).violation n = if n = d then v else s.violation n :=
  Table.get_set _ s.reports.violations d n v ok.1.1

/-- To store a violation leaves the domain table as it is. -/
@[simp] theorem domainEntry_setViolation (s : State) (n : Nat) (v : Violation) (e : DomainNo) :
    (s.setViolation n v).domainEntry e = s.domainEntry e := rfl

/-- A store into the domain table keeps the canonical form of the tables. -/
theorem tablesOk_setDomain (s : State) (d : DomainNo) (v : DomainEntry) (nonzero : d ≠ 0) (ok : s.TablesOk) :
    (s.setDomain d v).TablesOk := by
  obtain ⟨violations, domains, directory⟩ := ok
  rw [setDomain_of_ne s d v nonzero]
  exact ⟨violations, Table.wf_set _ s.domains d.toNat v domains, directory⟩

/-- To store an entry of the domain table leaves every violation as it is. -/
theorem violation_setDomain (s : State) (d : DomainNo) (v : DomainEntry) (nonzero : d ≠ 0) (n : Nat) :
    (s.setDomain d v).violation n = s.violation n := by
  rw [setDomain_of_ne s d v nonzero]
  rfl

/-! ### CONTROL DOMAIN_OPEN (R108) -/

/-- The part after the opening of domain `d`: ACTIVE with owned count 0, its violation flag and count cleared. -/
def State.opened (s : State) (d : DomainNo) : State :=
  (s.setDomain d { state := .active, owned := 0 }).setViolation d.toNat Violation.none

/-- DOMAIN_OPEN of a domain number that no domain has. -/
theorem openDomain_above (s : State) (d : DomainNo) (above : 1023 < d.toNat) :
    s.openDomain d = (s, .refused .badArgument) := if_pos above

/-- DOMAIN_OPEN of domain 0, or of a domain that is not ABSENT. -/
theorem openDomain_taken (s : State) (d : DomainNo) (within : d.toNat ≤ 1023)
    (taken : d = 0 ∨ (s.domainEntry d).state ≠ .absent) : s.openDomain d = (s, .refused .domainState) := by
  rw [State.openDomain, if_neg (Nat.not_lt.mpr within), if_pos taken]

/-- DOMAIN_OPEN of an ABSENT tenant domain. -/
theorem openDomain_absent (s : State) (d : DomainNo) (within : d.toNat ≤ 1023) (nonzero : d ≠ 0)
    (absent : (s.domainEntry d).state = .absent) : s.openDomain d = (s.opened d, .accepted) := by
  have free : ¬ (d = 0 ∨ (s.domainEntry d).state ≠ .absent) :=
    not_or.mpr ⟨nonzero, not_not.mpr absent⟩
  rw [State.openDomain, if_neg (Nat.not_lt.mpr within), if_neg free, State.opened]

/-- An opening changes the domain table and the violations alone. -/
theorem opened_frame (s : State) (d : DomainNo) (nonzero : d ≠ 0) :
    s.opened d = { s with
      domains := (s.opened d).domains
      reports := { s.reports with violations := (s.opened d).reports.violations } } := by
  rw [State.opened, setDomain_of_ne s d _ nonzero]
  rfl

/-- The entry of a domain after an opening. -/
theorem domainEntry_opened (s : State) (d e : DomainNo) (nonzero : d ≠ 0) (ok : s.TablesOk) :
    (s.opened d).domainEntry e = if e = d then { state := .active, owned := 0 } else s.domainEntry e := by
  rw [State.opened, domainEntry_setViolation, domainEntry_setDomain s d e _ nonzero ok]

/-- The violation of a domain after an opening. -/
theorem violation_opened (s : State) (d : DomainNo) (n : Nat) (nonzero : d ≠ 0) (ok : s.TablesOk) :
    (s.opened d).violation n = if n = d.toNat then { flag := false, count := 0 } else s.violation n := by
  rw [State.opened, violation_setViolation _ _ _ _ (tablesOk_setDomain s d _ nonzero ok),
    violation_setDomain s d _ nonzero n]
  rfl

/-- CONTROL DOMAIN_OPEN carried out: its effect on the part after the authority test, then its reply, then the end of
the event. -/
theorem exec_domainOpen_carries (s t : State) (h : MgmtHeader) (d : DomainNo)
    (c : s.Carries h (.domainOpen h d) t) :
    exec (.domainOpen h d) s = .next
      ((t.openDomain d).1.hand h.link (.controlReply h.tag (t.openDomain d).2)).closeEvent :=
  congrArg Host.Outcome.next (deliver_control s t h (.domainOpen h d) (fun u => u.openDomain d) c)

/-- Settles O34, one case of DOMAIN_OPEN's tests for each clause; the opened part is the witness of the last. -/
theorem domainOpen : Obligations.DomainOpen := by
  unfold Obligations.DomainOpen
  intro s t h d c
  rw [exec_domainOpen_carries s t h d c]
  refine ⟨fun above => ?_, fun within taken => ?_, fun within nonzero absent ok => ?_⟩
  · rw [openDomain_above t d above]
  · rw [openDomain_taken t d within taken]
  · have entry := domainEntry_opened t d d nonzero ok
    rw [if_pos rfl] at entry
    refine ⟨t.opened d, ?_, opened_frame t d nonzero, entry, ?_, ?_, fun e other => ?_, fun n other => ?_⟩
    · rw [openDomain_absent t d within nonzero absent]
    · rw [State.domainActive, entry]
      rfl
    · rw [violation_opened t d d.toNat nonzero ok, if_pos rfl]
    · rw [domainEntry_opened t d e nonzero ok, if_neg other]
    · rw [violation_opened t d n nonzero ok, if_neg other]

end Sys2Proof.Machine
end

section
/-! SUPPORT. The channel a CONTROL operation names, and CONTROL CHAIN_CANCEL (R130). -/

namespace Sys2Proof.Machine

/-! ### The channel a number names (R119, R128 to R130, R133) -/

/-- A number above 1 names no channel. -/
theorem channelOf_above (b : Byte) (above : 1 < b.toNat) : channelOf b = none := by
  have not0 : b ≠ 0 := fun e => by simp [e] at above
  have not1 : b ≠ 1 := fun e => by simp [e] at above
  rw [channelOf, if_neg not0, if_neg not1]

/-- The number of a channel names it. -/
theorem channelOf_channel (b : Byte) (c : ChannelId) (named : b.toNat = c.val) : channelOf b = some c := by
  have number : b = BitVec.ofNat 8 c.val := by rw [← named, BitVec.ofNat_toNat, BitVec.setWidth_eq]
  subst number
  match c with
  | 0 => rfl
  | 1 => rfl

/-- An operation on a channel number above 1 is refused BAD_ARGUMENT. -/
theorem onChannel_above (s : State) (b : Byte) (f : ChannelId → State × ControlOutcome)
    (above : 1 < b.toNat) : s.onChannel b f = (s, .refused .badArgument) := by
  rw [State.onChannel, channelOf_above b above]

/-- An operation on the number of a channel is carried out on that channel. -/
theorem onChannel_channel (s : State) (b : Byte) (c : ChannelId) (f : ChannelId → State × ControlOutcome)
    (named : b.toNat = c.val) : s.onChannel b f = f c := by
  rw [State.onChannel, channelOf_channel b c named]

/-! ### Coming to rest without a fault (R132) -/

/-- A channel that comes to rest with a cause that is no fault raises CHAINn_END and writes no record. -/
theorem restChannel_of_not_isFault (s : State) (c : ChannelId) (st : ChannelState) (cause : ChainCause)
    (offset : Nat) (silent : cause.isFault = false) :
    s.restChannel c st cause offset = (s.updChan c fun k => k.atRest st cause offset).raise (chainEnd c) :=
  if_neg (ne_true_of_eq_false silent)

/-! ### CONTROL CHAIN_CANCEL (R130) -/

/-- CHAIN_CANCEL of a channel that is not STOPPED. -/
theorem chainCancelOp_of_not_stopped (s : State) (c : ChannelId) (state : (s.chan c).state ≠ .stopped) :
    s.chainCancelOp c = (s, .refused .channelNotStopped) := if_neg state

/-- CHAIN_CANCEL of a STOPPED channel: it rests in IDLE with cause CANCELLED at its kept position. -/
theorem chainCancelOp_of_stopped (s : State) (c : ChannelId) (state : (s.chan c).state = .stopped) :
    s.chainCancelOp c =
      ((s.updChan c fun k => k.atRest .idle .cancelled k.offsetReached).raise (chainEnd c), .accepted) := by
  rw [State.chainCancelOp, if_pos state, restChannel_of_not_isFault s c .idle .cancelled _ rfl]
  rfl

/-- CONTROL CHAIN_CANCEL carried out: its effect on the part after the authority test, then its reply, then the end
of the event. -/
theorem exec_chainCancel_carries (s t : State) (h : MgmtHeader) (b : Byte)
    (c : s.Carries h (.chainCancel h b) t) :
    exec (.chainCancel h b) s = .next
      ((t.onChannel b t.chainCancelOp).1.hand h.link
        (.controlReply h.tag (t.onChannel b t.chainCancelOp).2)).closeEvent :=
  congrArg Host.Outcome.next
    (deliver_control s t h (.chainCancel h b) (fun u => u.onChannel b u.chainCancelOp) c)

/-- Settles O48: a number above 1, then a channel that is not STOPPED, then a STOPPED one. -/
theorem chainCancel : Obligations.ChainCancel := by
  unfold Obligations.ChainCancel
  intro s t h b carried
  rw [exec_chainCancel_carries s t h b carried]
  refine ⟨fun above => ?_, fun c named => ⟨fun state => ?_, fun state => ?_⟩⟩
  · rw [onChannel_above t b _ above]
  · rw [onChannel_channel t b c _ named, chainCancelOp_of_not_stopped t c state]
  · rw [onChannel_channel t b c _ named, chainCancelOp_of_stopped t c state]
    rfl

end Sys2Proof.Machine
end

section
/-! SUPPORT. What the shared operations keep beside `Keeps`: the sparse tables' canonical form and the accord of the
commit phase with its flush (`Form`). The acts between the loss of a link and the drains that close the event keep
less (`Loosens`), and `settle` makes it good. -/

namespace Sys2Proof.Machine

/-! ### The two relations -/

/-- Outside FLUSHING the commit flush set is empty; what is left of `CommitOk` before an event's drains. -/
def State.CommitOpen (s : State) : Prop := s.phase = .idle → s.flushSet = 0

/-- An operation that keeps the sparse tables' form and the accord of the commit phase with its flush. -/
structure Form (s t : State) : Prop where
  tables : s.TablesOk → t.TablesOk
  commit : s.CommitOk → t.CommitOk

/-- An operation after which a commit flush may be complete without having been closed. -/
structure Loosens (s t : State) : Prop where
  tables : s.TablesOk → t.TablesOk
  commit : s.CommitOpen → t.CommitOpen

/-- The sparse tables and the fields of the commit flush are the same. -/
structure SameForm (s t : State) : Prop where
  violations : t.reports.violations = s.reports.violations
  domains : t.domains = s.domains
  directory : t.directory = s.directory
  phase : t.phase = s.phase
  flushSet : t.flushSet = s.flushSet
  oldEpochCount : t.oldEpochCount = s.oldEpochCount

theorem Form.refl (s : State) : Form s s := ⟨id, id⟩

theorem Form.trans {s t u : State} (a : Form s t) (b : Form t u) : Form s u :=
  ⟨b.tables ∘ a.tables, b.commit ∘ a.commit⟩

theorem Loosens.refl (s : State) : Loosens s s := ⟨id, id⟩

theorem Loosens.trans {s t u : State} (a : Loosens s t) (b : Loosens t u) : Loosens s u :=
  ⟨b.tables ∘ a.tables, b.commit ∘ a.commit⟩

theorem SameForm.trans {s t u : State} (a : SameForm s t) (b : SameForm t u) : SameForm s u where
  violations := b.violations.trans a.violations
  domains := b.domains.trans a.domains
  directory := b.directory.trans a.directory
  phase := b.phase.trans a.phase
  flushSet := b.flushSet.trans a.flushSet
  oldEpochCount := b.oldEpochCount.trans a.oldEpochCount

/-- The commit flush depends on three fields. -/
theorem commitOk_congr {s t : State} (p : t.phase = s.phase) (f : t.flushSet = s.flushSet)
    (o : t.oldEpochCount = s.oldEpochCount) (h : s.CommitOk) : t.CommitOk := by
  unfold State.CommitOk at *
  rw [p, f, o]
  exact h

/-- An operation that does not touch the commit flush. -/
theorem Form.of_tables {s t : State} (h : s.TablesOk → t.TablesOk) (p : t.phase = s.phase)
    (f : t.flushSet = s.flushSet) (o : t.oldEpochCount = s.oldEpochCount) : Form s t :=
  ⟨h, commitOk_congr p f o⟩

theorem SameForm.tables {s t : State} (a : SameForm s t) (h : s.TablesOk) : t.TablesOk := by
  unfold State.TablesOk at *
  rw [a.violations, a.domains, a.directory]
  exact h

theorem SameForm.form {s t : State} (a : SameForm s t) : Form s t :=
  .of_tables a.tables a.phase a.flushSet a.oldEpochCount

theorem SameForm.loosens {s t : State} (a : SameForm s t) : Loosens s t where
  tables := a.tables
  commit h := by
    unfold State.CommitOpen at *
    rw [a.phase, a.flushSet]
    exact h

/-- A fold of operations that keep the form. -/
theorem Form.foldl {α : Type} (f : State → α → State) (h : ∀ s a, Form s (f s a)) (xs : List α) (s : State) :
    Form s (xs.foldl f s) := by
  induction xs generalizing s with
  | nil => exact Form.refl s
  | cons x xs ih => exact (h s x).trans (ih (f s x))

theorem Loosens.foldl {α : Type} (f : State → α → State) (h : ∀ s a, Loosens s (f s a)) (xs : List α) (s : State) :
    Loosens s (xs.foldl f s) := by
  induction xs generalizing s with
  | nil => exact Loosens.refl s
  | cons x xs ih => exact (h s x).trans (ih (f s x))

/-! ### Operations that touch channels, reports and paths -/

theorem State.OnlyChains.sameForm {s t : State} (a : s.OnlyChains t) : SameForm s t := by
  unfold State.OnlyChains State.OnlyReports at a
  rw [a]
  exact ⟨rfl, rfl, rfl, rfl, rfl, rfl⟩

theorem State.OnlyReports.sameForm {s t : State} (a : s.OnlyReports t) : SameForm s t := a.chains.sameForm

theorem State.OnlyChannel.sameForm {s t : State} {c : ChannelId} (a : s.OnlyChannel t c) : SameForm s t :=
  State.OnlyChains.sameForm a.1

theorem form_updLink (s : State) (l : LinkId) (f : Link → Link) : Form s (s.updLink l f) :=
  (onlyReports_updLink s l f).sameForm.form

theorem form_hand (s : State) (l : LinkId) (m : OutMsg) : Form s (s.hand l m) :=
  (onlyReports_hand s l m).sameForm.form

theorem form_refuse (s : State) (l : LinkId) (k : TagKind) (t : Nat) (r : RefuseReason) :
    Form s (s.refuse l k t r) := form_hand s l _

theorem form_raise (s : State) (st : Status) : Form s (s.raise st) := (onlyReports_raise s st).sameForm.form

theorem form_report (s : State) (k : EventKind) (l : Option LinkId) (g : Option Nat) (d : Option DomainNo)
    (x : EventDetail) : Form s (s.report k l g d x) := (onlyReports_report s k l g d x).sameForm.form

theorem form_closeEvent (s : State) : Form s s.closeEvent := (onlyReports_closeEvent s).sameForm.form

theorem form_updChan (s : State) (c : ChannelId) (f : Channel → Channel) : Form s (s.updChan c f) :=
  (onlyChains_updChan s c f).sameForm.form

theorem form_writeWatch (s : State) (w : WatchReport) : Form s (s.writeWatch w) :=
  .trans (t := { s with watchReport := some w }) (SameForm.form ⟨rfl, rfl, rfl, rfl, rfl, rfl⟩) (form_raise _ _)

theorem form_setViolation (s : State) (d : Nat) (v : Violation) : Form s (s.setViolation d v) :=
  .of_tables (fun ⟨a, b, c⟩ => ⟨Table.wf_set _ _ _ _ a, b, c⟩) rfl rfl rfl

theorem form_storeDenial (s : State) (r : DenialRecord) : Form s (s.storeDenial r) := by
  have base : Form s (({ s with reports := { s.reports with q0 := (s.reports.q0.push r).1 } } :
      State).countViolation r.domain) := by
    refine .trans (t := { s with reports := { s.reports with q0 := (s.reports.q0.push r).1 } })
      (SameForm.form ⟨rfl, rfl, rfl, rfl, rfl, rfl⟩) ?_
    unfold State.countViolation
    split
    · exact Form.refl _
    · exact form_setViolation _ _ _
  unfold State.storeDenial
  dsimp only
  split
  · exact base.trans (form_raise _ _)
  · split
    · exact base.trans (form_raise _ _)
    · exact base

/-! ### Quarantine requests and the capture -/

theorem sameForm_foundFailure (s : State) (g : Nat) (f : FoundBy) (img : Image) :
    SameForm s (s.foundFailure g f img) := by
  refine .trans (t := s.fileRequest g) ?_ ?_
  · unfold State.fileRequest
    split
    · exact ⟨rfl, rfl, rfl, rfl, rfl, rfl⟩
    · split <;> exact ⟨rfl, rfl, rfl, rfl, rfl, rfl⟩
  · rw [State.foundFailure, capture_eq]
    exact ⟨rfl, rfl, rfl, rfl, rfl, rfl⟩

/-! ### The Grant Directory, the fence table and the arbiter -/

theorem form_setWay (s : State) (w : Nat) (e : Option DirEntry) : Form s (s.setWay w e) :=
  .of_tables (fun ⟨a, b, c⟩ => ⟨a, b, Table.wf_set _ _ _ _ c⟩) rfl rfl rfl

theorem form_recordGrant (s : State) (g : Nat) (l : LinkId) : Form s (s.recordGrant g l).1 := by
  unfold State.recordGrant
  split
  · exact form_setWay _ _ _
  · split
    · exact form_setWay _ _ _
    · exact SameForm.form ⟨rfl, rfl, rfl, rfl, rfl, rfl⟩

theorem form_dropHolder (s : State) (g : Nat) (l : LinkId) : Form s (s.dropHolder g l) := by
  unfold State.dropHolder
  split
  · exact form_setWay _ _ _
  · exact Form.refl s

theorem form_freeGranule (s : State) (g : Nat) : Form s (s.freeGranule g) := by
  unfold State.freeGranule
  split
  · exact form_setWay _ _ _
  · exact Form.refl s

theorem sameForm_freeFence (s : State) (g : Nat) : SameForm s (s.freeFence g) := by
  rw [freeFence_eq]
  exact ⟨rfl, rfl, rfl, rfl, rfl, rfl⟩

theorem sameForm_lowerStale (s : State) (g : Option Nat) : SameForm s (s.lowerStale g) := by
  rw [lowerStale_eq]
  exact ⟨rfl, rfl, rfl, rfl, rfl, rfl⟩

theorem sameForm_placeSoftRead (s : State) : SameForm s s.placeSoftRead := by
  rw [placeSoftRead_eq]
  exact ⟨rfl, rfl, rfl, rfl, rfl, rfl⟩

/-! ### What an event completes -/

/-- The commit flush of the event's end leaves the phase in accord with its flush (R144). -/
theorem commitOk_completeCommit (s : State) (h : s.CommitOpen) : s.completeCommit.CommitOk := by
  unfold State.completeCommit
  split
  · next done =>
    obtain ⟨-, empty, -⟩ := done
    exact commitOk_congr (s := { s with phase := .idle }) (onlyReports_raise _ _).sameForm.phase
      (onlyReports_raise _ _).sameForm.flushSet (onlyReports_raise _ _).sameForm.oldEpochCount empty
  · next goes =>
    unfold State.CommitOk
    split
    · next idle => exact h idle
    · next flushing =>
      rw [← not_and_or]
      exact fun ⟨a, b⟩ => goes ⟨flushing, a, b⟩

theorem tablesOk_completeCommit (s : State) (h : s.TablesOk) : s.completeCommit.TablesOk := by
  unfold State.completeCommit
  split
  · exact (form_raise _ _).tables h
  · exact h

theorem CommitOk.open {s : State} (h : s.CommitOk) : s.CommitOpen := by
  intro idle
  unfold State.CommitOk at h
  rw [idle] at h
  exact h

/-- The drains and the commit flush at an event's end close what the event left open. -/
theorem form_settle {s t : State} (a : Loosens s t) : Form s t.settle where
  tables h := tablesOk_completeCommit t.completeDrains (a.tables h)
  commit h := commitOk_completeCommit t.completeDrains (a.commit (CommitOk.open h))

/-- The same, after operations that keep the form. -/
theorem Form.settle {s t u : State} (a : Form s t) (b : Loosens t u) : Form s u.settle := a.trans (form_settle b)

/-! ### The loss of a link -/

theorem loosens_withdrawLink (s : State) (l : LinkId) : Loosens s (s.withdrawLink l) where
  tables := fun ⟨a, b, c⟩ => ⟨a, b, Table.wf_mapListed _ _ _ c⟩
  commit h idle := by
    have empty : (s.withdrawLink l).flushSet = LinkSet.del s.flushSet l := rfl
    rw [empty, h idle]
    exact BitVec.zero_and

theorem loosens_discardChecks (s : State) (l : LinkId) : Loosens s (s.discardChecks l) := by
  rw [discardChecks_eq]
  exact ⟨id, id⟩

theorem loosens_linkLeaves (s : State) (l : LinkId) (kept : List OutMsg) : Loosens s (s.linkLeaves l kept) := by
  have software (t : State) : Loosens t (t.dropSoftware l) := by
    rw [dropSoftware_eq]
    exact ⟨id, id⟩
  have chains (t : State) : Loosens t (t.chainsLinkLost l) :=
    (State.OnlyChains.sameForm (chainsLinkLost_only t l).1).loosens
  have ends (t : State) : Loosens t (t.endSession l kept) := SameForm.loosens ⟨rfl, rfl, rfl, rfl, rfl, rfl⟩
  exact ((((loosens_withdrawLink s l).trans (loosens_discardChecks _ l)).trans (software _)).trans
    (chains _)).trans (ends _)

theorem loosens_updLink (s : State) (l : LinkId) (f : Link → Link) : Loosens s (s.updLink l f) :=
  (onlyReports_updLink s l f).sameForm.loosens

theorem loosens_faultCore (s : State) (l : LinkId) (x : FaultCause) (t : Option CounterType) (g : Option Nat) :
    Loosens s (s.faultCore l x t g) := by
  unfold State.faultCore
  split
  · exact (((loosens_updLink s l _).trans (loosens_linkLeaves _ l [])).trans
      (onlyReports_report ..).sameForm.loosens).trans (onlyReports_raise ..).sameForm.loosens
  · exact Loosens.refl s

theorem form_faultLink (s : State) (l : LinkId) (x : FaultCause) (t : Option CounterType) :
    Form s (s.faultLink l x t) := form_settle (loosens_faultCore s l x t none)

theorem form_refuseLink (s : State) (l : LinkId) (r : AnnounceResult) : Form s (s.refuseLink l r) :=
  form_settle ((loosens_updLink s l _).trans (loosens_linkLeaves _ l _))

theorem form_loseSignal (s : State) (l : LinkId) : Form s (s.loseSignal l) := by
  unfold State.loseSignal
  dsimp only
  split
  · exact form_settle ((loosens_updLink s l _).trans (loosens_linkLeaves _ l []))
  · exact form_updLink s l _

theorem form_flushDue (s : State) (l : LinkId) : Form s (s.flushDue l) := (flushDue_only s l).1.sameForm.form

theorem form_holdLink (s : State) (l : LinkId) : Form s (s.holdLink l) :=
  ((form_updLink s l _).trans (form_flushDue _ l)).trans
    (State.OnlyChains.sameForm (chainsLinkLost_only _ l).1).form

/-! ### Error counters and the stages of a frame -/

theorem form_countError (s : State) (l : LinkId) (ty : CounterType) : Form s (s.countError l ty) := by
  have base (f : Link → Link) : Form s (s.updLink l f) := form_updLink s l f
  unfold State.countError
  dsimp only
  split
  · split
    · exact ((base _).trans (form_raise _ _)).trans (form_faultLink _ _ _ _)
    · exact (base _).trans (form_raise _ _)
  · exact base _

theorem form_refuseTag (s : State) (l : LinkId) (k : TagKind) (t : Nat) (r : RefuseReason) :
    Form s (s.refuseTag l k t r) := (form_refuse s l k t r).trans (form_countError _ _ _)

theorem form_authority (s : State) (h : MgmtHeader) : Form s (s.authority h).1 := by
  have watched (w : Option Nat) (f : Nat → WatchReport) : Form s (match w with
      | none => s
      | some n => s.writeWatch (f n)) := by
    cases w with
    | none => exact Form.refl s
    | some n => exact form_writeWatch s (f n)
  unfold State.authority
  split
  · exact Form.refl s
  · dsimp only
    split
    · split
      · exact watched _ _
      · exact ((watched _ _).trans (form_refuse ..)).trans (form_report ..)
    · exact ((watched _ _).trans (form_refuse ..)).trans (form_report ..)
    · exact ((watched _ _).trans (form_refuse ..)).trans (form_report ..)

/-! ### Domains, the scanner and the results of steps -/

theorem form_setDomain (s : State) (d : DomainNo) (e : DomainEntry) : Form s (s.setDomain d e) := by
  unfold State.setDomain
  split
  · exact Form.refl s
  · exact .of_tables (fun ⟨a, b, c⟩ => ⟨a, Table.wf_set _ _ _ _ b, c⟩) rfl rfl rfl

theorem form_adjustOwned (s : State) (k : StepKind) (p : ReadRecord) (w : TagRecord) :
    Form s (s.adjustOwned k p w) := by
  have lowers (d : Option DomainNo) : Form s (match d with
      | some d => s.lowerOwned d
      | none => s) := by
    cases d with
    | none => exact Form.refl s
    | some d => exact form_setDomain s d _
  have raises (t : State) (d : Option DomainNo) : Form t (match d with
      | some d => t.raiseOwned d
      | none => t) := by
    cases d with
    | none => exact Form.refl t
    | some d => exact form_setDomain t d _
  unfold State.adjustOwned
  split
  · split
    · exact form_setDomain s _ _
    · exact Form.refl s
  · split
    · exact Form.refl s
    · exact (lowers p.countedOwner).trans (raises _ w.countedOwner)

theorem form_retireTest (s : State) : Form s s.retireTest := by
  unfold State.retireTest
  dsimp only
  split
  · refine .trans (t := State.setDomain _ _ _) ?_ (.trans (t := { State.setDomain _ _ _ with
      retire := RetireScanner.reset }) (SameForm.form ⟨rfl, rfl, rfl, rfl, rfl, rfl⟩) (form_raise _ _))
    refine .trans ?_ (form_setDomain _ _ _)
    split
    · exact Form.refl s
    · exact form_report ..
  · exact Form.refl s

theorem sameForm_retire (s : State) (r : RetireScanner) : SameForm s { s with retire := r } :=
  ⟨rfl, rfl, rfl, rfl, rfl, rfl⟩

theorem form_scannerAt (s : State) (p : Option (Nat × Nat)) : Form s (s.scannerAt p) := by
  cases p with
  | none =>
    exact (sameForm_retire s _).form.trans (form_retireTest _)
  | some p => exact SameForm.form ⟨rfl, rfl, rfl, rfl, rfl, rfl⟩

theorem form_scannerMoves (s : State) : Form s s.scannerMoves := by
  unfold State.scannerMoves
  split
  · exact form_scannerAt s _
  · exact Form.refl s

theorem form_startRetire (s : State) (d : DomainNo) : Form s (s.startRetire d) :=
  ((form_setDomain s d _).trans (sameForm_retire _ _).form).trans (form_scannerAt _ _)

theorem form_directResult (s : State) (e : DirectEntry) (rest : List DirectEntry) :
    Form s (s.directResult e rest) := by
  have h := (onlyResult_directResult s e rest).1
  unfold State.OnlyResult at h
  have d : (s.directResult e rest).domains = s.domains := by
    unfold State.directResult
    split
    · unfold State.finishDirect
      dsimp only
      split
      · rw [(onlyReports_report ..).sameForm.domains]
        split <;> rfl
      · split <;> rfl
    · rfl
  refine SameForm.form ⟨?_, d, ?_, ?_, ?_, ?_⟩ <;> rw [h]

theorem form_settleChannel (s : State) (c : ChannelId) : Form s (s.settleChannel c) :=
  (onlyChannel_settleChannel s c).sameForm.form

theorem form_stepResult (s : State) (src : StepSource) (g : Nat) (r : Option FailReason) :
    Form s (s.stepResult src g r) := by
  unfold State.stepResult
  split
  · split
    · exact form_directResult s _ _
    · exact Form.refl s
  · exact (form_updChan s _ _).trans (form_settleChannel _ _)
  · dsimp only
    refine .trans ?_ (form_retireTest _)
    refine .trans (t := { s with retire := { s.retire with stepsInFence := s.retire.stepsInFence - 1 } })
      (SameForm.form ⟨rfl, rfl, rfl, rfl, rfl, rfl⟩) ?_
    split
    · exact form_report ..
    · exact Form.refl _
  · exact Form.refl s

theorem form_failStep (s : State) (e : FenceEntry) (r : FailReason) : Form s (s.failStep e r) :=
  (sameForm_freeFence s _).form.trans (form_stepResult _ _ _ _)

theorem form_commandRead (s : State) (e : FenceEntry) : Form s (s.commandRead e) := by
  have pass (rec : ReadRecord) : Form s (s.passStep e rec) := SameForm.form ⟨rfl, rfl, rfl, rfl, rfl, rfl⟩
  have files (k : StepKind) (rec : ReadRecord) : Form s (s.fileFailureOf k e.granule rec) := by
    unfold State.fileFailureOf
    split
    · exact Form.refl s
    · exact (sameForm_foundFailure s _ _ _).form
    · exact Form.refl s
  unfold State.commandRead
  dsimp only
  split
  · exact (sameForm_freeFence s _).form
  · exact pass _
  · split
    · exact (files _ _).trans (form_failStep _ _ _)
    · exact pass _

theorem form_sourceMovesOn (s : State) (src : StepSource) : Form s (s.sourceMovesOn src) := by
  have moves (t : State) : SameForm t t.sweepMoves := ⟨rfl, rfl, rfl, rfl, rfl, rfl⟩
  unfold State.sourceMovesOn
  split
  · split <;> exact SameForm.form ⟨rfl, rfl, rfl, rfl, rfl, rfl⟩
  · exact form_updChan s _ _
  · exact (sameForm_retire s _).form.trans (form_scannerMoves _)
  · split <;> exact SameForm.form ⟨rfl, rfl, rfl, rfl, rfl, rfl⟩

/-! ### The taking of frames -/

theorem form_takeAnnounce (s : State) (l : LinkId) (m : AnnounceMsg) : Form s (s.takeAnnounce l m) := by
  unfold State.takeAnnounce
  split
  · split
    · split
      · exact form_refuseLink s l _
      · split
        · exact (form_updLink s l _).trans (form_hand _ _ _)
        · exact form_refuseLink s l _
    · exact (((form_updLink s l _).trans (form_updLink _ l _)).trans (form_hand _ _ _)).trans
        (form_countError _ _ _)
  · exact form_countError s l _
  · exact form_countError s l _
  · exact form_countError s l _
  all_goals exact Form.refl s

theorem form_takeRejected (s : State) (l : LinkId) (w : FrameFault) : Form s (s.takeRejected l w) := by
  unfold State.takeRejected
  split
  · exact form_countError s l _
  · exact form_countError s l _
  · exact form_refuseTag s l _ _ _
  · split
    · exact form_countError s l _
    · exact Form.refl s

/-- A message that Table 11-2 counts MALFORMED in ANNOUNCING, takes where the link serves and discards elsewhere. -/
theorem form_byState (s : State) (l : LinkId) (t : State) (h : Form s t) :
    Form s (match (s.link l).state with
      | .announcing => s.countError l .malformed
      | .admitWait | .active | .held => t
      | .down | .training | .faulted | .refused => s) := by
  split
  · exact form_countError s l _
  · exact h
  · exact h
  · exact h
  all_goals exact Form.refl s

theorem form_takeCheck (s : State) (l : LinkId) (m : CheckMsg) : Form s (s.takeCheck l m) := by
  refine form_byState s l _ ?_
  split
  · exact form_refuseTag s l _ _ _
  · split
    · exact form_refuseTag s l _ _ _
    · exact SameForm.form ⟨rfl, rfl, rfl, rfl, rfl, rfl⟩

theorem form_takeDrop (s : State) (l : LinkId) (g : Nat) : Form s (s.takeDrop l g) := by
  refine form_byState s l _ ?_
  split
  · exact Form.refl s
  · split
    · exact form_dropHolder s g l
    · exact Form.refl s

theorem form_takeRevokeAck (s : State) (l : LinkId) (g : Nat) (n : Half) : Form s (s.takeRevokeAck l g n) := by
  refine form_byState s l _ ?_
  split
  · exact form_settle (SameForm.loosens ⟨rfl, rfl, rfl, rfl, rfl, rfl⟩)
  · exact form_countError s l _

theorem form_takeFlushAck (s : State) (l : LinkId) : Form s (s.takeFlushAck l) := by
  refine form_byState s l _ ?_
  split
  · exact form_settle (loosens_withdrawLink s l)
  · exact form_countError s l _

theorem form_takeMemData (s : State) (l : LinkId) (t : Byte) (d : Vector Byte 32) :
    Form s (s.takeMemData l t d) := by
  refine form_byState s l _ ?_
  split
  · exact (onlyChannel_takeBlock s _ d).sameForm.form
  · exact form_countError s l _

theorem form_takeMemDone (s : State) (l : LinkId) (t : Byte) : Form s (s.takeMemDone l t) := by
  refine form_byState s l _ ?_
  split
  · exact (onlyChannel_takeDone s _).sameForm.form
  · exact form_countError s l _

/-! ### Verdicts and fence entries -/

theorem form_readForCheck (s : State) (e : OpenCheck) (g : Nat) : Form s (s.readForCheck e g) := by
  unfold State.readForCheck
  dsimp only
  split
  · refine .trans ?_ (sameForm_foundFailure _ _ _ _).form
    exact SameForm.form ⟨rfl, rfl, rfl, rfl, rfl, rfl⟩
  · exact SameForm.form ⟨rfl, rfl, rfl, rfl, rfl, rfl⟩

theorem form_logOutcome (s : State) (e : OpenCheck) (o : CheckOutcome) : Form s (s.logOutcome e o) := by
  have watch (t : State) (p : Placement) : Form t (t.watchCheck e p) := by
    unfold State.watchCheck
    split
    · exact Form.refl t
    · exact form_writeWatch t _
  unfold State.logOutcome
  split
  · split
    · exact (form_storeDenial s _).trans (watch _ _)
    · exact watch s _
  · exact watch s _
  · exact watch s _

theorem form_settleCache (s : State) (e : OpenCheck) (o : CheckOutcome) : Form s (s.settleCache e o).1 := by
  unfold State.settleCache
  split
  · split
    · exact form_recordGrant s _ _
    · exact Form.refl s
  · exact Form.refl s

theorem loosens_closeCheck (s : State) (e : OpenCheck) : Loosens s (s.closeCheck e) := by
  unfold State.closeCheck
  dsimp only
  split
  · refine .trans ?_ (sameForm_lowerStale _ _).loosens
    exact ⟨id, id⟩
  · exact ⟨id, id⟩

theorem form_issue (s : State) (e : OpenCheck) (o : CheckOutcome) : Form s (s.issue e o) :=
  (((form_settleCache s e o).trans (form_hand _ _ _)).trans (form_logOutcome _ e o)).settle
    (loosens_closeCheck _ e)

theorem form_revokeExpires (s : State) (e : FenceEntry) : Form s (s.revokeExpires e) :=
  form_settle (Loosens.trans (t := s.updFence e.granule _) (SameForm.loosens ⟨rfl, rfl, rfl, rfl, rfl, rfl⟩)
    (Loosens.foldl _ (fun t l => loosens_faultCore t l _ _ _) _ _))

theorem form_consult (s : State) (e : FenceEntry) : Form s (s.consult e) := by
  refine form_settle (Loosens.trans (t := s.updFence e.granule _)
    (SameForm.loosens ⟨rfl, rfl, rfl, rfl, rfl, rfl⟩) (Loosens.foldl _ (fun t l => ?_) _ _))
  unfold State.sendRevoke
  split
  · exact Loosens.refl t
  · exact (onlyReports_hand t l _).sameForm.loosens

/-! ### The effects of management messages -/

theorem form_queueCommand (s : State) (h : MgmtHeader) (r : RangeArg) (k : StepKind) :
    Form s (s.queueCommand h r k) := by
  unfold State.queueCommand
  split
  · exact form_refuse ..
  · split
    · split
      · exact SameForm.form ⟨rfl, rfl, rfl, rfl, rfl, rfl⟩
      · exact form_hand ..
    · exact form_hand ..

theorem form_openDomain (s : State) (d : DomainNo) : Form s (s.openDomain d).1 := by
  unfold State.openDomain
  split
  · exact Form.refl s
  · split
    · exact Form.refl s
    · exact (form_setDomain s d _).trans (form_setViolation _ _ _)

theorem form_retireDomain (s : State) (d : DomainNo) : Form s (s.retireDomain d).1 := by
  unfold State.retireDomain
  iterate 4 (split; exact Form.refl s)
  exact form_startRetire s d

theorem form_scanRead (s : State) (g : Nat) : Form s (s.scanRead g) := by
  unfold State.scanRead
  split
  · exact SameForm.form ⟨rfl, rfl, rfl, rfl, rfl, rfl⟩
  · unfold State.judgeScan
    split
    · split
      · exact SameForm.form ⟨rfl, rfl, rfl, rfl, rfl, rfl⟩
      · exact form_scannerMoves s
    · exact (sameForm_foundFailure s _ _ _).form.trans (form_scannerMoves _)

theorem form_sweepRead (s : State) (g : Nat) : Form s (s.sweepRead g) := by
  unfold State.sweepRead
  split
  · exact SameForm.form ⟨rfl, rfl, rfl, rfl, rfl, rfl⟩
  · split
    · exact SameForm.form ⟨rfl, rfl, rfl, rfl, rfl, rfl⟩
    · rename_i img _
      have finds : Form s (((s.capture g .sweep img).report .integrity none (some g) none
          (.checks img[15] (checkByte img.toList))).raise .integrityError) := by
        refine .trans (.trans (t := s.capture g .sweep img) ?_ (form_report ..)) (form_raise _ _)
        rw [capture_eq]
        exact SameForm.form ⟨rfl, rfl, rfl, rfl, rfl, rfl⟩
      exact finds.trans (SameForm.form ⟨rfl, rfl, rfl, rfl, rfl, rfl⟩)

theorem form_queueSoftware (s : State) (h : MgmtHeader) (i : Nat) (r : SoftRequest) :
    Form s (s.queueSoftware h i r) := by
  unfold State.queueSoftware
  split
  · exact form_refuse ..
  · split
    · exact form_refuse ..
    · refine .trans ?_ (sameForm_placeSoftRead _).form
      exact SameForm.form ⟨rfl, rfl, rfl, rfl, rfl, rfl⟩

theorem form_headRead (s : State) : Form s s.headRead := by
  have queue (q : List SoftRequest) : Form s { s with store := { s.store with softQueue := q } } :=
    SameForm.form ⟨rfl, rfl, rfl, rfl, rfl, rfl⟩
  have replies (t : State) (r : SoftRequest) (d : TagData) : Form t (t.replySoftware r d) := by
    unfold State.replySoftware
    split
    · exact form_hand ..
    · exact Form.refl _
  unfold State.headRead
  split
  · split
    · refine .trans ?_ (sameForm_placeSoftRead _).form
      exact queue _
    · refine .trans (.trans ?_ (replies _ _ _)) (sameForm_placeSoftRead _).form
      exact queue _
  · exact Form.refl s

theorem form_fetchBlock (s : State) (c : ChannelId) : Form s (s.fetchBlock c) :=
  (onlyChannel_fetchBlock s c).sameForm.form

theorem form_restChannel (s : State) (c : ChannelId) (st : ChannelState) (x : ChainCause) (o : Nat) :
    Form s (s.restChannel c st x o) := (onlyChannel_restChannel s c st x o).sameForm.form

theorem form_chainStartOp (s : State) (a : ChainStartArg) : Form s (s.chainStartOp a).1 := by
  unfold State.chainStartOp
  split
  · iterate 3 (split; exact Form.refl s)
    exact (form_updChan s _ _).trans (form_fetchBlock _ _)
  · exact Form.refl s

theorem form_onChannel (s : State) (b : Byte) (f : ChannelId → State × ControlOutcome)
    (k : ∀ c, Form s (f c).1) : Form s (s.onChannel b f).1 := by
  unfold State.onChannel
  split
  · exact k _
  · exact Form.refl s

theorem form_chainStopOp (s : State) (c : ChannelId) : Form s (s.chainStopOp c).1 := by
  unfold State.chainStopOp
  split
  · exact Form.refl s
  · exact Form.refl s
  all_goals exact (form_updChan s c _).trans (form_settleChannel _ c)

theorem form_chainResumeOp (s : State) (c : ChannelId) : Form s (s.chainResumeOp c).1 := by
  unfold State.chainResumeOp
  split
  · dsimp only
    split
    · dsimp only
      refine .trans ?_ (form_updChan (s.updChan c _) c _)
      exact form_updChan s c _
    · refine .trans ?_ (form_fetchBlock _ c)
      exact form_updChan s c _
  · exact Form.refl s

theorem form_chainCancelOp (s : State) (c : ChannelId) : Form s (s.chainCancelOp c).1 := by
  unfold State.chainCancelOp
  split
  · exact form_restChannel s c .idle .cancelled _
  · exact Form.refl s

theorem form_logAckOp (s : State) (h : MgmtHeader) (q : QueueId) (p : Nat) : Form s (s.logAckOp h q p) := by
  have acks (t : State) (e : s.ackQueue q p = some t) : SameForm s t := by
    cases q <;> obtain ⟨x, -, rfl⟩ := Option.map_eq_some_iff.mp e <;> exact ⟨rfl, rfl, rfl, rfl, rfl, rfl⟩
  unfold State.logAckOp
  split
  · next t e => exact (acks t e).form.trans (form_hand ..)
  · exact (form_raise s _).trans (form_hand ..)

theorem form_clearFlags (s : State) (a b : DomainNo) : Form s (s.clearFlags a b).1 :=
  .of_tables (fun ⟨x, y, z⟩ => ⟨Table.wf_mapListed _ _ _ x, y, z⟩) rfl rfl rfl

theorem form_writeAdmission (s : State) (l : LinkId) (v : Quad) : Form s (s.writeAdmission l v) := by
  have base (f : Link → Link) : Form s (s.updLink l f) := form_updLink s l f
  unfold State.writeAdmission
  dsimp only
  split
  case h_1 | h_2 =>
    split
    · exact (base _).trans (form_updLink ..)
    · exact base _
  case h_3 =>
    split
    · exact base _
    · exact (base _).trans (form_holdLink _ l)
  case h_4 => exact base _

theorem form_cfgReadOp (s : State) (h : MgmtHeader) (p : Param) : Form s (s.cfgReadOp h p) := by
  unfold State.cfgReadOp
  split <;> exact form_hand ..

end Sys2Proof.Machine
end

section
/-! SUPPORT. What every command keeps (`Preserves`): the queue of commands and each invariant of the part. An operation
with its `Keeps` and `Form` lemmas has it at once; the operations that change what `Keeps` speaks of have a lemma of
their own here. One walk over the commands (`exec_preserves`) then serves every invariant. -/

namespace Sys2Proof.Machine

/-- The queue of commands stays, and so does each invariant. A field that is left out holds because the state
is unchanged where its predicate reads. -/
structure Preserves (s t : State) : Prop where
  pending : t.pending = s.pending := by rfl
  memory : s.MemoryOk → t.MemoryOk := by exact id
  tables : s.TablesOk → t.TablesOk := by exact id
  elements : s.ElementsOk → t.ElementsOk := by exact id
  fence : s.FenceOk → t.FenceOk := by exact id
  policy : s.PolicyOk → t.PolicyOk := by exact id
  queues : s.QueuesOk → t.QueuesOk := by exact id
  ranges : s.RangesOk → t.RangesOk := by exact id
  counters : s.CountersOk → t.CountersOk := by exact id
  owned : s.OwnedOk → t.OwnedOk := by exact id
  lists : s.ListsOk → t.ListsOk := by exact id
  commit : s.CommitOk → t.CommitOk := by exact id
  directory : s.DirectoryOk → t.DirectoryOk := by exact id

theorem Preserves.refl (s : State) : Preserves s s := {}

theorem Preserves.trans {s t u : State} (a : Preserves s t) (b : Preserves t u) : Preserves s u where
  pending := b.pending.trans a.pending
  memory := b.memory ∘ a.memory
  tables := b.tables ∘ a.tables
  elements := b.elements ∘ a.elements
  fence := b.fence ∘ a.fence
  policy := b.policy ∘ a.policy
  queues := b.queues ∘ a.queues
  ranges := b.ranges ∘ a.ranges
  counters := b.counters ∘ a.counters
  owned := b.owned ∘ a.owned
  lists := b.lists ∘ a.lists
  commit := b.commit ∘ a.commit
  directory := b.directory ∘ a.directory

/-- The fence table stays in its form when entries leave it. -/
theorem Keeps.fenceOk {s t : State} (k : Keeps s t) (h : s.FenceOk) : t.FenceOk := by
  obtain ⟨short, rising⟩ := h
  have len := k.fence.length_le
  simp only [List.length_map] at len
  exact ⟨len.trans short, rising.sublist k.fence⟩

theorem Keeps.rangesOk {s t : State} (k : Keeps s t) (h : s.RangesOk) : t.RangesOk := by
  unfold State.RangesOk at *
  rw [k.geometry, k.revokeTimeout, k.memoryTimeout, k.errorThreshold]
  exact h

/-- The two walks over the shared operations, put together. -/
theorem Preserves.of {s t : State} (k : Keeps s t) (f : Form s t) : Preserves s t where
  pending := k.pending
  memory h := by rw [State.MemoryOk, k.dram]; exact h
  tables := f.tables
  elements h := by rw [State.ElementsOk, k.shadow, k.active]; exact h
  fence := k.fenceOk
  policy h := by rw [State.PolicyOk, k.active, k.capacity]; exact h
  queues := k.queues
  ranges := k.rangesOk
  counters := k.counters
  owned := k.owned
  lists := k.lists
  commit := f.commit
  directory h := (directoryOk_iff t).mpr (k.directory _ ((directoryOk_iff s).mp h))

theorem preserves_hand (s : State) (l : LinkId) (m : OutMsg) : Preserves s (s.hand l m) :=
  .of (keeps_hand s l m) (form_hand s l m)

theorem preserves_raise (s : State) (st : Status) : Preserves s (s.raise st) :=
  .of (keeps_raise s st) (form_raise s st)

theorem preserves_closeEvent (s : State) : Preserves s s.closeEvent :=
  .of (keeps_closeEvent s) (form_closeEvent s)

/-! ### Links -/

/-- A link changes, its counters stay in bounds, and it goes on serving if it did. -/
theorem preserves_updLink (s : State) (l : LinkId) (f : Link → Link)
    (c : ∀ t, ((s.link l).counters.get t).value ≤ 255 → ((f (s.link l)).counters.get t).value ≤ 255)
    (st : (s.link l).state.Serving → (f (s.link l)).state.Serving) : Preserves s (s.updLink l f) where
  counters ok m t := by
    by_cases e : m = l
    · subst e
      rw [State.link_updLink_same]
      exact c t (ok m t)
    · rw [State.link_updLink_ne s _ e]
      exact ok m t
  directory ok := by
    rw [directoryOk_iff] at *
    refine ok.links rfl fun m a => a.imp_right fun b => ?_
    by_cases e : m = l
    · subst e
      rw [State.link_updLink_same]
      exact st b
    · rw [State.link_updLink_ne s _ e]
      exact b

/-- A link changes, but neither its counters nor its state. -/
theorem preserves_updLink_quiet (s : State) (l : LinkId) (f : Link → Link)
    (h : ∀ k, (f k).counters = k.counters ∧ (f k).state = k.state) : Preserves s (s.updLink l f) :=
  .of (keeps_updLink s l f h) (form_updLink s l f)

/-- START takes links to ACTIVE (R192). -/
theorem link_startPart (s : State) (l : LinkId) : s.startPart.link l = (s.link l).atStart := by
  show (s.links.map Link.atStart)[l.val] = _
  rw [Vector.getElem_map]
  rfl

theorem preserves_startPart (s : State) : Preserves s s.startPart where
  counters ok l t := by
    have same : (s.link l).atStart.counters = (s.link l).counters := by
      unfold Link.atStart
      split <;> rfl
    rw [link_startPart, same]
    exact ok l t
  directory ok := by
    rw [directoryOk_iff] at *
    refine ok.links rfl fun l a => a.imp_right fun b => ?_
    rw [link_startPart]
    unfold Link.atStart
    split
    · exact Or.inl rfl
    · exact b

/-! ### Records -/

/-- The tag DRAM takes a record (R15). -/
theorem preserves_dram (s : State) (m : List Host.Cell) (h : Memory.wf s.dram → Memory.wf m) :
    Preserves s { s with dram := m } where
  memory := h

theorem preserves_writeRecord (s : State) (i : Nat) (r : TagRecord) : Preserves s (s.writeRecord i r) :=
  preserves_dram s _ fun h => Memory.wf_writeImage _ _ _ h

/-- Every field of the store controller but the geometry is its own. -/
theorem preserves_store (s : State) (c : StoreState) (h : c.geometry = s.store.geometry) :
    Preserves s { s with store := c } where
  policy ok := by
    unfold State.PolicyOk State.capacity at *
    rw [h]
    exact ok
  ranges ok := by
    unfold State.RangesOk at *
    rw [h]
    exact ok
  owned ok := by
    unfold State.OwnedOk State.capacity at *
    rw [h]
    exact ok

theorem preserves_openChecks (s : State) (cs : List OpenCheck) : Preserves s { s with openChecks := cs } := {}

theorem preserves_updFence (s : State) (g : Nat) (f : FenceEntry → FenceEntry)
    (h : ∀ e, (f e).granule = e.granule) : Preserves s (s.updFence g f) :=
  .of (keeps_updFence s g f h) (SameForm.form ⟨rfl, rfl, rfl, rfl, rfl, rfl⟩)

theorem preserves_fenceWrite (s : State) (e : FenceEntry) : Preserves s (s.fenceWrite e) := by
  unfold State.fenceWrite
  split
  · refine .trans ?_ (preserves_updFence _ _ _ fun _ => rfl)
    exact (preserves_writeRecord s _ _).trans (preserves_openChecks _ _)
  · exact Preserves.refl s

theorem preserves_finalWrite (s : State) (e : FenceEntry) : Preserves s (s.finalWrite e) := by
  unfold State.finalWrite
  split
  · exact ((((preserves_writeRecord s _ _).trans (.of (keeps_freeGranule _ _) (form_freeGranule _ _))).trans
      (.of (keeps_adjustOwned _ _ _ _) (form_adjustOwned _ _ _ _))).trans
      (.of (keeps_freeFence _ _) (sameForm_freeFence _ _).form)).trans
      (.of (keeps_stepResult _ _ _ _) (form_stepResult _ _ _ _))
  · exact Preserves.refl s

theorem preserves_initWrite (s : State) : Preserves s s.initWrite := by
  have writes (c : StoreState) (h : c.geometry = s.store.geometry) :
      Preserves s { s.writeRecord s.store.initProgress freeRecord with store := c } :=
    (preserves_writeRecord s _ _).trans (preserves_store _ c h)
  unfold State.initWrite
  dsimp only
  split
  · refine .trans ?_ (preserves_raise _ _)
    exact writes _ rfl
  · exact writes _ rfl

/-! ### The fence table -/

/-- The granules of a table into which a new entry is put (R75, log entry 27). -/
theorem mem_insertFence (e x : FenceEntry) (es : List FenceEntry) : x ∈ insertFence e es ↔ x = e ∨ x ∈ es := by
  induction es with
  | nil => simp [insertFence]
  | cons y ys ih =>
    unfold insertFence
    split
    · simp
    · simp only [List.mem_cons, ih]
      tauto

theorem length_insertFence (e : FenceEntry) (es : List FenceEntry) :
    (insertFence e es).length = es.length + 1 := by
  induction es with
  | nil => rfl
  | cons y ys ih =>
    unfold insertFence
    split
    · rfl
    · simp only [List.length_cons, ih]

/-- An entry for a granule that no entry names keeps the table in ascending granule index. -/
theorem rising_insertFence (e : FenceEntry) (es : List FenceEntry)
    (h : (es.map FenceEntry.granule).Pairwise (· < ·)) (new : ∀ x ∈ es, x.granule ≠ e.granule) :
    ((insertFence e es).map FenceEntry.granule).Pairwise (· < ·) := by
  induction es with
  | nil => simp [insertFence]
  | cons y ys ih =>
    simp only [List.map_cons, List.pairwise_cons, List.forall_mem_map] at h
    obtain ⟨below, rest⟩ := h
    have ne := new y List.mem_cons_self
    unfold insertFence
    split
    · next lt =>
      simp only [List.map_cons, List.pairwise_cons, List.forall_mem_map, List.forall_mem_cons]
      exact ⟨⟨lt, fun x m => lt.trans (below x m)⟩, below, rest⟩
    · next ge =>
      simp only [List.map_cons, List.pairwise_cons, List.forall_mem_map]
      refine ⟨fun x m => ?_, ih rest fun x m => new x (List.mem_cons_of_mem _ m)⟩
      rcases (mem_insertFence e x ys).mp m with rfl | m
      · omega
      · exact below x m

/-- No entry of the table names a granule that is not fenced. -/
theorem granule_ne_of_not_fenced (s : State) (g : Nat) (h : s.fenced g = false) : ∀ x ∈ s.fence, x.granule ≠ g := by
  unfold State.fenced State.fenceOf at h
  rw [Option.isSome_eq_false_iff, Option.isNone_iff_eq_none, List.find?_eq_none] at h
  intro x m e
  exact h x m (beq_iff_eq.mpr e)

theorem preserves_allocate (s : State) (src : StepSource) (g : Nat) (kind : StepKind)
    (room : s.fence.length < Config.fenceEntries) (free : s.fenced g = false) :
    Preserves s (s.allocate src g kind) := by
  have takes : Preserves s ({ s with fence := insertFence (newFence g src kind) s.fence } : State) := {
    fence := fun ⟨_, rising⟩ =>
      ⟨(length_insertFence _ _).trans_le room,
        rising_insertFence _ _ rising (granule_ne_of_not_fenced s g free)⟩ }
  unfold State.allocate
  refine .trans (.trans (.trans takes ?_) (.of (keeps_sourceMovesOn _ src) (form_sourceMovesOn _ src))) {}
  exact .of (keeps_placeCommand _ g .read) (SameForm.form ⟨rfl, rfl, rfl, rfl, rfl, rfl⟩)

/-- The step that receives the next entry names a granule that is not fenced (R94, R96). -/
theorem not_fenced_of_chosen (s : State) (src : StepSource) (g : Nat) (kind : StepKind)
    (h : s.chosen = some (src, g, kind)) : s.fenced g = false := by
  unfold State.chosen at h
  obtain ⟨q, -, ready⟩ := List.exists_of_findSome?_eq_some h
  obtain ⟨p, step, e⟩ := Option.map_eq_some_iff.mp ready
  cases e
  unfold State.readyStep at step
  rw [Option.filter_eq_some_iff] at step
  simpa using step.2

/-! ### Commit and START -/

/-- What follows the making active of a validated copy keeps the invariants, when it closes the commit flush. -/
theorem preserves_afterSwitch (s u t : State) (e : Epoch) (cs : List OpenCheck) (n : Nat) (f : LinkSet)
    (valid : s.shadow.validate s.capacity = none)
    (k : Keeps { s with active := s.shadow, epoch := e, openChecks := cs, oldEpochCount := n, flushSet := f
                        phase := .flushing } t)
    (tables : s.TablesOk → t.TablesOk) (commit : u.CommitOpen) (closes : t = u.completeCommit) : Preserves s t where
  pending := k.pending
  memory ok := by rw [State.MemoryOk, k.dram]; exact ok
  tables := tables
  elements := fun ⟨ok, _⟩ => by rw [State.ElementsOk, k.shadow, k.active]; exact ⟨ok, ok⟩
  fence := k.fenceOk
  policy _ := by rw [State.PolicyOk, k.active, k.capacity]; exact valid
  queues := k.queues
  ranges := k.rangesOk
  counters := k.counters
  owned := k.owned
  lists := k.lists
  commit _ := closes ▸ commitOk_completeCommit u commit
  directory ok := (directoryOk_iff _).mpr (k.directory _ ((directoryOk_iff s).mp ok))

/-- The flushes of a commit switch keep the form. -/
theorem form_flushActive (s : State) : Form s s.flushActive := by
  refine Form.foldl _ (fun u l => ?_) allLinks s
  split
  · exact form_flushDue u l
  · exact Form.refl u

/-- The switch makes a validated copy active (R139 to R141). -/
theorem preserves_commitSwitch (s : State) (h : s.shadow.validate s.capacity = none) :
    Preserves s s.commitSwitch := by
  unfold State.commitSwitch
  dsimp only
  generalize s.epoch + 1 = e, s.commitSet = f, s.openChecks.length = n, s.openChecks.map OpenCheck.markOld = cs
  refine preserves_afterSwitch s _ _ _ _ _ _ h ((keeps_flushActive _).trans (keeps_completeCommit _)) ?_ ?_ rfl
  · exact fun ok => tablesOk_completeCommit _ ((form_flushActive _).tables ok)
  · intro idle
    rw [(flushActive_effect _).1] at idle
    exact CommitPhase.noConfusion idle

theorem preserves_commitOp (s : State) : Preserves s s.commitOp.1 := by
  unfold State.commitOp
  iterate 2 (split; exact Preserves.refl s)
  split
  · exact Preserves.refl s
  · next valid =>
    dsimp only
    exact preserves_commitSwitch s valid

theorem preserves_startOp (s : State) (source : SourceId) : Preserves s (s.startOp source).1 := by
  have watches : Preserves s (s.watchTrial source) := by
    refine .of (keeps_watchTrial s source) ?_
    unfold State.watchTrial
    split
    · exact Form.refl s
    · exact form_writeWatch s _
  unfold State.startOp
  iterate 5 (split; exact Preserves.refl s)
  split
  · exact watches.trans (preserves_startPart _)
  · exact watches

/-! ### Parameter writes -/

/-- No tag range of a copy reaches beyond a capacity under which no window does (R10, R140). -/
theorem validate_of_none_beyond (p : PolicyCopy) (m n : Nat) (valid : p.validate m = none)
    (within : (p.windowList.any fun x => x.2.beyond n) = false) : p.validate n = none := by
  have inside : (p.windowList.find? fun x => x.2.beyond n) = none := by
    rw [List.find?_eq_none]
    intro x h b
    rw [List.any_eq_false] at within
    exact within x h b
  unfold PolicyCopy.validate at *
  rw [inside]
  split at valid
  · exact valid
  · split at valid
    · simp at valid
    · exact valid

theorem preserves_takeGeometry (s : State) (g : Nat) (low : 24 ≤ g) (high : g ≤ 28)
    (within : (s.active.windowList.any fun x => x.2.beyond (2 ^ g)) = false) :
    Preserves s (s.takeGeometry g) where
  tables := fun ⟨a, b, c⟩ => ⟨a, Table.wf_mapListed _ _ _ b, c⟩
  policy ok := validate_of_none_beyond s.active s.capacity (2 ^ g) ok within
  ranges := fun ⟨_, rest⟩ => ⟨by simp [State.takeGeometry, low, high], rest⟩
  owned _ p m := by
    obtain ⟨q, -, rfl, -⟩ := Table.mem_mapListed _ _ _ p m
    exact Nat.min_le_right _ _

theorem preserves_writeGeometry (s : State) (v : Quad) : Preserves s (s.writeGeometry v).1 := by
  unfold State.writeGeometry
  iterate 2 (split; exact Preserves.refl s)
  split
  · exact Preserves.refl s
  · next within =>
    split
    · exact Preserves.refl s
    · refine preserves_takeGeometry s _ ?_ ?_ (Bool.eq_false_iff.mpr within)
      · exact Nat.le_min.mpr ⟨Nat.le_max_right _ _, by decide⟩
      · exact Nat.min_le_right _ _

theorem queueOk_emptied {α : Type} (q : ReportQueue α) (n : Nat) : QueueOk { q.emptied with size := n } :=
  ⟨Nat.zero_le n, Or.inr rfl⟩

theorem preserves_writeQueueSize (s : State) (q : QueueId) (v : Quad) : Preserves s (s.writeQueueSize q v) where
  pending := by cases q <;> rfl
  tables ok := by cases q <;> exact ok
  queues ok := by
    obtain ⟨-, -, sum⟩ := ok
    cases q with
    | q0 =>
      refine ⟨queueOk_emptied s.reports.q0 _, queueOk_emptied s.reports.q1 _, ?_⟩
      show min v.toNat 4096 + min s.reports.q1.size (4096 - min v.toNat 4096) ≤ 4096
      omega
    | q1 =>
      refine ⟨queueOk_emptied s.reports.q0 _, queueOk_emptied s.reports.q1 _, ?_⟩
      show s.reports.q0.size + min v.toNat (4096 - s.reports.q0.size) ≤ 4096
      have : s.reports.q0.size + s.reports.q1.size ≤ 4096 := sum
      omega
  memory ok := by cases q <;> exact ok
  elements ok := by cases q <;> exact ok
  fence ok := by cases q <;> exact ok
  policy ok := by cases q <;> exact ok
  ranges ok := by cases q <;> exact ok
  counters ok := by cases q <;> exact ok
  owned ok := by cases q <;> exact ok
  lists ok := by cases q <;> exact ok
  commit ok := by cases q <;> exact ok
  directory ok := by cases q <;> exact ok

theorem preserves_linkWrite (s : State) (l : Nat) (f : LinkId → State) (h : ∀ i, Preserves s (f i)) :
    Preserves s (s.linkWrite l f).1 := by
  unfold State.linkWrite
  split
  · exact h _
  · exact Preserves.refl s

theorem preserves_writeElement (s : State) (f : ElementField) (e : Nat) (v : Quad) :
    Preserves s (s.writeElement f e v) where
  elements := fun ⟨a, b⟩ => ⟨Table.wf_set _ _ _ _ a, b⟩

theorem preserves_shadow (s : State) (p : PolicyCopy) (h : p.elements = s.shadow.elements) :
    Preserves s { s with shadow := p } where
  elements := fun ⟨a, b⟩ => ⟨h ▸ a, b⟩

/-- A report queue's mode or watermark is written. -/
theorem preserves_queues (s : State) (a : ReportQueue DenialRecord) (b : ReportQueue EventRecord)
    (h : s.QueuesOk → ({ s with reports := { s.reports with q0 := a, q1 := b } } : State).QueuesOk) :
    Preserves s { s with reports := { s.reports with q0 := a, q1 := b } } where
  queues := h

theorem preserves_timeouts (s : State) (e r m : Nat) (h : s.RangesOk →
      1 ≤ r ∧ r ≤ 1023 ∧ 1 ≤ m ∧ m ≤ 255 ∧ 1 ≤ e ∧ e ≤ 255) :
    Preserves s { s with errorThreshold := e, revokeTimeout := r, memoryTimeout := m } where
  ranges ok := ⟨ok.1, h ok⟩

theorem clamp_bounds (lo hi v : Nat) (h : lo ≤ hi) : lo ≤ clamp lo hi v ∧ clamp lo hi v ≤ hi := by
  unfold clamp
  omega

theorem preserves_sweep (s : State) (w : SweepState) (h : w.requests = s.sweep.requests) :
    Preserves s { s with sweep := w } where
  lists ok := by
    unfold State.ListsOk at *
    rw [h]
    exact ok

theorem preserves_writeParam (s : State) (p : Param) (v : Quad) : Preserves s (s.writeParam p v).1 := by
  have quiet (l : Nat) (f : Link → Link) (h : ∀ k, (f k).counters = k.counters ∧ (f k).state = k.state) :
      Preserves s (s.linkWrite l fun i => s.updLink i f).1 :=
    preserves_linkWrite s l _ fun i => preserves_updLink_quiet s i f h
  unfold State.writeParam
  split
  · exact preserves_writeGeometry s v
  · split
    · exact preserves_shadow s _ rfl
    · exact Preserves.refl s
  · exact preserves_shadow s _ rfl
  · split
    · exact preserves_writeElement s _ _ v
    · exact Preserves.refl s
  · exact preserves_linkWrite s _ _ fun i => preserves_shadow s _ rfl
  · exact preserves_linkWrite s _ _ fun i => .of (keeps_writeAdmission s i v) (form_writeAdmission s i v)
  · exact quiet _ _ fun _ => ⟨rfl, rfl⟩
  · exact quiet _ _ fun _ => ⟨rfl, rfl⟩
  · refine preserves_timeouts s _ _ _ fun ⟨_, r1, r2, m1, m2, _⟩ => ⟨r1, r2, m1, m2, ?_⟩
    exact clamp_bounds 1 255 _ (by decide)
  · exact quiet _ _ fun _ => ⟨rfl, rfl⟩
  · exact quiet _ _ fun _ => ⟨rfl, rfl⟩
  · exact preserves_linkWrite s _ _ fun i => .of (keeps_writeCounter s i _) (form_updLink s i _)
  · refine preserves_timeouts s _ _ _ fun ⟨_, _, _, rest⟩ => ?_
    obtain ⟨a, b⟩ := clamp_bounds 1 1023 v.toNat (by decide)
    exact ⟨a, b, rest⟩
  · refine preserves_timeouts s _ _ _ fun ⟨_, r1, r2, _, _, rest⟩ => ?_
    obtain ⟨a, b⟩ := clamp_bounds 1 255 v.toNat (by decide)
    exact ⟨r1, r2, a, b, rest⟩
  · exact preserves_writeQueueSize s _ v
  · next q => cases q <;> exact preserves_queues s _ _ id
  · next q => cases q <;> exact preserves_queues s _ _ id
  · exact .of (keeps_writeEnable s v) (SameForm.form ⟨rfl, rfl, rfl, rfl, rfl, rfl⟩)
  · exact .of (keeps_reports s _ id) (SameForm.form ⟨rfl, rfl, rfl, rfl, rfl, rfl⟩)
  · next q =>
    refine .of (keeps_writePacer s q v) ?_
    cases q <;> exact SameForm.form ⟨rfl, rfl, rfl, rfl, rfl, rfl⟩
  · exact preserves_sweep s _ rfl
  · exact preserves_sweep s _ rfl
  · exact Preserves.refl s

theorem preserves_replyWrite (s : State) (h : MgmtHeader) (p : Param) (r : State × CfgOutcome)
    (k : Preserves s r.1) : Preserves s (replyWrite h p r) := k.trans (preserves_hand _ _ _)

end Sys2Proof.Machine
end

section
/-! SUPPORT. The walk over the commands, and the invariants it serves: every step keeps the sparse tables, the fence
table, the active policy, the bounds, the commit phase and the Grant Directory, and no command changes the queue. -/

namespace Sys2Proof.Machine

/-! ### Frames -/

theorem preserves_authority (s : State) (h : MgmtHeader) : Preserves s (s.authority h).1 :=
  .of (keeps_authority s h) (form_authority s h)

theorem preserves_refuseTag (s : State) (l : LinkId) (k : TagKind) (t : Nat) (r : RefuseReason) :
    Preserves s (s.refuseTag l k t r) := .of (keeps_refuseTag s l k t r) (form_refuseTag s l k t r)

/-- A management message whose effect keeps the invariants keeps them in every stage. -/
theorem preserves_takeManaged (s : State) (h : MgmtHeader) (f : State → State) (k : ∀ t, Preserves t (f t)) :
    Preserves s (s.takeManaged h f) := by
  have serves : Preserves s (if 15 < h.tag then s.refuseTag h.link .management h.tag .malformed
      else if s.tagOutstanding h.link h.tag then s.refuseTag h.link .management h.tag .overLimit
      else if s.isActive h.link then
        match s.authority h with
        | (t, true) => f t
        | (t, false) => t
      else s.refuse h.link .management h.tag .notAdmitted) := by
    iterate 2 (split; exact preserves_refuseTag s ..)
    split
    · have a := preserves_authority s h
      split
      · next t e =>
        rw [e] at a
        exact a.trans (k t)
      · next t e =>
        rw [e] at a
        exact a
    · exact preserves_hand s _ _
  unfold State.takeManaged
  split
  · exact .of (keeps_countError ..) (form_countError ..)
  · exact serves
  · exact serves
  · exact serves
  all_goals exact Preserves.refl s

theorem preserves_takeControl (s : State) (h : MgmtHeader) (f : State → State × ControlOutcome)
    (k : ∀ t, Preserves t (f t).1) : Preserves s (s.takeControl h f) :=
  preserves_takeManaged s h _ fun t => (k t).trans (preserves_hand _ _ _)

theorem preserves_takeTagcmd (s : State) (h : MgmtHeader) (r : RangeArg) (k : StepKind) :
    Preserves s (s.takeTagcmd h r k) :=
  preserves_takeManaged s h _ fun t => .of (keeps_queueCommand t h r k) (form_queueCommand t h r k)

/-- The taking of a frame, of whatever command, keeps the invariants. -/
theorem preserves_takeFrame (s : State) (c : Instr) : Preserves s (s.takeFrame c) := by
  cases c with
  | announce l m => exact .of (keeps_takeAnnounce s l m) (form_takeAnnounce s l m)
  | frameRejected l w => exact .of (keeps_takeRejected s l w) (form_takeRejected s l w)
  | check l m => exact .of (keeps_takeCheck s l m) (form_takeCheck s l m)
  | drop l g => exact .of (keeps_takeDrop s l g) (form_takeDrop s l g)
  | revokeAck l g n => exact .of (keeps_takeRevokeAck s l g n) (form_takeRevokeAck s l g n)
  | flushAck l => exact .of (keeps_takeFlushAck s l) (form_takeFlushAck s l)
  | memData l t d => exact .of (keeps_takeMemData s l t d) (form_takeMemData s l t d)
  | memDone l t => exact .of (keeps_takeMemDone s l t) (form_takeMemDone s l t)
  | assign h r d p n => exact preserves_takeTagcmd s h r _
  | release h r d => exact preserves_takeTagcmd s h r _
  | share h r d e q => exact preserves_takeTagcmd s h r _
  | unshare h r d e => exact preserves_takeTagcmd s h r _
  | transfer h r d e => exact preserves_takeTagcmd s h r _
  | setAttr h r d p n => exact preserves_takeTagcmd s h r _
  | rebuild h r x => exact preserves_takeTagcmd s h r _
  | commit h => exact preserves_takeControl s h _ preserves_commitOp
  | tableInit h =>
    refine preserves_takeControl s h _ fun t => .of (keeps_startInit t) ?_
    unfold State.startInit
    iterate 3 (split; exact Form.refl t)
    exact SameForm.form ⟨rfl, rfl, rfl, rfl, rfl, rfl⟩
  | start h => exact preserves_takeControl s h _ fun t => preserves_startOp t _
  | domainOpen h d => exact preserves_takeControl s h _ fun t => .of (keeps_openDomain t d) (form_openDomain t d)
  | domainRetire h d =>
    exact preserves_takeControl s h _ fun t => .of (keeps_retireDomain t d) (form_retireDomain t d)
  | chainStart h a => exact preserves_takeControl s h _ fun t => .of (keeps_chainStartOp t a) (form_chainStartOp t a)
  | chainStop h b =>
    exact preserves_takeControl s h _ fun t => .of (keeps_onChannel t b _ (keeps_chainStopOp t))
      (form_onChannel t b _ (form_chainStopOp t))
  | chainResume h b =>
    exact preserves_takeControl s h _ fun t => .of (keeps_onChannel t b _ (keeps_chainResumeOp t))
      (form_onChannel t b _ (form_chainResumeOp t))
  | chainCancel h b =>
    exact preserves_takeControl s h _ fun t => .of (keeps_onChannel t b _ (keeps_chainCancelOp t))
      (form_onChannel t b _ (form_chainCancelOp t))
  | chainStatus h b =>
    exact preserves_takeControl s h _ fun t => .of (keeps_onChannel t b _ (keeps_chainStatusOp t))
      (form_onChannel t b _ fun c => form_updChan t c fun k => { k with termination := none })
  | captureClear h => exact preserves_takeControl s h _ fun t => preserves_sweep t _ rfl
  | flagsClear h a b => exact preserves_takeControl s h _ fun t => .of (keeps_clearFlags t a b) (form_clearFlags t a b)
  | notifyClear h n =>
    exact preserves_takeControl s h _ fun t => .of (keeps_clearStatuses t n)
      (SameForm.form ⟨rfl, rfl, rfl, rfl, rfl, rfl⟩)
  | logRead h q p n => exact preserves_takeManaged s h _ fun t => preserves_hand t _ _
  | logAck h q p => exact preserves_takeManaged s h _ fun t => .of (keeps_logAckOp t h q p) (form_logAckOp t h q p)
  | tagRead h i n =>
    exact preserves_takeManaged s h _ fun t => .of (keeps_queueSoftware t h i _) (form_queueSoftware t h i _)
  | tagScan h i w o =>
    exact preserves_takeManaged s h _ fun t => .of (keeps_queueSoftware t h i _) (form_queueSoftware t h i _)
  | cfgWrite h p v => exact preserves_takeManaged s h _ fun t => preserves_replyWrite t h p _ (preserves_writeParam t p v)
  | storeGeometry h v => exact preserves_takeManaged s h _ fun t => preserves_replyWrite t h _ _ (preserves_writeGeometry t v)
  | admission h l v =>
    exact preserves_takeManaged s h _ fun t => preserves_replyWrite t h _ _ (preserves_writeParam t (.admission l) v)
  | errorCounter h l y v =>
    exact preserves_takeManaged s h _ fun t => preserves_replyWrite t h _ _ (preserves_writeParam t (.errorCounter l y) v)
  | queueSizeWrite h q v =>
    exact preserves_takeManaged s h _ fun t => preserves_replyWrite t h _ _ (preserves_writeQueueSize t q v)
  | notifyEnable h v =>
    exact preserves_takeManaged s h _ fun t => preserves_replyWrite t h _ _ (preserves_writeParam t .notifyEnable v)
  | pacerParameterWrite h p v =>
    exact preserves_takeManaged s h _ fun t => preserves_replyWrite t h _ _ (preserves_writeParam t (.pacer p) v)
  | sweepEnable h v =>
    exact preserves_takeManaged s h _ fun t => preserves_replyWrite t h _ _ (preserves_writeParam t .sweepEnable v)
  | cfgRead h p => exact preserves_takeManaged s h _ fun t => .of (keeps_cfgReadOp t h p) (form_cfgReadOp t h p)
  | _ => exact Preserves.refl s

theorem preserves_deliver (s : State) (l : LinkId) (c : Instr) (take : State → State)
    (k : Preserves s (take s)) : Preserves s (s.deliver l c take) := by
  unfold State.deliver
  split
  · split
    · exact preserves_updLink_quiet s l _ fun _ => ⟨rfl, rfl⟩
    · exact k.trans (preserves_closeEvent _)
  · exact Preserves.refl s

theorem preserves_setHeld (s : State) (l : LinkId) (fs : List Instr) : Preserves s (s.setHeld l fs) :=
  preserves_updLink_quiet s l _ fun _ => ⟨rfl, rfl⟩

theorem preserves_drainHeld (l : LinkId) (fs : List Instr) (s : State) : Preserves s (drainHeld l fs s) := by
  induction fs generalizing s with
  | nil => exact preserves_setHeld s l []
  | cons f rest ih =>
    unfold drainHeld
    split
    · split
      · exact preserves_setHeld s l _
      · exact ((preserves_takeFrame s f).trans (preserves_closeEvent _)).trans (ih _)
    · exact Preserves.refl s

/-! ### Answers -/

/-- Whatever next state an outcome gives, it keeps the invariants of `s`. -/
def Answers (s : State) (o : Host.Outcome State Fault Refusal) : Prop := ∀ t, o = .next t → Preserves s t

theorem Answers.next {s t : State} (h : Preserves s t) : Answers s (.next t) := by
  intro u e
  cases e
  exact h

/-- An event that ends with its NOTIFY. -/
theorem Answers.event {s t : State} (h : Preserves s t) : Answers s (.next t.closeEvent) :=
  .next (h.trans (preserves_closeEvent t))

theorem answers_frame (c : Instr) (l : LinkId) (s : State) (h : frameLink c = some l) : Answers s (exec c s) := by
  rw [exec_frame c l s h]
  exact .next (preserves_deliver s l c _ (preserves_takeFrame s c))

theorem answers_onGrant (s : State) (c : ArbClass) (f : State → Host.Outcome State Fault Refusal)
    (h : Answers s (f (s.countGrant c))) : Answers s (s.onGrant c f) := by
  unfold State.onGrant
  split
  · exact h
  · exact .next (Preserves.refl s)

theorem preserves_countGrant (s : State) (c : ArbClass) : Preserves s (s.countGrant c) :=
  .of (keeps_countGrant s c) (SameForm.form ⟨rfl, rfl, rfl, rfl, rfl, rfl⟩)

theorem answers_onRecord (s t : State) (i : Nat) (u : State) (h : Preserves s u) :
    Answers s (t.onRecord i u.closeEvent) := by
  unfold State.onRecord
  split
  · exact .event h
  · intro v e
    cases e

theorem answers_onCommand (s : State) (a : StepAccess) (f : State → FenceEntry → State)
    (h : ∀ t e, Preserves t (f t e)) : Answers s (s.onCommand a f) := by
  have pop : Preserves s (s.countGrant .command).popCommand :=
    (preserves_countGrant s _).trans (.of (keeps_popCommand _) (SameForm.form ⟨rfl, rfl, rfl, rfl, rfl, rfl⟩))
  unfold State.onCommand
  split
  · refine answers_onGrant s _ _ ?_
    split
    · exact answers_onRecord s _ _ _ (pop.trans (h _ _))
    · exact .next pop
  · exact .next (Preserves.refl s)

/-! ### Resets -/

/-- A directory with no entry is in order. -/
theorem directoryOk_of_empty (s : State) (h : s.directory = []) : s.DirectoryOk := by
  have free (w : Nat) : s.dirWay w = none := by
    rw [State.dirWay, h]
    rfl
  unfold State.DirectoryOk
  simp [h, free, Table.wf]

/-- The state after a power-on reset meets every invariant, whichever link leads and whatever commands wait. -/
theorem powerOn_invariants (lead : LinkId) (rest : List Instr) (t : State)
    (h : t = { State.powerOn lead with pending := rest }) :
    t.MemoryOk ∧ t.TablesOk ∧ t.FenceOk ∧ t.PolicyOk ∧ t.QueuesOk ∧ t.RangesOk ∧ t.CountersOk ∧ t.OwnedOk ∧
      t.ListsOk ∧ t.CommitOk ∧ t.Between ∧ t.ElementsOk ∧ t.DirectoryOk := by
  subst h
  refine ⟨Memory.wf_nil, ?tables, ⟨Nat.zero_le _, List.Pairwise.nil⟩, ?policy,
    ⟨⟨Nat.zero_le _, Or.inr rfl⟩, ⟨Nat.zero_le _, Or.inr rfl⟩, Nat.le_refl _⟩, ?ranges, ?counters,
    fun p m => absurd m List.not_mem_nil, ⟨Nat.zero_le _, Nat.zero_le _, List.nodup_nil⟩, rfl, rfl, ?elements,
    directoryOk_of_empty _ rfl⟩
  case tables => simp [State.TablesOk, State.powerOn, ReportState.reset, Table.wf]
  case elements => simp [State.ElementsOk, State.powerOn, PolicyCopy.reset, Table.wf]
  case policy =>
    show PolicyCopy.reset.validate 0 = none
    decide
  case ranges => simp [State.RangesOk, State.powerOn, StoreState.reset]
  case counters =>
    intro l t
    have k : ({ State.powerOn lead with pending := rest } : State).link l = Link.reset := Vector.getElem_replicate _
    rw [k]
    cases t <;> exact Nat.zero_le _

theorem preserves_powerOn (s : State) (lead : LinkId) :
    Preserves s { State.powerOn lead with pending := s.pending } := by
  obtain ⟨memory, tables, fence, policy, queues, ranges, counters, owned, lists, commit, -, elements, directory⟩ :=
    powerOn_invariants lead s.pending _ rfl
  exact {
    memory := fun _ => memory, tables := fun _ => tables, fence := fun _ => fence, policy := fun _ => policy
    queues := fun _ => queues, ranges := fun _ => ranges, counters := fun _ => counters, owned := fun _ => owned
    lists := fun _ => lists, commit := fun _ => commit, elements := fun _ => elements
    directory := fun _ => directory }

theorem link_warm (s : State) (lead l : LinkId) : (s.warm lead).link l = (s.link l).warm := by
  show (s.links.map Link.warm)[l.val] = _
  rw [Vector.getElem_map]
  rfl

theorem preserves_warm (s : State) (lead : LinkId) : Preserves s (s.warm lead) where
  tables := fun ⟨a, b, _⟩ => ⟨Table.wf_mapListed _ _ _ a, b, List.Pairwise.nil, fun p m => absurd m List.not_mem_nil⟩
  fence _ := ⟨Nat.zero_le _, List.Pairwise.nil⟩
  queues := fun ⟨_, _, sum⟩ => ⟨⟨Nat.zero_le _, Or.inr rfl⟩, ⟨Nat.zero_le _, Or.inr rfl⟩, sum⟩
  counters _ l t := by
    rw [link_warm]
    cases t <;> exact Nat.zero_le _
  lists _ := ⟨Nat.zero_le _, Nat.zero_le _, List.nodup_nil⟩
  commit _ := rfl
  directory _ := directoryOk_of_empty _ rfl

/-! ### Every command -/

theorem tick_requests (w : SweepState) : w.tick.requests = w.requests := by
  unfold SweepState.tick SweepState.credit
  dsimp only
  split
  · split <;> rfl
  · rfl

theorem preserves_outOfRange (s : State) (e : DirectEntry) (x : DirectEntry) (rest : List DirectEntry)
    (q : s.directQueue = x :: rest) : Preserves s (s.directResult e rest) :=
  .of (keeps_directResult s e rest (by rw [q]; exact Nat.le_refl _)) (form_directResult s e rest)

theorem answers_granuleOutOfRange (s : State) (src : CommandSource) : Answers s (execGranuleOutOfRange src s) := by
  unfold execGranuleOutOfRange
  split
  · split
    · next q =>
      split
      · exact .next (Preserves.refl s)
      · exact .event (preserves_outOfRange s _ _ _ q)
    · exact .next (Preserves.refl s)
  · split
    · split
      · exact .next (Preserves.refl s)
      · exact .event (.of ((keeps_updChan s _ _).trans (keeps_settleChannel _ _))
          ((form_updChan s _ _).trans (form_settleChannel _ _)))
    · exact .next (Preserves.refl s)

theorem answers_recordReadGrant (s : State) : Answers s (execRecordReadGrant s) := by
  have pop (q : List (LinkId × Nat)) : Preserves s { s.countGrant .verdict with
      store := { (s.countGrant .verdict).store with verdictQ := q } } :=
    (preserves_countGrant s _).trans (preserves_store _ _ rfl)
  refine answers_onGrant s _ _ ?_
  split
  · dsimp only
    split
    · split
      · exact answers_onRecord s _ _ _ ((pop _).trans (.of (keeps_readForCheck _ _ _) (form_readForCheck _ _ _)))
      · exact .next (pop _)
    · exact .next (pop _)
  · exact .next (preserves_countGrant s _)

theorem answers_scanningReadGrant (s : State) : Answers s (execScanningReadGrant s) := by
  refine answers_onGrant s _ _ ?_
  split
  · refine answers_onRecord s _ _ _ (.trans ?_ (.of (keeps_scanRead _ _) (form_scanRead _ _)))
    exact (preserves_countGrant s _).trans (preserves_store _ _ rfl)
  · exact .next (preserves_countGrant s _)

theorem answers_sweepReadGrant (s : State) : Answers s (execSweepReadGrant s) := by
  refine answers_onGrant s _ _ ?_
  split
  · refine answers_onRecord s _ _ _ (.trans ?_ (.of (keeps_sweepRead _ _) (form_sweepRead _ _)))
    exact (preserves_countGrant s _).trans (preserves_store _ _ rfl)
  · exact .next (preserves_countGrant s _)

theorem answers_tableInitWriteGrant (s : State) : Answers s (execTableInitWriteGrant s) := by
  unfold execTableInitWriteGrant
  split
  · exact answers_onGrant s _ _ (answers_onRecord s _ _ _ ((preserves_countGrant s _).trans (preserves_initWrite _)))
  · exact .next (Preserves.refl s)

theorem answers_softwareReadGrant (s : State) : Answers s (execSoftwareReadGrant s) := by
  unfold execSoftwareReadGrant
  split
  · refine answers_onGrant s _ _ ?_
    split
    · have taken : Preserves s { s.countGrant .software with
          store := { (s.countGrant .software).store with softRead := none, softTurn := .initWrite } } :=
        (preserves_countGrant s _).trans (preserves_store _ _ rfl)
      dsimp only
      split
      · exact answers_onRecord s _ _ _ (taken.trans (.of (keeps_headRead _) (form_headRead _)))
      · exact .next (taken.trans (.of (keeps_placeSoftRead _) (sameForm_placeSoftRead _).form))
    · exact .next (preserves_countGrant s _)
  · exact .next (Preserves.refl s)

theorem answers_sweepReadPlacement (s : State) : Answers s (execSweepReadPlacement s) := by
  have places (t : State) : Preserves t t.placeSweepRead := by
    refine .trans (t := { t with sweep := { t.sweep with creditPending := false } }) (preserves_sweep t _ rfl) ?_
    exact preserves_store _ _ rfl
  unfold execSweepReadPlacement
  split
  · split
    · exact .next (preserves_sweep s _ rfl)
    · refine .next (.trans ?_ (places _))
      unfold State.sweepChecked
      split
      · exact Preserves.refl s
      · exact preserves_sweep s _ rfl
  · exact .next (Preserves.refl s)

theorem answers_outboundMessageSent (l : LinkId) (s : State) : Answers s (execOutboundMessageSent l s) := by
  have sent (m : OutMsg) : Preserves s (s.updLink l fun k => k.afterSend m) :=
    preserves_updLink_quiet s l _ fun _ => ⟨rfl, rfl⟩
  unfold execOutboundMessageSent
  split
  · dsimp only
    split
    · exact .next ((sent _).trans (preserves_drainHeld l _ _))
    · exact .next (sent _)
  · exact .next (Preserves.refl s)

theorem answers_linkSignalAppears (l : LinkId) (s : State) : Answers s (execLinkSignalAppears l s) := by
  unfold execLinkSignalAppears
  split
  · next down =>
    refine .next (preserves_updLink s l _ (fun t _ => ?_) fun st => ?_)
    · cases t <;> exact Nat.zero_le _
    · rw [down] at st
      exact absurd st (by simp [LinkState.Serving])
  · exact .next (Preserves.refl s)

theorem answers_alignmentCompletes (l : LinkId) (s : State) : Answers s (execAlignmentCompletes l s) := by
  unfold execAlignmentCompletes
  split
  · next training =>
    refine .next ((preserves_updLink s l _ (fun t h => h) fun st => ?_).trans
      (preserves_updLink_quiet _ l _ fun _ => ⟨rfl, rfl⟩))
    rw [training] at st
    exact absurd st (by simp [LinkState.Serving])
  · exact .next (Preserves.refl s)

/-- An event that happens on a condition, and changes nothing otherwise (log entry 4). -/
theorem answers_if (s t : State) (p : Prop) [Decidable p] (h : p → Preserves s t) :
    Answers s (if p then .next t.closeEvent else .next s) := by
  split
  · next due => exact .event (h due)
  · exact .next (Preserves.refl s)

theorem answers_verdictIssue (l : LinkId) (s : State) : Answers s (execVerdictIssue l s) := by
  unfold execVerdictIssue
  split
  · split
    · exact .event (.of (keeps_issue s _ _) (form_issue s _ _))
    · exact .next (Preserves.refl s)
  · exact .next (Preserves.refl s)

theorem answers_fenceAllocation (s : State) : Answers s (execFenceAllocation s) := by
  unfold execFenceAllocation
  split
  · next room =>
    split
    · next src g kind chosen =>
      exact .event (preserves_allocate s src g kind room (not_fenced_of_chosen s src g kind chosen))
    · exact .next (Preserves.refl s)
  · exact .next (Preserves.refl s)

theorem answers_revokeTimerExpiry (g : Nat) (s : State) : Answers s (execRevokeTimerExpiry g s) := by
  unfold execRevokeTimerExpiry
  split
  · exact answers_if s _ _ fun _ => .of (keeps_revokeExpires s _) (form_revokeExpires s _)
  · exact .next (Preserves.refl s)

theorem answers_directoryConsultation (g : Nat) (s : State) : Answers s (execDirectoryConsultation g s) := by
  unfold execDirectoryConsultation
  split
  · exact answers_if s _ _ fun _ => .of (keeps_consult s _) (form_consult s _)
  · exact .next (Preserves.refl s)

/-- Every command keeps the queue and every invariant. -/
theorem exec_preserves (c : Instr) (s : State) : Answers s (exec c s) := by
  cases c with
  | powerOnReset p => exact .next (preserves_powerOn s _)
  | warmReset p => exact .next (preserves_warm s _)
  | timeBaseAdvance => exact .next {}
  | pacerTick =>
    show Answers s (if _ then _ else _)
    split
    · exact .next (preserves_sweep s _ (tick_requests _))
    · exact .next (Preserves.refl s)
  | sweepCredit =>
    show Answers s (if _ then _ else _)
    split
    · exact .next (preserves_sweep s _ (tick_requests _))
    · exact .next (Preserves.refl s)
  | linkSignalAppears l => exact answers_linkSignalAppears l s
  | alignmentCompletes l => exact answers_alignmentCompletes l s
  | linkSignalLoss l => exact .event (.of (keeps_loseSignal s l) (form_loseSignal s l))
  | announceTimerExpiry l =>
    exact answers_if s _ _ fun _ => .of (keeps_faultLink s l _ _) (form_faultLink s l _ _)
  | revokeTimerExpiry g => exact answers_revokeTimerExpiry g s
  | flushTimerExpiry l =>
    exact answers_if s _ _ fun _ => .of (keeps_faultLink s l _ _) (form_faultLink s l _ _)
  | memoryTimerExpiry c =>
    exact answers_if s _ _ fun _ => .of (keeps_memoryTimeoutOf s c) (onlyChannel_memoryTimeoutOf s c).sameForm.form
  | recordReadGrant => exact answers_recordReadGrant s
  | verdictIssue l => exact answers_verdictIssue l s
  | fenceAllocation => exact answers_fenceAllocation s
  | granuleOutOfRange src => exact answers_granuleOutOfRange s src
  | commandReadGrant => exact answers_onCommand s _ _ fun t e => .of (keeps_commandRead t e) (form_commandRead t e)
  | fenceWriteGrant => exact answers_onCommand s _ _ preserves_fenceWrite
  | directoryConsultation g => exact answers_directoryConsultation g s
  | finalWriteGrant => exact answers_onCommand s _ _ preserves_finalWrite
  | scanningReadGrant => exact answers_scanningReadGrant s
  | sweepReadPlacement => exact answers_sweepReadPlacement s
  | sweepReadGrant => exact answers_sweepReadGrant s
  | tableInitWriteGrant => exact answers_tableInitWriteGrant s
  | softwareReadGrant => exact answers_softwareReadGrant s
  | outboundMessageSent l => exact answers_outboundMessageSent l s
  | _ => exact answers_frame _ _ s rfl

/-- Every step keeps every invariant. -/
theorem step_preserves (s t : State) (h : step s = .next t) : Preserves { s with pending := t.pending } t := by
  unfold step at h
  split at h
  · cases h
    exact Preserves.refl s
  · next c rest _ =>
    have k := exec_preserves c _ t h
    rw [k.pending]
    exact k

/-! ### The statements -/

/-- Settles O55: the tag DRAM, the tables and the element lists. -/
theorem stepKeepsTables : Obligations.StepKeepsTables := by
  unfold Obligations.StepKeepsTables
  exact ⟨fun s t m ok h => ⟨(step_preserves s t h).memory m, (step_preserves s t h).tables ok⟩,
    fun s t ok h => (step_preserves s t h).elements ok⟩

/-- Settles O56: every step preserves it, by the walk over the commands. -/
theorem stepKeepsFence : Obligations.StepKeepsFence := by
  unfold Obligations.StepKeepsFence
  exact fun s t ok h => (step_preserves s t h).fence ok

/-- Settles O58: each bound by itself. -/
theorem stepKeepsBounds : Obligations.StepKeepsBounds := by
  unfold Obligations.StepKeepsBounds
  intro s t q r c o l h
  have k := step_preserves s t h
  exact ⟨k.queues q, k.ranges r, k.counters c, k.owned o, k.lists l⟩

/-- Settles O59: every step preserves it, by the walk over the commands. -/
theorem stepKeepsCommitPhase : Obligations.StepKeepsCommitPhase := by
  unfold Obligations.StepKeepsCommitPhase
  exact fun s t ok h => (step_preserves s t h).commit ok

/-- Settles O60: every step preserves it, by the walk over the commands. -/
theorem stepKeepsDirectory : Obligations.StepKeepsDirectory := by
  unfold Obligations.StepKeepsDirectory
  exact fun s t ok h => (step_preserves s t h).directory ok

/-- Settles O2: no command touches the queue, by the walk over the commands. -/
theorem execLeavesTheQueue : Obligations.ExecLeavesTheQueue := by
  unfold Obligations.ExecLeavesTheQueue
  exact fun c s t h => (exec_preserves c s t h).pending

/-- Settles O5: the state after a reset is the one after a power-on reset, with the queue it has. -/
theorem resetMeetsInvariants : Obligations.ResetMeetsInvariants := by
  unfold Obligations.ResetMeetsInvariants
  exact powerOn_invariants 0 [] State.reset rfl

end Sys2Proof.Machine
end

section
/-! SUPPORT. The windows of a policy copy in the order of their numbers, the first pair that a test joins, and what the
commit validation says of a copy that passes it (R140). -/

namespace Sys2Proof.Machine

/-! ### Numbered lists -/

theorem mem_numbered {α : Type} (xs : List α) (n i : Nat) (x : α) :
    (i, x) ∈ numbered n xs ↔ n ≤ i ∧ xs[i - n]? = some x := by
  induction xs generalizing n with
  | nil => simp [numbered]
  | cons y ys ih =>
    simp only [numbered, List.mem_cons, Prod.mk.injEq, ih]
    rcases Nat.lt_trichotomy i n with lt | rfl | gt
    · simp only [show ¬ n ≤ i from by omega, false_and, iff_false]
      omega
    · simp [eq_comm]
    · obtain ⟨k, rfl⟩ : ∃ k, i = n + (k + 1) := ⟨i - n - 1, by omega⟩
      have e : n + (k + 1) - (n + 1) = k := by omega
      have f : n + (k + 1) - n = k + 1 := by omega
      rw [e, f, List.getElem?_cons_succ]
      constructor
      · rintro (⟨h, -⟩ | ⟨-, h⟩)
        · omega
        · exact ⟨by omega, h⟩
      · rintro ⟨-, h⟩
        exact Or.inr ⟨by omega, h⟩

theorem numbered_rising {α : Type} (xs : List α) (n : Nat) :
    (numbered n xs).Pairwise fun x y => x.1 < y.1 := by
  induction xs generalizing n with
  | nil => exact List.Pairwise.nil
  | cons y ys ih =>
    refine List.Pairwise.cons (fun x m => ?_) (ih (n + 1))
    exact ((mem_numbered ys (n + 1) x.1 x.2).mp m).1

/-- In a list of rising numbers, an entry found is the one of lowest number with the property. -/
theorem find_rising {α : Type} (l : List (Nat × α)) (p : Nat × α → Bool) (x : Nat × α)
    (s : l.Pairwise fun x y => x.1 < y.1) (h : l.find? p = some x) :
    x ∈ l ∧ p x = true ∧ ∀ y ∈ l, y.1 < x.1 → p y = false := by
  obtain ⟨px, before, after, rfl, fails⟩ := List.find?_eq_some_iff_append.mp h
  refine ⟨by simp, px, fun y m lt => ?_⟩
  rcases List.mem_append.mp m with b | a
  · exact Bool.eq_false_iff.mpr fun q => by simpa [q] using fails y b
  · rw [List.pairwise_append, List.pairwise_cons] at s
    rcases List.mem_cons.mp a with rfl | a
    · exact absurd lt (Nat.lt_irrefl _)
    · exact absurd (s.2.1.1 y a) (by omega)

/-- In a list of rising numbers, the entry of lowest number with a property is the one found. -/
theorem find_of_lowest {α : Type} (l : List (Nat × α)) (p : Nat × α → Bool) (x : Nat × α)
    (s : l.Pairwise fun x y => x.1 < y.1) (m : x ∈ l) (px : p x = true)
    (low : ∀ y ∈ l, y.1 < x.1 → p y = false) : l.find? p = some x := by
  obtain ⟨before, after, rfl⟩ := List.append_of_mem m
  refine List.find?_eq_some_iff_append.mpr ⟨px, before, after, rfl, fun y b => ?_⟩
  rw [List.pairwise_append] at s
  rw [low y (List.mem_append_left _ b) (s.2.2 y b x List.mem_cons_self)]
  rfl

/-! ### The windows of a copy -/

theorem mem_windowList (p : PolicyCopy) (n : Nat) (w : Window) :
    (n, w) ∈ p.windowList ↔ ∃ i : Fin 16, i.val = n ∧ p.windows[i] = w := by
  unfold PolicyCopy.windowList
  rw [mem_numbered, List.getElem?_eq_some_iff]
  constructor
  · rintro ⟨-, h, e⟩
    have lt : n < 16 := by simpa using h
    exact ⟨⟨n, lt⟩, rfl, by simpa using e⟩
  · rintro ⟨i, rfl, e⟩
    exact ⟨Nat.zero_le _, by simp, by simpa using e⟩

theorem windowList_rising (p : PolicyCopy) : p.windowList.Pairwise fun x y => x.1 < y.1 := numbered_rising _ 0

/-! ### The first pair that a test joins (R140) -/

/-- With no pair joined, a test fails on every two entries in their order. -/
theorem firstPair_none (bad : Window → Window → Bool) (l : List (Nat × Window)) (h : firstPair bad l = none) :
    l.Pairwise fun x y => bad x.2 y.2 = false := by
  induction l with
  | nil => exact List.Pairwise.nil
  | cons x rest ih =>
    unfold firstPair at h
    split at h
    · simp at h
    · next none_ =>
      refine List.Pairwise.cons (fun y m => ?_) (ih h)
      simpa using List.find?_eq_none.mp none_ y m

theorem firstPair_none_of (bad : Window → Window → Bool) (l : List (Nat × Window))
    (h : l.Pairwise fun x y => bad x.2 y.2 = false) : firstPair bad l = none := by
  induction l with
  | nil => rfl
  | cons x rest ih =>
    obtain ⟨head, tail⟩ := List.pairwise_cons.mp h
    have none_ : rest.find? (fun y => bad x.2 y.2) = none :=
      List.find?_eq_none.mpr fun y m => by simp [head y m]
    unfold firstPair
    rw [none_]
    exact ih tail

/-- The pair of lowest numbers that a test joins, the first number before the second, is the one found. -/
theorem firstPair_of_lowest (bad : Window → Window → Bool) (l : List (Nat × Window)) (x y : Nat × Window)
    (s : l.Pairwise fun x y => x.1 < y.1) (mx : x ∈ l) (my : y ∈ l) (lt : x.1 < y.1)
    (joined : bad x.2 y.2 = true)
    (low : ∀ v ∈ l, ∀ w ∈ l, v.1 < w.1 → v.1 < x.1 ∨ (v = x ∧ w.1 < y.1) → bad v.2 w.2 = false) :
    firstPair bad l = some (x.1, y.1) := by
  induction l with
  | nil => simp at mx
  | cons z rest ih =>
    obtain ⟨above, rising⟩ := List.pairwise_cons.mp s
    have inRest : y ∈ rest := by
      rcases List.mem_cons.mp my with rfl | m
      · rcases List.mem_cons.mp mx with rfl | m
        · exact absurd lt (Nat.lt_irrefl _)
        · exact absurd (above x m) (by omega)
      · exact m
    unfold firstPair
    rcases List.mem_cons.mp mx with rfl | m
    · have found : rest.find? (fun w => bad x.2 w.2) = some y :=
        find_of_lowest rest _ y rising inRest joined fun w m lt' =>
          low x List.mem_cons_self w (List.mem_cons_of_mem _ m) (above w m) (Or.inr ⟨rfl, lt'⟩)
      rw [found]
    · have none_ : rest.find? (fun w => bad z.2 w.2) = none :=
        List.find?_eq_none.mpr fun w mw => by
          simp [low z List.mem_cons_self w (List.mem_cons_of_mem _ mw) (above w mw) (Or.inl (above x m))]
      rw [none_]
      exact ih rising m inRest fun v mv w mw => low v (List.mem_cons_of_mem _ mv) w (List.mem_cons_of_mem _ mw)

/-! ### A validated copy -/

/-- What each of the four tests finds nothing of in a copy that passes them (R140). -/
theorem validate_none (p : PolicyCopy) (capacity : Nat) (h : p.validate capacity = none) :
    firstPair rangesMeet (p.windowList.filter fun x => x.2.inUse) = none ∧
      p.windowList.find? (fun x => x.2.beyond capacity) = none ∧
      firstPair tagRangesMeet (p.windowList.filter fun x => x.2.walks) = none ∧ p.badElement = none := by
  unfold PolicyCopy.validate at h
  split at h
  · simp at h
  · next meets =>
    split at h
    · simp at h
    · next beyond =>
      split at h
      · simp at h
      · next tags => exact ⟨meets, beyond, tags, by simpa using h⟩

/-- A symmetric test that joins no pair of the windows of a kind fails on every two of them. -/
theorem windows_apart (p : PolicyCopy) (bad : Window → Window → Bool) (kind : Window → Bool)
    (symm : ∀ v w, bad v w = bad w v) (h : firstPair bad (p.windowList.filter fun x => kind x.2) = none)
    (i j : Fin 16) (ne : i ≠ j) (hi : kind p.windows[i] = true) (hj : kind p.windows[j] = true) :
    bad p.windows[i] p.windows[j] = false := by
  have mem (k : Fin 16) (hk : kind p.windows[k] = true) :
      (k.val, p.windows[k]) ∈ p.windowList.filter fun x => kind x.2 :=
    List.mem_filter.mpr ⟨(mem_windowList p _ _).mpr ⟨k, rfl, rfl⟩, hk⟩
  have either : Std.Symm fun x y : Nat × Window => bad x.2 y.2 = false := ⟨fun x y q => (symm _ _).trans q⟩
  exact (firstPair_none bad _ h).forall (mem i hi) (mem j hj) fun e => ne (Fin.ext (congrArg Prod.fst e))

theorem mem_allLinks (l : LinkId) : l ∈ allLinks := by
  revert l
  decide

/-- A domain that a copy with no bad element gives to a pair is at most 1023 (R42). -/
theorem classify_domain_le (p : PolicyCopy) (l : LinkId) (i : SourceId) (d : DomainNo) (good : p.badElement = none)
    (h : (p.classify l i).result = .domain d) : d.toNat ≤ 1023 := by
  unfold PolicyCopy.badElement at good
  split at good
  · simp at good
  · next elements =>
    split at good
    · simp at good
    · next policies =>
      unfold PolicyCopy.classify at h
      split at h
      · next n found =>
        obtain ⟨matched, within⟩ := List.find?_eq_some_iff_append.mp found
        have inside : n ∈ List.range p.length := List.mem_of_find?_eq_some found
        have fine := List.find?_eq_none.mp elements n inside
        dsimp only at h
        split at h
        · next act =>
          cases h
          have on : (p.element n).enabled = true := by
            simp only [Element.matchesPair, Bool.and_eq_true] at matched
            exact matched.1.1
          simpa [Element.bad, on, act] using fine
        · simp at h
      · have fine := List.find?_eq_none.mp policies l (mem_allLinks l)
        dsimp only at h
        split at h
        · next isDomain =>
          cases h
          have above : ¬ 1023 < p.nonMatch[l].domain.toNat := by
            simpa only [NonMatch.bad, isDomain, Bool.true_and, decide_eq_true_eq] using fine
          omega
        · simp at h

/-- Settles O57: the invariant of the walk, and what the four tests say of the copy that passes them. -/
theorem stepKeepsPolicy : Obligations.StepKeepsPolicy := by
  unfold Obligations.StepKeepsPolicy
  refine ⟨fun s t ok h => (step_preserves s t h).policy ok, fun s ok => ?_⟩
  obtain ⟨meets, beyond, tags, good⟩ := validate_none s.active s.capacity ok
  refine ⟨fun i j ne hi hj => ?_, fun i hi => ?_, fun i j ne hi hj => ?_,
    fun l i d h => classify_domain_le s.active l i d good h⟩
  · have apart := windows_apart s.active rangesMeet Window.inUse (fun v w => Bool.and_comm _ _) meets i j ne hi hj
    simp only [rangesMeet, Bool.and_eq_false_iff, decide_eq_false_iff_not] at apart
    omega
  · have inside := List.find?_eq_none.mp beyond (i.val, s.active.windows[i])
      ((mem_windowList _ _ _).mpr ⟨i, rfl, rfl⟩)
    simpa only [Window.beyond, hi, Bool.true_and, decide_eq_true_eq, Nat.not_lt] using inside
  · have apart := windows_apart s.active tagRangesMeet Window.walks (fun v w => Bool.and_comm _ _) tags i j ne hi hj
    simp only [tagRangesMeet, Bool.and_eq_false_iff, decide_eq_false_iff_not] at apart
    omega

end Sys2Proof.Machine
end

section
/-! SUPPORT. The step, the two resets and the time base, the pacer tick, and how a link comes up. -/

namespace Sys2Proof.Machine

/-! ### The step -/

/-- Settles O1: both cases of `step`. -/
theorem stepTakesTheFront : Obligations.StepTakesTheFront := by
  unfold Obligations.StepTakesTheFront
  constructor
  · intro c rest s h
    rw [step, h]
  · intro s h
    rw [step, h]

/-! ### How a link comes up (R174) -/

/-- Settles O7: the guard of each event holds, and its writes to the link are one. -/
theorem linkComesUp : Obligations.LinkComesUp := by
  unfold Obligations.LinkComesUp
  constructor
  · intro s l down
    show execLinkSignalAppears l s = _
    rw [execLinkSignalAppears, if_pos down]
    rfl
  · intro s l training
    show execAlignmentCompletes l s = _
    rw [execAlignmentCompletes, if_pos training, State.startAnnounceTimer, State.updLink, State.updLink,
      State.link_setLink_same]
    refine congrArg Host.Outcome.next ?_
    simp only [State.setLink, Vector.set_set]
    rfl

/-! ### Power-on reset -/

theorem chan_powerOn (lead : LinkId) (c : ChannelId) : (State.powerOn lead).chan c = Channel.reset :=
  Vector.getElem_replicate _

theorem link_powerOn (lead l : LinkId) : (State.powerOn lead).link l = Link.reset := Vector.getElem_replicate _

/-- The lead link's bit (R189, Table 10-5). -/
theorem strapLink_bit (p : BitVec 2) : ((1#4) <<< (strapLink p).val).toNat = 2 ^ p.toNat := by
  revert p
  decide

theorem policy_reset : PolicyCopy.reset.length = 0 ∧
    (∀ w : Fin 16, PolicyCopy.reset.windows[w] = Window.reset) ∧
    (∀ n : Nat, PolicyCopy.reset.element n = Element.reset) ∧
    ∀ l : LinkId, PolicyCopy.reset.nonMatch[l] = NonMatch.reset :=
  ⟨rfl, fun _ => Vector.getElem_replicate _, fun _ => rfl, fun _ => Vector.getElem_replicate _⟩

/-- Settles O4: the values of the state that a power-on reset builds. -/
theorem powerOnResetValues : Obligations.PowerOnResetValues := by
  unfold Obligations.PowerOnResetValues
  intro p s
  refine ⟨_, rfl, rfl, rfl, rfl, rfl, rfl, rfl, rfl, rfl, rfl, rfl, rfl, rfl, rfl, rfl, rfl, rfl, rfl, rfl, rfl, rfl,
    rfl, rfl, strapLink_bit p, ?domains, fun _ => rfl, fun c => chan_powerOn (strapLink p) c,
    fun l => link_powerOn (strapLink p) l, ?policies⟩
  case domains =>
    intro d
    by_cases h : d = 0
    · subst h
      rfl
    · rw [State.domainEntry, if_neg h, if_neg h]
      rfl
  case policies =>
    intro c
    cases c <;> exact policy_reset

/-! ### Warm reset and the time base -/

theorem violation_warm (s : State) (lead : LinkId) (d : Nat) (ok : s.TablesOk) :
    (s.warm lead).violation d = { flag := false, count := (s.violation d).count } := by
  obtain ⟨⟨rising, -⟩, -⟩ := ok
  exact Table.get_mapListed Violation.none (fun _ v => v.warm) _ d rising rfl

theorem chan_warm (s : State) (lead : LinkId) (c : ChannelId) : (s.warm lead).chan c = Channel.reset :=
  Vector.getElem_replicate _

/-- The time base advances and wraps (R190). -/
theorem time_succ (t : Time) : (t + 1).toNat = if t.toNat = 2 ^ 48 - 1 then 0 else t.toNat + 1 := by
  have := t.isLt
  rw [BitVec.toNat_add]
  show (t.toNat + 1) % 2 ^ 48 = _
  split <;> omega

/-- A timer of `n` µs is due `k` µs later from `k = n` on (R190, log entry 5). -/
theorem reached_later (s : State) (n k : Nat) (hn : n < 2 ^ 46) (hk : k < 2 ^ 46) :
    ({ s with timeBase := s.timeBase + BitVec.ofNat 48 k } : State).reached (some (s.expiryAfter n)) =
      decide (n ≤ k) := by
  have apart : (s.timeBase + BitVec.ofNat 48 k - (s.timeBase + BitVec.ofNat 48 n)).toNat =
      (2 ^ 48 - n + k) % 2 ^ 48 := by
    rw [BitVec.toNat_sub, BitVec.toNat_add, BitVec.toNat_add, BitVec.toNat_ofNat, BitVec.toNat_ofNat]
    omega
  show decide ((s.timeBase + BitVec.ofNat 48 k - (s.timeBase + BitVec.ofNat 48 n)).toNat < 2 ^ 47) = _
  rw [apart]
  congr 1
  apply propext
  omega

/-- Settles O3: the state each reset builds, and the arithmetic of the 48-bit time base. -/
theorem resetsAndTimeBase : Obligations.ResetsAndTimeBase := by
  unfold Obligations.ResetsAndTimeBase
  refine ⟨fun p s => ⟨_, rfl, rfl, rfl, rfl⟩, fun p s => ⟨_, rfl, rfl, rfl, rfl⟩,
    fun s => ⟨_, rfl, rfl, time_succ s.timeBase⟩, fun s n => ?_, reached_later, fun s => rfl, fun p s ok => ?_⟩
  · show (s.timeBase + BitVec.ofNat 48 n).toNat = _
    rw [BitVec.toNat_add, BitVec.toNat_ofNat, Nat.add_mod_mod]
  · exact ⟨_, rfl, rfl, rfl, rfl, rfl, rfl, rfl, rfl, rfl, rfl, rfl, rfl, rfl, rfl, rfl, rfl, rfl, rfl, rfl, rfl, rfl,
      fun _ => rfl, fun d => violation_warm s _ d ok, rfl, rfl, rfl, rfl, rfl, rfl, chan_warm s _,
      fun l => link_warm s _ l⟩

/-! ### The pacer (R148) -/

/-- The parts of a tick, in the manual's terms. -/
theorem tick_parts (w : SweepState) :
    w.tick = { w with
      phase := w.tick.phase, residue := w.nextResidue
      creditPending := w.creditPending || w.wraps
      slips := if w.wraps = true ∧ w.creditPending = true ∧ w.slips < 65535 then w.slips + 1 else w.slips } ∧
    w.tick.phase = if w.wraps then w.phaseSum - 4294967296 else w.phaseSum := by
  unfold SweepState.tick SweepState.credit satInc
  cases w.wraps <;> cases w.creditPending <;> simp

/-- The residue sum of a tick is below twice the effective B. -/
theorem tickSum_eq (w : SweepState) : 0 < w.effB ∧ w.effA < w.effB ∧ w.tickSum = w.residue % w.effB + w.effA := by
  have pos : 0 < w.effB := by
    unfold SweepState.effB
    split <;> omega
  refine ⟨pos, ?_, ?_⟩
  · unfold SweepState.effA
    split <;> omega
  · unfold SweepState.tickSum
    split
    · rfl
    · rw [Nat.mod_eq_of_lt (by omega)]

theorem nextResidue_eq (w : SweepState) : w.nextResidue = w.tickSum - w.carry * w.effB := by
  unfold SweepState.nextResidue SweepState.carry
  split <;> omega

theorem nextResidue_lt (w : SweepState) : w.nextResidue < w.effB := by
  obtain ⟨pos, a, sum⟩ := tickSum_eq w
  have r := Nat.mod_lt w.residue pos
  unfold SweepState.nextResidue
  split <;> omega

theorem exec_pacerTick (s : State) (h : s.sweep.enable = true) :
    exec .pacerTick s = .next { s with sweep := s.sweep.tick } := if_pos h

/-- Settles O6: a tick adds to the phase and to the residue, and a wrap of the phase is a credit. -/
theorem pacerTick : Obligations.PacerTick := by
  unfold Obligations.PacerTick
  refine ⟨fun s on => ?_, fun s off => ?_, fun s t on h => ?_, fun s on wraps => ?_⟩
  · obtain ⟨whole, phase⟩ := tick_parts s.sweep
    obtain ⟨-, -, sum⟩ := tickSum_eq s.sweep
    have wraps : s.sweep.wraps = decide (2 ^ 32 ≤ s.sweep.phaseSum) := by
      simp only [SweepState.wraps, Nat.reducePow]
    refine ⟨_, exec_pacerTick s on, ?_, s.sweep.effB, s.sweep.effA, s.sweep.tickSum, s.sweep.carry,
      s.sweep.phaseSum, rfl, rfl, sum, rfl, ?_, rfl, ?_, ?_, ?_⟩
    · dsimp only
      rw [whole]
    · dsimp only
      rw [whole]
      exact nextResidue_eq s.sweep
    · dsimp only
      rw [phase, wraps]
      simp
    · dsimp only
      rw [whole, wraps]
    · dsimp only
      rw [whole, wraps]
      simp
  · exact if_neg (ne_true_of_eq_false off)
  · rw [exec_pacerTick s on] at h
    cases h
    obtain ⟨whole, -⟩ := tick_parts s.sweep
    dsimp only
    rw [whole]
    exact nextResidue_lt s.sweep
  · obtain ⟨whole, phase⟩ := tick_parts s.sweep
    have w : s.sweep.wraps = true := by
      simp only [Nat.reducePow] at wraps
      exact decide_eq_true wraps
    have due : exec .sweepCredit s = .next { s with sweep := s.sweep.tick } :=
      if_pos (by rw [on, w]; rfl)
    refine ⟨due.trans (exec_pacerTick s on).symm, _, due, ?_, ?_⟩
    · dsimp only
      rw [whole, w, Bool.or_true]
    · dsimp only
      rw [phase, w]
      simp only [if_true, Nat.reducePow]

end Sys2Proof.Machine
end

section
/-! SUPPORT. What is read from a policy copy and from a record's bytes: sharer slots, windows and their lookup, the
classification, the form test of R7, the bytes of R135, and the order of the commit validation (R140). -/

namespace Sys2Proof.Machine

/-! ### Sharer slots (R3, R135) -/

theorem slotPresent_iff (w : Half) : slotPresent w = true ↔ 2 ^ 15 ≤ w.toNat := by
  have h := BitVec.msb_eq_decide w
  rw [BitVec.msb_eq_getLsbD_last] at h
  exact (Bool.eq_iff_iff.mp h).trans decide_eq_true_iff

theorem toNat_and_low10 (w : Half) : (w &&& 0x3FF#16).toNat = w.toNat % 2 ^ 10 := by
  rw [BitVec.toNat_and]
  exact Nat.and_two_pow_sub_one_eq_mod w.toNat 10

theorem slotRights_eq (w : Half) : slotRights w = if w.toNat / 2 ^ 14 % 2 = 1 then .readWrite else .read := by
  have h : w.getLsbD 14 = decide (w.toNat / 2 ^ 14 % 2 = 1) := Nat.testBit_eq_decide_div_mod_eq
  unfold slotRights
  rw [h]
  simp only [decide_eq_true_eq]

/-- Bits above a number are added to it. -/
theorem or_high (m a i : Nat) (h : m < 2 ^ i) : m ||| 2 ^ i * a = 2 ^ i * a + m := by
  rw [Nat.or_comm, Nat.two_pow_add_eq_or_of_lt h]

theorem slotOf_toNat (d : DomainNo) : (slotOf d .read).toNat = 2 ^ 15 + d.toNat % 2 ^ 10 ∧
    (slotOf d .readWrite).toNat = 2 ^ 15 + 2 ^ 14 + d.toNat % 2 ^ 10 := by
  have small : d.toNat % 2 ^ 10 < 2 ^ 10 := Nat.mod_lt _ (by decide)
  constructor
  · show (d &&& 0x3FF#16 ||| 0x8000#16 ||| 0#16).toNat = _
    rw [BitVec.or_zero, BitVec.toNat_or, toNat_and_low10]
    exact or_high _ 1 15 (small.trans (by decide))
  · show (d &&& 0x3FF#16 ||| 0x8000#16 ||| 0x4000#16).toNat = _
    rw [BitVec.or_assoc, BitVec.toNat_or, toNat_and_low10]
    exact or_high _ 3 14 (small.trans (by decide))

theorem hasSharer_iff (r : TagRecord) (d : DomainNo) : r.hasSharer d = true ↔
    ∃ w ∈ [r.slot1, r.slot2, r.slot3], slotPresent w = true ∧ slotDomain w = d := by
  rw [TagRecord.hasSharer, List.any_eq_true]
  simp only [slotNames_iff]
  rfl

theorem countedOwner_iff (r : TagRecord) (d : DomainNo) : r.countedOwner = some d ↔
    d = r.owner ∧ (r.state = .owned ∨ r.state = .shared ∨
      (r.state = .fenced ∧ (r.fencedFrom = .owned ∨ r.fencedFrom = .shared))) := by
  unfold TagRecord.countedOwner
  cases r.state <;> cases r.fencedFrom <;> simp [eq_comm]

theorem halfOf_toNat (lo hi : Byte) : (halfOf lo hi).toNat = lo.toNat + 256 * hi.toNat := by
  rw [halfOf, BitVec.toNat_append, Nat.shiftLeft_eq, Nat.mul_comm, ← Nat.two_pow_add_eq_or_of_lt lo.isLt]
  omega

/-! ### Windows (R21 to R26) -/

theorem window_values (w : Window) :
    let k : Nat := match w.granule with | .kib4 => 12 | .mib2 => 21
    w.effBase = w.base.toNat - w.base.toNat % 2 ^ k ∧
    w.effSize = min w.size ((2 ^ 52 - w.effBase) / 2 ^ k) ∧
    w.limit = w.effBase + w.effSize * 2 ^ k ∧
    (w.inUse = true ↔ w.enabled = true ∧ 1 ≤ w.effSize) ∧
    (w.walks = true ↔ w.inUse = true ∧ w.mode = .tagged) ∧
    ∀ a : Nat, w.baseOf a = w.effBase + (a - w.effBase) / 2 ^ k * 2 ^ k ∧
      w.indexOf a = w.tagBase + (a - w.effBase) / 2 ^ k := by
  intro k
  have shift : w.granule.shift = k := by
    show _ = match w.granule with | .kib4 => 12 | .mib2 => 21
    cases w.granule <;> rfl
  refine ⟨?_, ?_, ?_, ?_, ?_, fun a => ⟨?_, ?_⟩⟩
  · rw [Window.effBase, shift, Nat.mul_comm]
    have := Nat.div_add_mod w.base.toNat (2 ^ k)
    omega
  · rw [Window.effSize, shift]
  · rw [Window.limit, shift]
  · simp [Window.inUse]
  · simp [Window.walks]
  · rw [Window.baseOf, shift]
  · rw [Window.indexOf, Window.offsetOf, shift]

theorem holds_iff (w : Window) (a : Nat) :
    w.holds a = true ↔ w.inUse = true ∧ w.effBase ≤ a ∧ a < w.limit := by
  simp [Window.holds, and_assoc]

theorem lookup_some (p : PolicyCopy) (a n : Nat) (w : Window) (h : p.lookup a = some (n, w)) :
    ∃ i : Fin 16, i.val = n ∧ p.windows[i] = w ∧ w.inUse = true ∧ w.effBase ≤ a ∧ a < w.limit := by
  obtain ⟨m, holds, -⟩ := find_rising _ _ _ (windowList_rising p) h
  obtain ⟨i, e, at_⟩ := (mem_windowList p n w).mp m
  exact ⟨i, e, at_, (holds_iff w a).mp holds⟩

theorem lookup_none (p : PolicyCopy) (a : Nat) (h : p.lookup a = none) (i : Fin 16)
    (used : (p.windows[i]).inUse = true) : a < (p.windows[i]).effBase ∨ (p.windows[i]).limit ≤ a := by
  have fails := List.find?_eq_none.mp h (i.val, p.windows[i]) ((mem_windowList p _ _).mpr ⟨i, rfl, rfl⟩)
  simp only [holds_iff] at fails
  by_contra inside
  exact fails ⟨used, by omega, by omega⟩

/-- In a validated copy the window that holds an address is the only one (R25, R28). -/
theorem lookup_valid (p : PolicyCopy) (capacity a : Nat) (i : Fin 16) (ok : p.validate capacity = none)
    (used : (p.windows[i]).inUse = true) (low : (p.windows[i]).effBase ≤ a) (high : a < (p.windows[i]).limit) :
    p.lookup a = some (i.val, p.windows[i]) := by
  obtain ⟨meets, -⟩ := validate_none p capacity ok
  refine find_of_lowest p.windowList _ (i.val, p.windows[i]) (windowList_rising p)
    ((mem_windowList p _ _).mpr ⟨i, rfl, rfl⟩) ((holds_iff _ a).mpr ⟨used, low, high⟩) fun y m lt => ?_
  obtain ⟨j, e, at_⟩ := (mem_windowList p y.1 y.2).mp m
  refine Bool.eq_false_iff.mpr fun held => ?_
  rw [holds_iff, ← at_] at held
  obtain ⟨usedj, lowj, highj⟩ := held
  have ne : i ≠ j := by
    rintro rfl
    exact absurd lt (by simp [e])
  have apart := windows_apart p rangesMeet Window.inUse (fun v w => Bool.and_comm _ _) meets i j ne used usedj
  simp only [rangesMeet, Bool.and_eq_false_iff, decide_eq_false_iff_not] at apart
  omega

/-! ### Classification (R35 to R37) -/

theorem matchesPair_iff (e : Element) (l : LinkId) (i : SourceId) : e.matchesPair l i = true ↔
    e.enabled = true ∧ LinkSet.has e.links l = true ∧ (match e.kind with
      | .exact => i = e.first ∨ i = e.second
      | .range => e.first.toNat ≤ i.toNat ∧ i.toNat ≤ e.second.toNat
      | .masked => i &&& e.second = e.first &&& e.second) := by
  unfold Element.matchesPair Element.accepts
  cases e.kind <;> simp [and_assoc]

/-- The lowest number below a bound with a property is the one found. -/
theorem find_range (p : Nat → Bool) (k n : Nat) (lt : n < k) (pn : p n = true) (low : ∀ m < n, p m = false) :
    (List.range k).find? p = some n := by
  rw [List.find?_range_eq_some]
  exact ⟨pn, by simpa using lt, fun m h => by simp [low m h]⟩

theorem find_range_none (p : Nat → Bool) (k : Nat) (h : ∀ n < k, p n = false) : (List.range k).find? p = none :=
  List.find?_eq_none.mpr fun n m => by simp [h n (List.mem_range.mp m)]

theorem classify_element (p : PolicyCopy) (l : LinkId) (i : SourceId) (n : Nat) (lt : n < p.length)
    (matched : (p.element n).matchesPair l i = true) (low : ∀ m < n, (p.element m).matchesPair l i = false) :
    p.classify l i =
      { result := match (p.element n).action with
          | .domain => .domain (p.element n).domain
          | .block => .block
        decidedBy := .element n
        watched := if (p.element n).watch = true then some n else none } := by
  have found : p.deciding l i = some n := find_range _ _ n lt matched low
  unfold PolicyCopy.classify
  cases action : (p.element n).action <;> simp [found, action]

theorem classify_nonMatch (p : PolicyCopy) (l : LinkId) (i : SourceId)
    (h : ∀ n < p.length, (p.element n).matchesPair l i = false) :
    p.classify l i =
      { result := if (p.nonMatch[l]).isDomain = true then .domain (p.nonMatch[l]).domain else .unclassified
        decidedBy := .nonMatch, watched := none } := by
  have found : p.deciding l i = none := find_range_none _ _ h
  unfold PolicyCopy.classify
  rw [found]

/-! ### The form test (R7) -/

theorem sumTest_iff (img : Image) : sumTest img = true ↔ (img.toList.map BitVec.toNat).sum % 256 = 255 := by
  unfold sumTest
  rw [beq_iff_eq, ← BitVec.toNat_inj, foldl_add_toNat]
  simp

/-- The state that a code names, by number (Table 7-5). -/
theorem stateOfCode_eq (b : Byte) : stateOfCode b = match b.toNat with
    | 0 => some .free | 1 => some .owned | 2 => some .shared | 3 => some .fenced | 4 => some .quarantined
    | _ => none := by
  revert b
  decide

theorem fencedFromOfFlags_eq (b : Byte) : fencedFromOfFlags b = match b.toNat / 16 % 8 with
    | 0 => some .free | 1 => some .owned | 2 => some .shared | 4 => some .quarantined | _ => none := by
  revert b
  decide

/-- A number from its low and high bytes. -/
def halfNat (lo hi : Byte) : Nat := lo.toNat + 256 * hi.toNat

theorem slotPresent_halfOf (lo hi : Byte) : slotPresent (halfOf lo hi) = decide (128 ≤ hi.toNat) := by
  rw [Bool.eq_iff_iff, slotPresent_iff, halfOf_toNat, decide_eq_true_iff]
  have := lo.isLt
  omega

/-- The owner and sharer parts of the form test, in the bytes of the image. -/
theorem ownerTest_iff (img : Image) (st c : RecordState) (f : FencedFrom) :
    ownerTest (fieldsWith img st f) c = true ↔ halfNat img[2] img[3] ≤ 1023 ∧
      (c = .free → halfNat img[2] img[3] = 0) ∧
      (c ≠ .shared → img[5].toNat < 128 ∧ img[7].toNat < 128 ∧ img[9].toNat < 128) := by
  have zero : halfOf img[2] img[3] = 0 ↔ halfNat img[2] img[3] = 0 := by
    rw [← BitVec.toNat_inj, halfOf_toNat]
    rfl
  unfold ownerTest
  simp only [fieldsWith, TagRecord.slots, List.any_cons, List.any_nil, slotPresent_halfOf, halfOf_toNat,
    Bool.and_eq_true, Bool.or_eq_true, decide_eq_true_iff, bne_iff_ne, beq_iff_eq, zero, Bool.not_eq_true',
    Bool.or_eq_false_iff, decide_eq_false_iff_not, Nat.not_le, and_true, and_assoc, halfNat]
  cases c <;> simp

/-- The content of an image, by code: its state, or the prior state of a FENCED record. -/
def contentCode (img : Image) : Nat := if img[0].toNat = 3 then img[1].toNat / 16 % 8 else img[0].toNat

/-- The form test of R7, in the numbers of the image's bytes. -/
def FormOk (img : Image) : Prop :=
  img[0].toNat ≤ 4 ∧
    (contentCode img = 0 ∨ contentCode img = 1 ∨ contentCode img = 2 ∨ contentCode img = 4) ∧
    (contentCode img ≠ 4 → halfNat img[2] img[3] ≤ 1023 ∧ (contentCode img = 0 → halfNat img[2] img[3] = 0) ∧
      (contentCode img ≠ 2 → img[5].toNat < 128 ∧ img[7].toNat < 128 ∧ img[9].toNat < 128))

/-- The state of a record by its code, and what it was fenced from. -/
def stateOf (code : Nat) : RecordState :=
  match code with
  | 0 => .free | 1 => .owned | 2 => .shared | 3 => .fenced | _ => .quarantined

def fencedFromOf (code : Nat) : FencedFrom :=
  match code with
  | 0 => .free | 1 => .owned | 2 => .shared | _ => .quarantined

/-- The fields of an image: those of its content, when the form test passes. -/
theorem formFields_eq (img : Image) :
    (FormOk img → formFields img = some (fieldsWith img (stateOf img[0].toNat)
      (if img[0].toNat = 3 then fencedFromOf (img[1].toNat / 16 % 8) else .free))) ∧
    (¬ FormOk img → formFields img = none) := by
  have tested (st c : RecordState) (f : FencedFrom) (ok : ownerTest (fieldsWith img st f) c = true ↔ FormOk img) :
      (FormOk img → (if ownerTest (fieldsWith img st f) c then some (fieldsWith img st f) else none) =
        some (fieldsWith img st f)) ∧
      (¬ FormOk img → (if ownerTest (fieldsWith img st f) c then some (fieldsWith img st f) else none) = none) :=
    ⟨fun h => if_pos (ok.mpr h), fun h => if_neg fun t => h (ok.mp t)⟩
  unfold formFields
  rw [stateOfCode_eq, fencedFromOfFlags_eq]
  rcases show img[0].toNat = 0 ∨ img[0].toNat = 1 ∨ img[0].toNat = 2 ∨ img[0].toNat = 3 ∨ img[0].toNat = 4 ∨
    5 ≤ img[0].toNat by omega with code | code | code | code | code | code
  · simp only [code]
    refine tested .free .free .free ?_
    simp [ownerTest_iff, FormOk, contentCode, code]
  · simp only [code]
    refine tested .owned .owned .free ?_
    simp [ownerTest_iff, FormOk, contentCode, code]
  · simp only [code]
    refine tested .shared .shared .free ?_
    simp [ownerTest_iff, FormOk, contentCode, code]
  · simp only [code]
    rcases show img[1].toNat / 16 % 8 = 0 ∨ img[1].toNat / 16 % 8 = 1 ∨ img[1].toNat / 16 % 8 = 2 ∨
      img[1].toNat / 16 % 8 = 4 ∨ ¬ (img[1].toNat / 16 % 8 = 0 ∨ img[1].toNat / 16 % 8 = 1 ∨
        img[1].toNat / 16 % 8 = 2 ∨ img[1].toNat / 16 % 8 = 4) by tauto with from_ | from_ | from_ | from_ | from_
    · simp only [from_]
      refine tested .fenced .free .free ?_
      simp [ownerTest_iff, FormOk, contentCode, code, from_]
    · simp only [from_]
      refine tested .fenced .owned .owned ?_
      simp [ownerTest_iff, FormOk, contentCode, code, from_]
    · simp only [from_]
      refine tested .fenced .shared .shared ?_
      simp [ownerTest_iff, FormOk, contentCode, code, from_]
    · simp only [from_]
      refine ⟨fun _ => rfl, fun h => absurd ?_ h⟩
      simp [FormOk, contentCode, code, from_]
    · have bad : ¬ FormOk img := by
        rintro ⟨-, h, -⟩
        rw [contentCode, if_pos code] at h
        exact from_ h
      refine ⟨fun h => absurd h bad, fun _ => ?_⟩
      split
      · next e => split at e <;> simp_all
      all_goals next e => split at e <;> simp_all
  · simp only [code]
    refine ⟨fun _ => rfl, fun h => absurd ?_ h⟩
    simp [FormOk, contentCode, code]
  · have bad : ¬ FormOk img := fun h => absurd h.1 (by omega)
    refine ⟨fun h => absurd h bad, fun _ => ?_⟩
    have none_ : (match img[0].toNat with
        | 0 => some RecordState.free | 1 => some .owned | 2 => some .shared | 3 => some .fenced
        | 4 => some .quarantined | _ => none) = none := by
      split <;> first | omega | rfl
    rw [none_]

/-- The verification of an image: the sum and the form (R7). -/
theorem verify_eq (img : Image) :
    ((img.toList.map BitVec.toNat).sum % 256 = 255 ∧ FormOk img → verify img =
      .verified (fieldsWith img (stateOf img[0].toNat)
        (if img[0].toNat = 3 then fencedFromOf (img[1].toNat / 16 % 8) else .free))) ∧
    (¬ ((img.toList.map BitVec.toNat).sum % 256 = 255 ∧ FormOk img) → verify img = .unverifiable img) := by
  obtain ⟨passes, fails⟩ := formFields_eq img
  unfold verify
  refine ⟨fun ⟨sum, form⟩ => ?_, fun h => ?_⟩
  · rw [if_pos ((sumTest_iff img).mpr sum), passes form]
  · by_cases sum : sumTest img = true
    · rw [if_pos sum, fails fun form => h ⟨(sumTest_iff img).mp sum, form⟩]
    · rw [if_neg sum]

/-- The bytes of a record, one by one (R1, R9). -/
theorem readImage_byte (m : List Host.Cell) (g : Nat) (i : Fin 16) :
    (Memory.readImage m g)[i] = Memory.read m (16 * g + i.val) := by
  revert i
  simp only [Fin.forall_fin_succ]
  exact ⟨rfl, rfl, rfl, rfl, rfl, rfl, rfl, rfl, rfl, rfl, rfl, rfl, rfl, rfl, rfl, rfl, fun i => i.elim0⟩

theorem platformBit (b : Byte) : b.getLsbD 0 = decide (b.toNat % 2 = 1) := by
  revert b
  decide

/-! ### The bytes written for a record (R135) -/

theorem lowByte_eq (h : Half) : lowByte h = BitVec.ofNat 8 (h.toNat % 256) := by
  apply BitVec.eq_of_toNat_eq
  simp [lowByte]

theorem highByte_eq (h : Half) : highByte h = BitVec.ofNat 8 (h.toNat / 256) := by
  apply BitVec.eq_of_toNat_eq
  simp [highByte, Nat.shiftRight_eq_div_pow]

theorem flagByte_toNat (b : Bool) (f : FencedFrom) : (flagByte b f).toNat = (if b = true then 1 else 0) +
    16 * (match f with | .free => 0 | .owned => 1 | .shared => 2 | .quarantined => 4) := by
  cases b <;> cases f <;> rfl

/-- A slot as written keeps its presence, its rights and its domain (R1, R135). -/
theorem slotNormal_present (w : Half) (h : 2 ^ 15 ≤ w.toNat) :
    (slotNormal w).toNat = w.toNat % 2 ^ 10 + 2 ^ 14 * (w.toNat / 2 ^ 14) := by
  have split_ : w &&& 0xC3FF#16 = w &&& 0x3FF#16 ||| (w >>> 14) <<< 14 := by
    apply BitVec.eq_of_getLsbD_eq
    intro i lt
    interval_cases i <;> simp
  have high : ((w >>> 14) <<< 14).toNat = 2 ^ 14 * (w.toNat / 2 ^ 14) := by
    have := w.isLt
    rw [BitVec.toNat_shiftLeft, BitVec.toNat_ushiftRight, Nat.shiftLeft_eq, Nat.shiftRight_eq_div_pow]
    omega
  have small : w.toNat % 2 ^ 10 < 2 ^ 14 := (Nat.mod_lt _ (by decide)).trans (by decide)
  rw [slotNormal, if_pos ((slotPresent_iff w).mpr h), split_, BitVec.toNat_or, toNat_and_low10, high,
    or_high _ _ 14 small]
  omega

theorem slotNormal_absent (w : Half) (h : w.toNat < 2 ^ 15) : slotNormal w = 0 :=
  if_neg fun p => absurd ((slotPresent_iff w).mp p) (by omega)

theorem keepsSlots_iff (r : TagRecord) : r.keepsSlots = true ↔
    r.state = .quarantined ∨ (r.state = .fenced ∧ r.fencedFrom = .quarantined) := by
  unfold TagRecord.keepsSlots
  cases r.state <;> simp

/-- A slot word as the part writes it in a record. -/
def TagRecord.slotWritten (r : TagRecord) (w : Half) : Half := if r.keepsSlots then w else slotNormal w

theorem slotWritten_eq (r : TagRecord) (w : Half) :
    (r.state = .quarantined ∨ (r.state = .fenced ∧ r.fencedFrom = .quarantined) → r.slotWritten w = w) ∧
    (¬ (r.state = .quarantined ∨ (r.state = .fenced ∧ r.fencedFrom = .quarantined)) → w.toNat < 2 ^ 15 →
      r.slotWritten w = 0) ∧
    (¬ (r.state = .quarantined ∨ (r.state = .fenced ∧ r.fencedFrom = .quarantined)) → 2 ^ 15 ≤ w.toNat →
      (r.slotWritten w).toNat = w.toNat % 2 ^ 10 + 2 ^ 14 * (w.toNat / 2 ^ 14)) := by
  rw [← keepsSlots_iff]
  unfold TagRecord.slotWritten
  refine ⟨fun h => if_pos h, fun h lt => ?_, fun h ge => ?_⟩
  · rw [if_neg h, slotNormal_absent w lt]
  · rw [if_neg h, slotNormal_present w ge]

/-! ### Commit validation (R140) -/

theorem meets_iff (v w : Window) (hv : v.inUse = true) (hw : w.inUse = true) : rangesMeet v w = true ↔
    ∃ a : Nat, v.effBase ≤ a ∧ a < v.limit ∧ w.effBase ≤ a ∧ a < w.limit := by
  have size (x : Window) (h : x.inUse = true) : x.effBase < x.limit := by
    have used : 1 ≤ x.effSize := by
      simp only [Window.inUse, Bool.and_eq_true, decide_eq_true_eq] at h
      exact h.2
    have : 0 < x.effSize * 2 ^ x.granule.shift := Nat.mul_pos used (by positivity)
    rw [Window.limit]
    omega
  have := size v hv
  have := size w hw
  simp only [rangesMeet, Bool.and_eq_true, decide_eq_true_eq]
  exact ⟨fun ⟨a, b⟩ => ⟨max v.effBase w.effBase, by omega⟩, fun ⟨a, b, c, d, e⟩ => by omega⟩

theorem walks_inUse (w : Window) (h : w.walks = true) : 1 ≤ w.effSize := by
  simp only [Window.walks, Window.inUse, Bool.and_eq_true, decide_eq_true_eq] at h
  exact h.1.2

theorem tagsMeet_iff (v w : Window) (hv : v.walks = true) (hw : w.walks = true) : tagRangesMeet v w = true ↔
    ∃ x : Nat, v.tagBase ≤ x ∧ x < v.tagBase + v.effSize ∧ w.tagBase ≤ x ∧ x < w.tagBase + w.effSize := by
  have := walks_inUse v hv
  have := walks_inUse w hw
  simp only [tagRangesMeet, Bool.and_eq_true, decide_eq_true_eq]
  exact ⟨fun ⟨a, b⟩ => ⟨max v.tagBase w.tagBase, by omega⟩, fun ⟨a, b, c, d, e⟩ => by omega⟩

theorem mem_windows_of (p : PolicyCopy) (kind : Window → Bool) (i : Fin 16) (h : kind p.windows[i] = true) :
    (i.val, p.windows[i]) ∈ p.windowList.filter fun x => kind x.2 :=
  List.mem_filter.mpr ⟨(mem_windowList p _ _).mpr ⟨i, rfl, rfl⟩, h⟩

theorem of_mem_windows (p : PolicyCopy) (kind : Window → Bool) (x : Nat × Window)
    (m : x ∈ p.windowList.filter fun x => kind x.2) :
    ∃ i : Fin 16, x = (i.val, p.windows[i]) ∧ kind p.windows[i] = true := by
  obtain ⟨listed, k⟩ := List.mem_filter.mp m
  obtain ⟨i, e, at_⟩ := (mem_windowList p x.1 x.2).mp listed
  exact ⟨i, Prod.ext e.symm at_.symm, at_ ▸ k⟩

/-- The lowest pair of windows of a kind that a test joins is the one found. -/
theorem firstPair_windows (p : PolicyCopy) (bad : Window → Window → Bool) (kind : Window → Bool) (i j : Fin 16)
    (lt : i < j) (ki : kind p.windows[i] = true) (kj : kind p.windows[j] = true)
    (joined : bad p.windows[i] p.windows[j] = true)
    (low : ∀ k m : Fin 16, k < m → k < i ∨ (k = i ∧ m < j) → kind p.windows[k] = true →
      kind p.windows[m] = true → bad p.windows[k] p.windows[m] = false) :
    firstPair bad (p.windowList.filter fun x => kind x.2) = some (i.val, j.val) := by
  refine firstPair_of_lowest bad _ (i.val, p.windows[i]) (j.val, p.windows[j])
    ((windowList_rising p).filter _) (mem_windows_of p kind i ki) (mem_windows_of p kind j kj) lt joined ?_
  intro v mv w mw lt' before
  obtain ⟨k, rfl, kk⟩ := of_mem_windows p kind v mv
  obtain ⟨m, rfl, km⟩ := of_mem_windows p kind w mw
  refine low k m lt' (before.imp id fun ⟨e, b⟩ => ⟨Fin.ext (congrArg Prod.fst e), b⟩) kk km

theorem firstPair_windows_none (p : PolicyCopy) (bad : Window → Window → Bool) (kind : Window → Bool)
    (apart : ∀ k m : Fin 16, k < m → kind p.windows[k] = true → kind p.windows[m] = true →
      bad p.windows[k] p.windows[m] = false) :
    firstPair bad (p.windowList.filter fun x => kind x.2) = none := by
  refine firstPair_none_of bad _ (((windowList_rising p).filter _).imp_of_mem fun {v w} mv mw lt => ?_)
  obtain ⟨k, rfl, kk⟩ := of_mem_windows p kind v mv
  obtain ⟨m, rfl, km⟩ := of_mem_windows p kind w mw
  exact apart k m lt kk km

theorem beyond_iff (w : Window) (capacity : Nat) :
    w.beyond capacity = true ↔ w.walks = true ∧ capacity ≤ w.tagBase + w.effSize - 1 := by
  simp only [Window.beyond, Bool.and_eq_true, decide_eq_true_eq]
  refine and_congr_right fun h => ?_
  have := walks_inUse w h
  omega

theorem elementBad_iff (e : Element) :
    e.bad = true ↔ e.enabled = true ∧ e.action = .domain ∧ 1023 < e.domain.toNat := by
  simp [Element.bad, and_assoc]

theorem policyBad_iff (n : NonMatch) : n.bad = true ↔ n.isDomain = true ∧ 1023 < n.domain.toNat := by
  simp [NonMatch.bad]

/-- The first link with a bad non-match policy. -/
theorem find_policy (p : PolicyCopy) (l : LinkId) (bad : (p.nonMatch[l]).bad = true)
    (low : ∀ m < l, (p.nonMatch[m]).bad = false) :
    (allLinks.find? fun l => (p.nonMatch[l]).bad) = some l := by
  have order : allLinks.Pairwise (· < ·) := by decide
  obtain ⟨before, after, e⟩ := List.append_of_mem (mem_allLinks l)
  rw [e] at order ⊢
  rw [List.pairwise_append] at order
  refine List.find?_eq_some_iff_append.mpr ⟨bad, before, after, rfl, fun m h => ?_⟩
  rw [low m (order.2.2 m h l List.mem_cons_self)]
  rfl

/-- Settles O14: the readings above, and the validation test by test. -/
theorem policyAndRecordReading : Obligations.PolicyAndRecordReading := by
  unfold Obligations.PolicyAndRecordReading
  refine ⟨fun w => ⟨slotPresent_iff w, toNat_and_low10 w, slotRights_eq w⟩, slotOf_toNat,
    fun r => ⟨rfl, rfl, hasSharer_iff r, countedOwner_iff r⟩, halfOf_toNat, fun r => rfl, fun img => rfl,
    window_values, fun p a => ⟨lookup_some p a, lookup_none p a⟩,
    fun s a i ok => lookup_valid s.active s.capacity a i ok, matchesPair_iff,
    fun p l i => ⟨fun n lt => classify_element p l i n lt, classify_nonMatch p l i⟩, ?verification, ?writing,
    fun s g r ok => readImage_writeRecord s g r ok, ?validation⟩
  case verification =>
    intro s g img h
    obtain ⟨passes, fails⟩ := verify_eq img
    refine ⟨fun i => ?_, fun bad => ?_, fun ok => ⟨fieldsWith img (stateOf img[0].toNat)
      (if img[0].toNat = 3 then fencedFromOf (img[1].toNat / 16 % 8) else .free), ?_, rfl, rfl, halfOf_toNat _ _, halfOf_toNat _ _,
      halfOf_toNat _ _, halfOf_toNat _ _, halfOf_toNat _ _, platformBit _, halfOf_toNat _ _⟩⟩
    · rw [← h]
      exact readImage_byte s.dram g i
    · rw [State.readRecord, h]
      exact fails bad
    · rw [State.readRecord, h]
      exact passes ok
  case writing =>
    intro r
    refine ⟨?_, ?_, lowByte_eq _, highByte_eq _, ⟨_, _, _, slotWritten_eq r _, slotWritten_eq r _,
      slotWritten_eq r _, lowByte_eq _, highByte_eq _, lowByte_eq _, highByte_eq _, lowByte_eq _, highByte_eq _⟩,
      lowByte_eq _, highByte_eq _, lowByte_eq _, highByte_eq _, rfl, recordImage_check r⟩
    · show stateCode r.state = _
      cases r.state <;> rfl
    · refine (flagByte_toNat r.platformAccess _).trans ?_
      cases r.state <;> rfl
  case validation =>
    intro p capacity
    dsimp only
    have apart (k m : Fin 16) (used : (p.windows[k]).inUse = true) (used' : (p.windows[m]).inUse = true)
        (h : ¬ ((p.windows[k]).inUse = true ∧ (p.windows[m]).inUse = true ∧ ∃ a : Nat,
          (p.windows[k]).effBase ≤ a ∧ a < (p.windows[k]).limit ∧ (p.windows[m]).effBase ≤ a ∧
            a < (p.windows[m]).limit)) : rangesMeet p.windows[k] p.windows[m] = false :=
      Bool.eq_false_iff.mpr fun q => h ⟨used, used', (meets_iff _ _ used used').mp q⟩
    have apartTags (k m : Fin 16) (used : (p.windows[k]).walks = true) (used' : (p.windows[m]).walks = true)
        (h : ¬ ((p.windows[k]).walks = true ∧ (p.windows[m]).walks = true ∧ ∃ x : Nat,
          (p.windows[k]).tagBase ≤ x ∧ x < (p.windows[k]).tagBase + (p.windows[k]).effSize ∧
            (p.windows[m]).tagBase ≤ x ∧ x < (p.windows[m]).tagBase + (p.windows[m]).effSize)) :
        tagRangesMeet p.windows[k] p.windows[m] = false :=
      Bool.eq_false_iff.mpr fun q => h ⟨used, used', (tagsMeet_iff _ _ used used').mp q⟩
    refine ⟨fun i j ⟨lt, ⟨ui, uj, meet⟩, low⟩ => ?_, fun noMeet => ?_⟩
    · have found := firstPair_windows p rangesMeet Window.inUse i j lt ui uj ((meets_iff _ _ ui uj).mpr meet)
        fun k m km before uk um => apart k m uk um (low k m km before)
      rw [PolicyCopy.validate, found]
    have meets := firstPair_windows_none p rangesMeet Window.inUse fun k m km uk um => apart k m uk um (noMeet k m km)
    refine ⟨fun i beyond low => ?_, fun within => ?_⟩
    · have found : p.windowList.find? (fun x => x.2.beyond capacity) = some (i.val, p.windows[i]) := by
        refine find_of_lowest _ _ _ (windowList_rising p) ((mem_windowList p _ _).mpr ⟨i, rfl, rfl⟩)
          ((beyond_iff _ _).mpr beyond) fun y m lt => ?_
        obtain ⟨k, e, at_⟩ := (mem_windowList p y.1 y.2).mp m
        rw [← at_]
        exact Bool.eq_false_iff.mpr fun q => low k (by rw [Fin.lt_def, e]; exact lt) ((beyond_iff _ _).mp q)
      rw [PolicyCopy.validate, meets, found]
    have inside : p.windowList.find? (fun x => x.2.beyond capacity) = none := by
      refine List.find?_eq_none.mpr fun y m q => ?_
      obtain ⟨k, -, at_⟩ := (mem_windowList p y.1 y.2).mp m
      rw [← at_] at q
      exact within k ((beyond_iff _ _).mp q)
    refine ⟨fun i j ⟨lt, ⟨ui, uj, meet⟩, low⟩ => ?_, fun noTags => ?_⟩
    · have found := firstPair_windows p tagRangesMeet Window.walks i j lt ui uj ((tagsMeet_iff _ _ ui uj).mpr meet)
        fun k m km before uk um => apartTags k m uk um (low k m km before)
      rw [PolicyCopy.validate, meets, inside, found]
    have tags := firstPair_windows_none p tagRangesMeet Window.walks fun k m km uk um =>
      apartTags k m uk um (noTags k m km)
    have rest : p.validate capacity = p.badElement.map ControlReason.badElement := by
      rw [PolicyCopy.validate, meets, inside, tags]
    rw [rest]
    refine ⟨fun n lt bad low => ?_, fun goodElements => ⟨fun l bad low => ?_, fun goodPolicies => ?_⟩⟩
    · have found := find_range (fun n => (p.element n).bad) _ n lt ((elementBad_iff _).mpr bad)
        fun m h => Bool.eq_false_iff.mpr fun q => low m h ((elementBad_iff _).mp q)
      rw [PolicyCopy.badElement, found]
      rfl
    all_goals
      have elements := find_range_none (fun n => (p.element n).bad) p.length
        fun m h => Bool.eq_false_iff.mpr fun q => goodElements m h ((elementBad_iff _).mp q)
      rw [PolicyCopy.badElement, elements]
    · rw [find_policy p l ((policyBad_iff _).mpr bad)
        fun m h => Bool.eq_false_iff.mpr fun q => low m h ((policyBad_iff _).mp q)]
      rfl
    · have none_ : allLinks.find? (fun l => (p.nonMatch[l]).bad) = none :=
        List.find?_eq_none.mpr fun l _ q => goodPolicies l ((policyBad_iff _).mp q)
      rw [none_]
      rfl

end Sys2Proof.Machine
end

section
/-! SUPPORT. The CHECKs that steps 1, 2 and 4 deny (R50, R51, R53), and the grant of a check's record read with the
quarantine requests and the error capture (R49, R55, R152, R156). -/

namespace Sys2Proof.Machine

/-! ### The steps on the state of the link and of the domain -/

/-- A CHECK that its link takes and that holds a tag of its own opens the entry that it is given (R48). -/
theorem exec_check_opens (s : State) (l : LinkId) (m : CheckMsg) (h : s.Takes l (.check l m)) (serves : s.Serves l)
    (below : m.tag < s.maxOpen l) (free : s.tagOpen l m.tag = false) :
    exec (.check l m) s = .next (s.openCheck (s.checkEntry l m)).closeEvent := by
  have takes : s.takeCheck l m = s.openCheck (s.checkEntry l m) := by
    have fresh : ¬ s.maxOpen l ≤ m.tag := by omega
    unfold State.takeCheck
    rcases serves with st | st | st <;> simp only [st, if_neg fresh, free] <;> rfl
  show Host.Outcome.next (s.deliver l _ _) = _
  rw [deliver_takes s l _ _ h, takes]

/-- An entry that is decided has no record read placed. -/
theorem openCheck_decided (s : State) (e : OpenCheck) (o : CheckOutcome) (h : e.phase = .deciding o) :
    s.openCheck e = { s with openChecks := s.openChecks ++ [e] } := by
  have w : e.waits = false := by
    rw [OpenCheck.waits, h]
    rfl
  rw [State.openCheck, w]
  rfl

/-- The state of the link and the mode that deny a CHECK before its classification, with the reason (R51). -/
def State.DeniesEarly (s : State) (l : LinkId) (r : DenyReason) : Prop :=
  ((s.link l).state = .admitWait ∧ r = .notAdmitted) ∨ ((s.link l).state = .held ∧ r = .linkHeld) ∨
    ((s.link l).state = .active ∧ s.mode = .startup ∧ r = .notReady)

theorem earlyDenial_of (s : State) (l : LinkId) (r : DenyReason) (h : s.DeniesEarly l r) :
    s.earlyDenial l = some r := by
  unfold State.earlyDenial
  rcases h with ⟨st, rfl⟩ | ⟨st, rfl⟩ | ⟨st, m, rfl⟩
  · rw [st]
  · rw [st]
  · rw [st]
    dsimp only
    rw [m]

/-- Settles O15: a CHECK that steps 1, 2 or 4 deny opens in DECIDING with the denial. -/
theorem checkStateSteps : Obligations.CheckStateSteps := by
  unfold Obligations.CheckStateSteps
  refine ⟨fun s l m r h denies below free => ?_, fun s l m d h a o below free cls inactive => ?_⟩
  · have serves : s.Serves l := by
      rcases denies with ⟨st, -⟩ | ⟨st, -⟩ | ⟨st, -⟩
      · exact Or.inl st
      · exact Or.inr (Or.inr st)
      · exact Or.inr (Or.inl st)
    have entry : s.checkEntry l m = s.earlyEntry l m r := by
      rw [State.checkEntry, earlyDenial_of s l r denies]
    rw [exec_check_opens s l m h serves below free, entry, openCheck_decided s _ (.deny r) rfl]
    rfl
  · have outcome : s.stepsOutcome l m = some (.deny .domainInactive) := by
      have notActive : s.domainActive d = false := by
        rw [State.domainActive, beq_eq_false_iff_ne]
        exact inactive
      rw [State.stepsOutcome, cls, classOutcome_inactive s d _ notActive]
    obtain ⟨phase, domain⟩ := fullEntry_denied s l m _ outcome
    refine ⟨s.fullEntry l m, ?_, phase, rfl, ?_, ?_, ?_⟩
    · rw [exec_check_opens s l m h (Or.inr (Or.inl a)) below free, checkEntry_passes s l m a o,
        openCheck_decided s _ _ phase]
    · rw [domain, cls]
      rfl
    · rw [fullEntry_window, Option.isSome_map]
    · rw [fullEntry_eq]
      simp [outcome]

/-! ### The grant of a check's record read (R49, R152, R156) -/

/-- The grant of a check's record read goes to the entry that its request names. -/
theorem exec_recordReadGrant_due (s : State) (n : LinkId × Nat) (rest : List (LinkId × Nat)) (e : OpenCheck)
    (g : Nat) (due : s.arbPick = some .verdict) (q : s.store.verdictQ = n :: rest)
    (found : s.openChecks.find? (fun x => x.named n) = some e) (names : e.granule = some g) :
    exec .recordReadGrant s =
      State.onRecord s g (State.readForCheck { s.countGrant .verdict with
        store := { (s.countGrant .verdict).store with verdictQ := rest } } e g).closeEvent := by
  have q' : (s.countGrant .verdict).store.verdictQ = n :: rest := q
  show execRecordReadGrant s = _
  rw [execRecordReadGrant, onGrant_due s _ _ due]
  simp only [q']
  have found' : (s.countGrant .verdict).openChecks.find? (fun x => x.named n) = some e := found
  simp only [found', names]
  rfl

/-- The entry that a request names has its link and tag. -/
theorem named_eq (e x : OpenCheck) (n : LinkId × Nat) (h : e.named n = true) :
    x.named (e.link, e.tag) = x.named n := by
  simp only [OpenCheck.named, Bool.and_eq_true, beq_iff_eq] at h
  obtain ⟨hl, ht⟩ := h
  rw [hl, ht]

/-- A check's record read (R49): the entry decided behind the others, and what an unverifiable record files. -/
theorem readForCheck_eq (s : State) (e : OpenCheck) (g : Nat) (n : LinkId × Nat) (h : e.named n = true) :
    (∀ r : TagRecord, s.readRecord g = .verified r → s.readForCheck e g = { s with
      openChecks := s.openChecks.filter (fun x => !x.named n) ++ [e.decide (.verified r)] }) ∧
    (∀ img : Image, s.readRecord g = .unverifiable img → s.readForCheck e g = ({ s with
      openChecks := s.openChecks.filter (fun x => !x.named n) ++ [e.decide (.unverifiable img)] } :
        State).foundFailure g .verdict img) := by
  have others : s.openChecks.filter (fun x => !x.named (e.link, e.tag)) =
      s.openChecks.filter fun x => !x.named n :=
    List.filter_congr fun x _ => by rw [named_eq e x n h]
  unfold State.readForCheck
  rw [others]
  refine ⟨fun r read => ?_, fun img read => ?_⟩
  · rw [read]
  · rw [read]

/-- A request is filed for an index not listed and not held, while a place is free (R152). -/
theorem fileRequest_eq (s : State) (g : Nat) :
    (g ∈ s.sweep.requests ∨ s.sweep.held = some g ∨ 4 ≤ s.sweep.requests.length → s.fileRequest g = s) ∧
    (g ∉ s.sweep.requests → s.sweep.held ≠ some g → s.sweep.requests.length < 4 →
      s.fileRequest g = { s with sweep := { s.sweep with requests := s.sweep.requests ++ [g] } }) := by
  have known : (s.sweep.requests.contains g || s.sweep.held == some g) = true ↔
      g ∈ s.sweep.requests ∨ s.sweep.held = some g := by
    rw [Bool.or_eq_true, List.contains_iff_mem, beq_iff_eq]
  unfold State.fileRequest
  refine ⟨fun h => ?_, fun a b c => ?_⟩
  · split
    · rfl
    · next other =>
      rw [known] at other
      exact if_pos (show 4 ≤ _ by tauto)
  · rw [if_neg (by rw [known]; tauto)]
    exact if_neg (Nat.not_le.mpr c)

/-- Settles O19: the record read verifies or not, and the check goes on with what was read. -/
theorem recordReadGrant : Obligations.RecordReadGrant := by
  unfold Obligations.RecordReadGrant
  refine ⟨fun s n rest e g due q found names within => ?_, fun s n rest e g due q found names outside => ?_,
    fileRequest_eq, fun s g who img => ⟨checkByte_toNat _, fun empty => ?_, fun c taken => ?_⟩⟩
  · have matched : e.named n = true := List.find?_some (p := fun x : OpenCheck => x.named n) found
    intro u kept
    obtain ⟨verified, unverifiable⟩ := readForCheck_eq u e g n matched
    rw [exec_recordReadGrant_due s n rest e g due q found names, onRecord_inside s g _ within]
    refine ⟨fun r read => ?_, fun img read => ?_⟩
    · rw [verified r read]
      rfl
    · rw [unverifiable img read]
      rfl
  · rw [exec_recordReadGrant_due s n rest e g due q found names, onRecord_outside s g _ outside]
  · rw [State.capture, empty]
  · rw [State.capture, taken]
    rfl

end Sys2Proof.Machine
end

section
/-! SUPPORT. The frames and the timer of a fence entry: DROP, REVOKE_ACK, FLUSH_ACK, and the consultation of the
directory (R73, R77, R78, R85). -/

namespace Sys2Proof.Machine

/-! ### DROP -/

/-- A link past ANNOUNCING takes a DROP by the two tests of R73. -/
theorem takeDrop_serves (s : State) (l : LinkId) (g : Nat) (h : s.Serves l) : s.takeDrop l g =
    if s.pendingOn g l then s else if LinkSet.has (s.holders g) l then s.dropHolder g l else s := by
  unfold State.takeDrop
  rcases h with h | h | h <;> rw [h]

/-- A granule index with a holder has a way. -/
theorem dirFind_of_holder (s : State) (g : Nat) (l : LinkId) (h : LinkSet.has (s.holders g) l = true) :
    ∃ w, s.dirFind g = some w := by
  unfold State.holders at h
  split at h
  next w found => exact ⟨w, found⟩
  next => exact absurd h (by rw [LinkSet.has_zero]; exact Bool.false_ne_true)

theorem dropHolder_of_find (s : State) (g w : Nat) (l : LinkId) (h : s.dirFind g = some w) :
    s.dropHolder g l = s.setWay w (dirEntryOf g (LinkSet.del (s.holders g) l)) := by
  unfold State.dropHolder
  rw [h]

/-- Settles O21: a DROP is ignored, or it frees the holder's way, which alone changes. -/
theorem dropFrame : Obligations.DropFrame := by
  unfold Obligations.DropFrame
  intro s l g takes serves
  have event : exec (.drop l g) s = .next (s.takeDrop l g).closeEvent :=
    congrArg Host.Outcome.next (deliver_takes s l (.drop l g) _ takes)
  rw [event, takeDrop_serves s l g serves]
  refine ⟨fun ignored => ?_, fun apart holder tables => ?_⟩
  · rcases ignored with pending | stranger
    · rw [if_pos pending]
    · rw [stranger, if_neg Bool.false_ne_true, ite_self]
  · obtain ⟨w, found⟩ := dirFind_of_holder s g l holder
    rw [apart, if_neg Bool.false_ne_true, if_pos holder, dropHolder_of_find s g w l found, found]
    refine ⟨_, rfl, rfl, fun v other => ?_, fun v same => ?_⟩
    · rw [dirWay_setWay _ _ _ _ tables.2.2, if_neg fun e => other (congrArg some e)]
    · cases same
      rw [dirWay_setWay _ _ _ _ tables.2.2, if_pos rfl]
      rfl

/-! ### What an event completes -/

/-- The end of an event changes paths and the due NOTIFY alone. -/
theorem closeEvent_parts (s : State) : s.closeEvent.fence = s.fence ∧ s.closeEvent.store = s.store ∧
    s.closeEvent.phase = s.phase ∧ s.closeEvent.reports.status = s.reports.status ∧
    s.closeEvent.flushSet = s.flushSet ∧ s.closeEvent.oldEpochCount = s.oldEpochCount ∧
    s.closeEvent.directory = s.directory := by
  rw [closeEvent_eq]
  exact ⟨rfl, rfl, rfl, rfl, rfl, rfl, rfl⟩

/-- An event whose last acts are the drains and the commit flush it completes, as a whole state. -/
theorem settled_eq (u : State) : u.settle.closeEvent = { u with
    links := u.settle.closeEvent.links, fence := u.settle.closeEvent.fence, phase := u.settle.closeEvent.phase
    store := { u.store with commandQ := u.settle.closeEvent.store.commandQ }
    reports := { u.reports with
      status := u.settle.closeEvent.reports.status
      notifyDue := u.settle.closeEvent.reports.notifyDue } } := by
  have done := settle_eq u
  generalize u.settle = v at *
  have close := closeEvent_eq v
  generalize v.closeEvent = t at *
  rw [close, done]

/-- What such an event leaves of the fence table, the COMMAND class queue, the phase and the statuses. -/
theorem settled_parts (u : State) :
    let drained (e : FenceEntry) : Bool :=
      decide (e.phase = .revoking ∧ e.consulted = true ∧ e.pending = 0 ∧ e.staleCount = 0)
    let ends : Prop := u.phase = .flushing ∧ u.flushSet = 0 ∧ u.oldEpochCount = 0
    u.settle.closeEvent.fence = u.fence.map (fun e => if drained e then { e with phase := .finishing } else e) ∧
      u.settle.closeEvent.store.commandQ = u.store.commandQ ++
        (u.fence.filter drained).map (fun e => { granule := e.granule, access := .finalWrite }) ∧
      u.settle.closeEvent.phase = (if ends then .idle else u.phase) ∧
      u.settle.closeEvent.reports.status =
        (if ends then u.reports.status ||| Status.commitDone.mask else u.reports.status) := by
  intro drained ends
  obtain ⟨fence, store, phase, status, -⟩ := closeEvent_parts u.settle
  obtain ⟨phase', status', fence', store'⟩ := settle_effect u
  rw [fence, store, phase, status, phase', status', fence', store']
  refine ⟨?_, ?_, rfl, rfl⟩ <;> unfold State.completeDrains <;> simp only [drained, ← drained_iff]

/-- The links of such an event differ from those before its end in NOTIFYs of their paths alone. -/
theorem settled_links (u : State) : u.LinksSend u.settle.closeEvent ∧ ∀ m : LinkId,
    (u.settle.closeEvent.link m).outbound.filter (fun x => !x.isNotify) =
      (u.link m).outbound.filter (fun x => !x.isNotify) := by
  have same (m : LinkId) : u.settle.link m = u.link m := by
    unfold State.link
    rw [settle_links]
  exact ⟨(State.LinksSend.of_eq (settle_links u)).trans (linksSend_closeEvent _),
    fun m => by rw [closeEvent_others, same]⟩

/-! ### REVOKE_ACK -/

theorem takeRevokeAck_serves (s : State) (l : LinkId) (g : Nat) (n : Half) (h : s.Serves l) :
    s.takeRevokeAck l g n = if (s.fenceOf g).any fun e => e.acceptsAck l n then
      (s.updFence g fun e => e.dropPending l).settle else s.countError l .unexpected := by
  unfold State.takeRevokeAck
  rcases h with h | h | h <;> rw [h]

theorem acceptsAck_iff (e : FenceEntry) (l : LinkId) (n : Half) : e.acceptsAck l n = true ↔
    e.phase = .revoking ∧ e.consulted = true ∧ e.genRead = some n ∧ LinkSet.has e.pending l = true := by
  unfold FenceEntry.acceptsAck
  simp [and_assoc]

/-- The timer of an entry whose last pending link left stops. -/
theorem dropPending_timer (e : FenceEntry) (l : LinkId) (h : LinkSet.has e.pending l = true)
    (empty : (e.dropPending l).pending = 0) : (e.dropPending l).timer = none := by
  rw [dropPending_eq] at empty ⊢
  exact if_pos ⟨h, empty⟩

/-- Settles O22: an accepted answer takes its link off the pending set, and the drains it completes are `settle`. -/
theorem revokeAckFrame : Obligations.RevokeAckFrame := by
  unfold Obligations.RevokeAckFrame
  refine ⟨fun s l g n takes serves => ?_, fun s => ?_⟩
  · have event : exec (.revokeAck l g n) s = .next (s.takeRevokeAck l g n).closeEvent :=
      congrArg Host.Outcome.next (deliver_takes s l (.revokeAck l g n) _ takes)
    rw [event, takeRevokeAck_serves s l g n serves]
    refine ⟨fun e found revoking consulted generation pending => ⟨?_, ?_, ?_, fun m ne => ?_⟩, fun foreign => ?_⟩
    · rw [if_pos]
      simpa [found] using (acceptsAck_iff e l n).mpr ⟨revoking, consulted, generation, pending⟩
    · rw [dropPending_pending, if_pos pending, LinkSet.has_del_same]
    · exact dropPending_timer e l pending
    · rw [dropPending_pending, if_pos pending, LinkSet.has_del]
      simp [ne]
    · rw [if_neg]
      intro accepted
      obtain ⟨e, found, accepts⟩ := Option.any_eq_true .. |>.mp accepted
      obtain ⟨revoking, consulted, generation, pending⟩ := (acceptsAck_iff e l n).mp accepts
      rcases foreign e found with c | c | c | c
      · exact c revoking
      · rw [c] at consulted
        exact Bool.false_ne_true consulted
      · exact c generation
      · rw [c] at pending
        exact Bool.false_ne_true pending
  · simp only [← drained_iff]
    refine ⟨fun ok => ?_, fun ends => ?_, fun waits => ?_⟩
    · exact ok.2.sublist (List.filter_sublist.map _)
    · exact settle_done s ends
    · exact settle_waits s waits

/-! ### FLUSH_ACK -/

theorem takeFlushAck_serves (s : State) (l : LinkId) (h : s.Serves l) : s.takeFlushAck l =
    if (s.link l).flushOutstanding then (s.withdrawLink l).settle else s.countError l .unexpected := by
  unfold State.takeFlushAck
  rcases h with h | h | h <;> rw [h]

theorem holders_congr {s t : State} (d : t.directory = s.directory) (g : Nat) : t.holders g = s.holders g := by
  unfold State.holders State.dirFind State.dirWay
  rw [d]

theorem dirWay_congr {s t : State} (d : t.directory = s.directory) (w : Nat) : t.dirWay w = s.dirWay w := by
  unfold State.dirWay
  rw [d]

/-- The fields of a state whose link was withdrawn. -/
theorem withdrawLink_eq (s : State) (l : LinkId) : s.withdrawLink l = { s with
    links := (s.withdrawLink l).links, directory := (s.dropAllHolders l).directory
    fence := s.fence.map fun e => e.dropPending l, flushSet := LinkSet.del s.flushSet l } := rfl

theorem withdrawLink_pending (s : State) (l : LinkId) :
    ∀ e ∈ (s.withdrawLink l).fence, LinkSet.has e.pending l = false := by
  intro e member
  rw [withdrawLink_eq] at member
  obtain ⟨x, -, rfl⟩ := List.mem_map.mp member
  rw [dropPending_pending]
  split
  next => exact LinkSet.has_del_same _ _
  next free => simpa using free

/-- Settles O23: the link is withdrawn, and what that completes is read off `settled_parts`. -/
theorem flushAckFrame : Obligations.FlushAckFrame := by
  unfold Obligations.FlushAckFrame
  intro s l takes serves
  have event : exec (.flushAck l) s = .next (s.takeFlushAck l).closeEvent :=
    congrArg Host.Outcome.next (deliver_takes s l (.flushAck l) _ takes)
  rw [event, takeFlushAck_serves s l serves]
  refine ⟨fun outstanding => ?_, fun clear => by rw [clear, if_neg Bool.false_ne_true]⟩
  rw [if_pos outstanding]
  have whole := settled_eq (s.withdrawLink l)
  have drained := withdrawLink_pending s l
  obtain ⟨fence, queue, phase, status⟩ := settled_parts (s.withdrawLink l)
  obtain ⟨send, others⟩ := settled_links (s.withdrawLink l)
  have link := withdrawLink_link s l
  have none_held := withdrawLink_holders s l
  have before := withdrawLink_eq s l
  have pending : ∀ e ∈ (s.withdrawLink l).settle.closeEvent.fence, LinkSet.has e.pending l = false := by
    rw [(closeEvent_parts _).1, (settle_effect _).2.2.1]
    exact completeDrains_pending _ l drained
  refine ⟨_, rfl, ?_⟩
  generalize ht : (s.withdrawLink l).settle.closeEvent = t at *
  have directory : t.directory = (s.withdrawLink l).directory := by rw [whole]
  have flushSet : t.flushSet = LinkSet.del s.flushSet l := by rw [whole, before]
  have outbound (m : LinkId) : ((s.withdrawLink l).link m).outbound = (s.link m).outbound := by
    rw [link]
    split
    next same => rw [same]
    next => rfl
  refine ⟨fun g => ?_, fun tables w => ?_, pending, flushSet, ?_, fun m ne => ?_, ?_, ?_, ?_, ?_, ?_,
    fun m => ?_, s.withdrawLink l, ht.symm, ?_, fun m => ?_⟩
  · rw [holders_congr directory, none_held]
  · rw [dirWay_congr directory, dirWay_congr (s := s.dropAllHolders l) (by rw [before]),
      dirWay_dropAllHolders s l w tables.2.2]
    rfl
  · rw [send l, link l, if_pos rfl]
  · rw [send m, link m, if_neg ne]
  · rw [whole, before]
  · rw [fence, before]
    simp only [List.map_map]
    rfl
  · rw [queue, before]
    rfl
  · rw [flushSet]
    intro ends
    rw [phase, status, before]
    exact ⟨if_pos ends, if_pos ends⟩
  · rw [flushSet]
    intro waits
    rw [phase, status, before]
    exact ⟨if_neg waits, if_neg waits⟩
  · rw [others, outbound]
  · rw [directory]
    exact before
  · exact link m

/-! ### The consultation of the directory -/

/-- The entry of a granule after a change of the table that keeps the granules. -/
theorem find_fence_map (es : List FenceEntry) (f : FenceEntry → FenceEntry) (g : Nat)
    (keeps : ∀ e, (f e).granule = e.granule) :
    (es.map f).find? (fun e => e.granule == g) = (es.find? fun e => e.granule == g).map f := by
  rw [List.find?_map]
  have same : (fun e : FenceEntry => e.granule == g) ∘ f = fun e => e.granule == g := by
    funext e
    simp only [Function.comp, keeps]
  rw [same]

theorem sendRevoke_eq (g : Nat) (n : Half) (s : State) (l : LinkId) :
    State.sendRevoke g n s l = { s with links := (State.sendRevoke g n s l).links } ∧
      ∀ m : LinkId, (State.sendRevoke g n s l).link m = { s.link m with outbound := (s.link m).outbound ++
        if m = l ∧ (s.link m).flushOutstanding = false then [.revoke g n] else [] } := by
  unfold State.sendRevoke
  split
  next outstanding =>
    refine ⟨rfl, fun m => ?_⟩
    rw [if_neg (by rintro ⟨rfl, clear⟩; rw [clear] at outstanding; exact Bool.false_ne_true outstanding),
      List.append_nil]
  next clear =>
    refine ⟨rfl, fun m => ?_⟩
    by_cases same : m = l
    · subst same
      rw [if_pos ⟨rfl, by simpa using clear⟩]
      exact State.link_updLink_same ..
    · rw [if_neg fun c => same c.1, List.append_nil]
      exact State.link_updLink_ne s _ same

/-- REVOKE goes to each link of a list without a flush outstanding, and to no other link (R77). -/
theorem sendRevokes_eq (g : Nat) (n : Half) (ls : List LinkId) (s : State) (nodup : ls.Nodup) :
    ls.foldl (State.sendRevoke g n) s = { s with links := (ls.foldl (State.sendRevoke g n) s).links } ∧
      ∀ m : LinkId, (ls.foldl (State.sendRevoke g n) s).link m = { s.link m with
        outbound := (s.link m).outbound ++
          if m ∈ ls ∧ (s.link m).flushOutstanding = false then [.revoke g n] else [] } := by
  induction ls generalizing s with
  | nil => exact ⟨rfl, fun m => by rw [if_neg (by simp), List.append_nil]; rfl⟩
  | cons l ls ih =>
    obtain ⟨fresh, nodup⟩ := List.nodup_cons.mp nodup
    obtain ⟨first, sent⟩ := sendRevoke_eq g n s l
    obtain ⟨whole, rest⟩ := ih (State.sendRevoke g n s l) nodup
    refine ⟨links_trans first whole, fun m => ?_⟩
    rw [List.foldl_cons, rest, sent]
    by_cases same : m = l
    · subst same
      simp [fresh]
    · simp [same]

theorem mem_links (a : LinkSet) (l : LinkId) : l ∈ LinkSet.links a ↔ LinkSet.has a l = true := by
  unfold LinkSet.links
  rw [List.mem_filter]
  exact and_iff_right (mem_allLinks l)

theorem links_nodup (a : LinkSet) : (LinkSet.links a).Nodup := List.Nodup.filter _ (by decide)

/-- The fence entry after its consultation. -/
def State.consulted (s : State) (g : Nat) (x : FenceEntry) : FenceEntry :=
  { x with
    pending := s.holders g, consulted := true
    timer := if s.holders g = 0 then none else some (s.timeBase + BitVec.ofNat 48 s.revokeTimeout) }

theorem consult_eq (s : State) (e : FenceEntry) : s.consult e = ((LinkSet.links (s.holders e.granule)).foldl
    (State.sendRevoke e.granule (e.genRead.getD 0)) (s.updFence e.granule (s.consulted e.granule))).settle := rfl

/-- A link set without a link is the empty one, and the sets hold what they are made of. -/
theorem linkSet_members (x : LinkSet) (l m : LinkId) : LinkSet.has x l = x.getLsbD l.val ∧
    (LinkSet.has (LinkSet.add x l) m = true ↔ m = l ∨ LinkSet.has x m = true) ∧
    (LinkSet.has (LinkSet.del x l) m = true ↔ m ≠ l ∧ LinkSet.has x m = true) := by
  refine ⟨rfl, ?_, ?_⟩
  · rw [LinkSet.has_add]
    simp [or_comm]
  · rw [LinkSet.has_del]
    simp [and_comm]

/-- The holder set of a granule index that no way of its set names. -/
theorem holders_none (s : State) (g : Nat)
    (h : ∀ w ∈ dirWays g, ∀ d : DirEntry, s.dirWay w = some d → d.granule ≠ g) : s.holders g = 0 := by
  unfold State.holders
  split
  next w found =>
    obtain ⟨set, d, way, granule, -⟩ := dirFind_some s g w found
    exact absurd granule (h w ((mem_dirWays g w).mpr set) d way)
  next => rfl

theorem holders_lowest (s : State) (g w : Nat) (d : DirEntry) (m : w ∈ dirWays g) (q : s.dirWay w = some d)
    (e : d.granule = g)
    (low : ∀ v ∈ dirWays g, v < w → ∀ x : DirEntry, s.dirWay v = some x → x.granule ≠ g) :
    s.holders g = d.holders := by
  unfold State.holders
  rw [dirFind_lowest s g w d m q e low]
  dsimp only
  rw [q]

/-- Settles O24: the entry takes the holders, and the REVOKEs go out by induction on the links. -/
theorem directoryConsultation : Obligations.DirectoryConsultation := by
  unfold Obligations.DirectoryConsultation
  refine ⟨linkSet_members, fun s g => ⟨?_, Option.isSome_iff_exists, holders_none s g, fun w d => holders_lowest s g w d⟩,
    fun s g e n found revoking fresh generation => ?_⟩
  · unfold State.fenceOf
    rfl
  have granule : e.granule = g := fenceOf_granule s g e found
  have event : exec (.directoryConsultation g) s = .next (s.consult e).closeEvent := by
    show execDirectoryConsultation g s = _
    unfold execDirectoryConsultation
    rw [found]
    exact if_pos ⟨revoking, fresh⟩
  obtain ⟨whole, sent⟩ := sendRevokes_eq g n (LinkSet.links (s.holders g)) (s.updFence g (s.consulted g))
    (links_nodup _)
  rw [event, consult_eq, granule, generation, Option.getD_some]
  generalize (LinkSet.links (s.holders g)).foldl (State.sendRevoke g n) (s.updFence g (s.consulted g)) = u at *
  have link (m : LinkId) : u.link m = { s.link m with outbound := (s.link m).outbound ++
      (if LinkSet.has (s.holders g) m = true ∧ (s.link m).flushOutstanding = false
        then [OutMsg.revoke g n] else []) } := by
    rw [sent m]
    simp only [mem_links]
    rfl
  clear sent
  have table : u.fence = s.fence.map (fun x => if x.granule = g then s.consulted g x else x) := by rw [whole]; rfl
  have before : u = { s with links := u.links, fence := u.fence } := by rw [whole]; rfl
  clear whole
  obtain ⟨fence, queue, phase, status⟩ := settled_parts u
  obtain ⟨send, others⟩ := settled_links u
  have done := settled_eq u
  have update (h : Nat) := find_fence_map s.fence
    (fun x => if x.granule = g then s.consulted g x else x) h fun x => by split <;> rfl
  have drain (h : Nat) := find_fence_map u.fence (fun e => if decide (e.phase = .revoking ∧ e.consulted = true ∧
    e.pending = 0 ∧ e.staleCount = 0) then { e with phase := .finishing } else e) h fun x => by split <;> rfl
  have entry : u.settle.closeEvent.fenceOf g = some { s.consulted g e with
      phase := if s.holders g = 0 ∧ e.staleCount = 0 then .finishing else .revoking } := by
    have same : s.fence.find? (fun x => x.granule == g) = some e := found
    unfold State.fenceOf
    rw [fence, drain, table, update, same]
    simp only [Option.map_some, granule, if_true, State.consulted, revoking]
    by_cases h : s.holders g = 0 ∧ e.staleCount = 0
    · simp [h]
    · rw [if_neg (by simpa using h), if_neg h]
  refine ⟨_, _, rfl, entry, rfl, rfl, rfl, rfl, fun l holds clear => ?_, fun l => ?_, fun h ne absent => ?_, ?_,
    fun l apart => ?_, u, rfl, ?_, link⟩
  · refine List.mem_of_mem_filter (p := fun m => !m.isNotify) ?_
    rw [others, link, if_pos ⟨holds, clear⟩]
    simp [OutMsg.isNotify]
  · rw [send l, link l]
  · have same : s.fence.find? (fun x => x.granule == h) = none := absent
    unfold State.fenceOf
    rw [fence, drain, table, update, same]
    rfl
  · rw [done, before]
  · rw [others, link, if_neg (fun c => ?_), List.append_nil]
    rcases apart with apart | apart
    · rw [apart] at c
      exact Bool.false_ne_true c.1
    · rw [apart] at c
      exact Bool.false_ne_true c.2.symm
  · rw [before, table]
    rfl

end Sys2Proof.Machine
end

section
/-! SUPPORT. The report queues: what a store leaves of a queue, its statuses and the violations, the NOTIFYs at the end
of an event, LOG_READ and LOG_ACK, and the CONTROL operations that clear reports (chapter 10). -/

namespace Sys2Proof.Machine

/-! ### A store in a queue (R161, R162) -/

variable {α : Type}

theorem push_room (q : ReportQueue α) (r : α) (room : q.fill < q.size) :
    q.push r = ({ q with records := q.records ++ [r] }, some q.put) := if_pos room

theorem push_lost (q : ReportQueue α) (r : α) (full : q.size ≤ q.fill) (lost : q.size = 0 ∨ q.mode = .blocking) :
    q.push r = ({ q with lost := true }, none) := by
  unfold ReportQueue.push
  rw [if_neg (by omega)]
  rcases lost with empty | blocking
  · rw [if_pos empty]
  · rw [blocking]
    split <;> rfl

theorem push_over (q : ReportQueue α) (r : α) (places : 0 < q.size) (full : q.size ≤ q.fill)
    (overwrites : q.mode = .overwrite) : q.push r =
      ({ q with records := q.records.tail ++ [r], get := (q.get + 1) % q.size }, some q.put) := by
  unfold ReportQueue.push
  rw [if_neg (by omega), if_neg (by omega), overwrites]

theorem rises_room (q : ReportQueue α) (room : q.fill < q.size) :
    q.rises = decide (q.fill + 1 = q.watermark) := by
  unfold ReportQueue.rises
  simp [room, beq_eq_decide]

theorem rises_full (q : ReportQueue α) (full : q.size ≤ q.fill) : q.rises = false := by
  unfold ReportQueue.rises
  simp [Nat.not_lt.mpr full]

theorem put_of_places (q : ReportQueue α) (h : 0 < q.size) : q.put = (q.get + q.fill) % q.size :=
  if_neg (Nat.ne_of_gt h)

/-! ### Statuses -/

theorem has_or (x y : StatusSet) (st : Status) :
    StatusSet.has (x ||| y) st = (StatusSet.has x st || StatusSet.has y st) := BitVec.getLsbD_or

/-- A status that may rise is set afterwards when it rose or was set. -/
theorem raise_if_has (s : State) (st : Status) (p : Prop) [Decidable p] :
    StatusSet.has (if p then s.raise st else s).reports.status st = true ↔
      StatusSet.has s.reports.status st = true ∨ p := by
  split
  next h => simp [raise_has, h]
  next h => simp [h]

/-- The bit of a status (Table 10-4). -/
theorem status_bit (x : StatusSet) (st : Status) :
    let bit : Nat := match st with
      | .q0Watermark => 0 | .q0Lost => 1 | .q1Watermark => 2 | .q1Lost => 3 | .watchHit => 4
      | .chain0End => 5 | .chain1End => 6 | .commitDone => 7 | .retireDone => 8 | .tableInitDone => 9
      | .linkEvent => 10 | .integrityError => 11 | .ackRange => 12
    StatusSet.has x st = x.getLsbD bit ∧ st.mask.toNat = 2 ^ bit := by
  cases st <;> exact ⟨rfl, by decide⟩

/-! ### Event records -/

/-- The part after an event queue took or lost a record. -/
def State.withQ1 (s : State) (q : ReportQueue EventRecord) : State :=
  { s with reports := { s.reports with q1 := q } }

theorem storeEvent_room (s : State) (r : EventRecord) (room : s.reports.q1.fill < s.reports.q1.size) :
    s.storeEvent r = if s.reports.q1.fill + 1 = s.reports.q1.watermark
      then (s.withQ1 { s.reports.q1 with records := s.reports.q1.records ++ [r] }).raise .q1Watermark
      else s.withQ1 { s.reports.q1 with records := s.reports.q1.records ++ [r] } := by
  unfold State.storeEvent
  simp only [push_room _ r room, rises_room _ room, decide_eq_true_eq]
  rfl

theorem storeEvent_lost (s : State) (r : EventRecord) (full : s.reports.q1.size ≤ s.reports.q1.fill)
    (lost : s.reports.q1.size = 0 ∨ s.reports.q1.mode = .blocking) :
    s.storeEvent r = (s.withQ1 { s.reports.q1 with lost := true }).raise .q1Lost := by
  unfold State.storeEvent
  simp only [push_lost _ r full lost]
  rfl

theorem storeEvent_over (s : State) (r : EventRecord) (places : 0 < s.reports.q1.size)
    (full : s.reports.q1.size ≤ s.reports.q1.fill) (overwrites : s.reports.q1.mode = .overwrite) :
    s.storeEvent r = s.withQ1 { s.reports.q1 with
      records := s.reports.q1.records.tail ++ [r], get := (s.reports.q1.get + 1) % s.reports.q1.size } := by
  unfold State.storeEvent
  simp only [push_over _ r places full overwrites, rises_full _ full]
  exact if_neg Bool.false_ne_true

theorem withQ1_raise_q1 (s : State) (q : ReportQueue EventRecord) (st : Status) :
    ((s.withQ1 q).raise st).reports.q1 = q := raise_q1 _ _

/-! ### Denials -/

/-- The part after the denial queue took or lost a record, with the violations as they then are. -/
def State.withQ0 (s : State) (q : ReportQueue DenialRecord) (v : List (Nat × Violation)) : State :=
  { s with reports := { s.reports with q0 := q, violations := v } }

theorem raise_queues (s : State) (st : Status) : (s.raise st).reports.q0 = s.reports.q0 ∧
    (s.raise st).reports.violations = s.reports.violations := by
  rw [raise_eq]
  exact ⟨rfl, rfl⟩

/-- The violations after a denial are those that its domain's count gives. -/
theorem storeDenial_violations (s : State) (r : DenialRecord) :
    (s.storeDenial r).reports.violations = (s.countViolation r.domain).reports.violations := by
  rw [storeDenial_eq]
  dsimp only
  split
  · exact (raise_queues _ _).2
  · split
    · exact (raise_queues _ _).2
    · rfl

theorem storeDenial_room (s : State) (r : DenialRecord) (room : s.reports.q0.fill < s.reports.q0.size) :
    s.storeDenial r = if s.reports.q0.fill + 1 = s.reports.q0.watermark
      then (s.withQ0 { s.reports.q0 with records := s.reports.q0.records ++ [r] }
        (s.storeDenial r).reports.violations).raise .q0Watermark
      else s.withQ0 { s.reports.q0 with records := s.reports.q0.records ++ [r] }
        (s.storeDenial r).reports.violations := by
  rw [storeDenial_violations, storeDenial_eq]
  simp only [push_room _ r room, rises_room _ room, decide_eq_true_eq]
  rfl

theorem storeDenial_lost (s : State) (r : DenialRecord) (full : s.reports.q0.size ≤ s.reports.q0.fill)
    (lost : s.reports.q0.size = 0 ∨ s.reports.q0.mode = .blocking) :
    s.storeDenial r = (s.withQ0 { s.reports.q0 with lost := true }
      (s.storeDenial r).reports.violations).raise .q0Lost := by
  rw [storeDenial_violations, storeDenial_eq]
  simp only [push_lost _ r full lost]
  rfl

theorem storeDenial_over (s : State) (r : DenialRecord) (places : 0 < s.reports.q0.size)
    (full : s.reports.q0.size ≤ s.reports.q0.fill) (overwrites : s.reports.q0.mode = .overwrite) :
    s.storeDenial r = s.withQ0 { s.reports.q0 with
      records := s.reports.q0.records.tail ++ [r], get := (s.reports.q0.get + 1) % s.reports.q0.size }
      (s.storeDenial r).reports.violations := by
  rw [storeDenial_violations, storeDenial_eq]
  simp only [push_over _ r places full overwrites, rises_full _ full]
  exact if_neg Bool.false_ne_true

/-- A denial touches its queue, the violations and the one status it may raise. -/
theorem storeDenial_whole (s : State) (r : DenialRecord) : s.storeDenial r = { s with reports := { s.reports with
    q0 := (s.storeDenial r).reports.q0, violations := (s.storeDenial r).reports.violations
    status := (s.storeDenial r).reports.status
    notifyDue := (s.storeDenial r).reports.notifyDue } } := by
  rw [storeDenial_eq]
  dsimp only
  split
  · exact raise_parts _ _ _ _
  · split
    · exact raise_parts _ _ _ _
    · rfl
where
  raise_parts (s : State) (q : ReportQueue DenialRecord) (v : List (Nat × Violation)) (st : Status) :
      (s.withQ0 q v).raise st = { s with reports := { s.reports with
        q0 := ((s.withQ0 q v).raise st).reports.q0
        violations := ((s.withQ0 q v).raise st).reports.violations
        status := ((s.withQ0 q v).raise st).reports.status
        notifyDue := ((s.withQ0 q v).raise st).reports.notifyDue } } := by
    have h := raise_eq (s.withQ0 q v) st
    generalize (s.withQ0 q v).raise st = t at *
    rw [h]
    rfl

theorem storeDenial_q0 (s : State) (r : DenialRecord) :
    (s.storeDenial r).reports.q0 = (s.reports.q0.push r).1 := by
  rw [storeDenial_eq]
  dsimp only
  split
  · exact (raise_queues _ _).1
  · split
    · exact (raise_queues _ _).1
    · rfl

/-- The violation of each domain after a denial (R167). -/
theorem violation_storeDenial (s : State) (r : DenialRecord) (d : DomainNo) (h : r.domain = some d)
    (ok : s.TablesOk) (n : Nat) : (s.storeDenial r).violation n =
      if n = d.toNat then { flag := true
                            count := if (s.violation n).count < 65535 then (s.violation n).count + 1
                              else (s.violation n).count }
      else s.violation n := by
  have same : (s.storeDenial r).violation n = (s.countViolation r.domain).violation n := by
    unfold State.violation
    rw [storeDenial_violations]
  rw [same, h]
  unfold State.countViolation
  rw [violation_setViolation _ _ _ _ ok]
  split
  next e => rw [e]; rfl
  next => rfl

/-! ### The end of an event (R169, R184) -/

theorem notifyLink_link (s : State) (l m : LinkId) : (s.notifyLink l).link m =
    if m = l ∧ LinkSet.has s.reports.notifyLinks m = true ∧ (s.link m).state = .active then
      { s.link m with outbound := handNotify (s.link m).outbound s.timeBase s.reports.status s.reports.notifyDue }
    else s.link m := by
  unfold State.notifyLink
  have active : s.isActive l = true ↔ (s.link l).state = .active := by simp [State.isActive]
  by_cases told : LinkSet.has s.reports.notifyLinks l = true ∧ (s.link l).state = .active
  · rw [if_pos (by rw [told.1, active.mpr told.2]; rfl)]
    by_cases same : m = l
    · subst same
      rw [if_pos ⟨rfl, told⟩, State.link_updLink_same]
    · rw [if_neg fun c => same c.1, State.link_updLink_ne s _ same]
  · rw [if_neg (by rw [Bool.and_eq_true, active]; exact told)]
    rw [if_neg]
    rintro ⟨rfl, c⟩
    exact told c

theorem notifyLinks_link (ls : List LinkId) (s : State) (m : LinkId) (nodup : ls.Nodup) :
    (ls.foldl State.notifyLink s).link m =
      if m ∈ ls ∧ LinkSet.has s.reports.notifyLinks m = true ∧ (s.link m).state = .active then
        { s.link m with outbound := handNotify (s.link m).outbound s.timeBase s.reports.status s.reports.notifyDue }
      else s.link m := by
  induction ls generalizing s with
  | nil => rw [if_neg (by simp)]; rfl
  | cons l ls ih =>
    obtain ⟨fresh, nodup⟩ := List.nodup_cons.mp nodup
    rw [List.foldl_cons, ih _ nodup, notifyLink_reports, notifyLink_timeBase, notifyLink_link]
    by_cases same : m = l
    · subst same
      simp [fresh]
    · simp [same]

theorem closeEvent_link (s : State) (l : LinkId) (due : s.reports.notifyDue ≠ 0) :
    s.closeEvent.link l = if LinkSet.has s.reports.notifyLinks l = true ∧ (s.link l).state = .active
      then { s.link l with outbound := (s.link l).outbound.filter (fun m => !m.isNotify) ++
        [.notify s.timeBase s.reports.status (pendingCauses (s.link l).outbound ||| s.reports.notifyDue)] }
      else s.link l := by
  have event : s.closeEvent.link l = (allLinks.foldl State.notifyLink s).link l := by
    unfold State.closeEvent
    rw [if_neg due]
    rfl
  rw [event, notifyLinks_link _ _ _ (by decide)]
  simp only [mem_allLinks, true_and]
  rfl

/-- Settles O50: a push into each queue by its room and mode, and a status by whether it was set. -/
theorem recordsAndNotify : Obligations.RecordsAndNotify := by
  unfold Obligations.RecordsAndNotify
  refine ⟨fun s r => ⟨storeEvent_room s r, storeEvent_lost s r, storeEvent_over s r⟩,
    fun s r => ⟨storeDenial_room s r, storeDenial_lost s r, storeDenial_over s r⟩,
    status_bit, fun s l m k x => ⟨?_, rfl, rfl⟩, ⟨rfl, fun x rest => by cases x <;> rfl⟩,
    fun s r => ⟨fun room => ⟨?_, ?_⟩, fun lost full => ?_, fun places full overwrites => ?_⟩,
    fun s r => ⟨fun room => ⟨?_, ?_⟩, fun full lost => ⟨?_, ?_⟩, fun places full overwrites => ⟨?_, ?_⟩,
      fun none => ?_, fun d h ok n => violation_storeDenial s r d h ok n, storeDenial_whole s r⟩,
    closeEvent_quiet, closeEvent_link, closeEvent_eq, fun s st => ⟨raise_status s st, ?_, raise_eq s st⟩⟩
  · split
    next same => rw [same, State.link_setLink_same]
    next other => exact State.link_setLink_ne s k other
  · rw [storeEvent_q1, push_room _ r room]
  · rw [storeEvent_room s r room]
    exact raise_if_has (s.withQ1 _) _ _
  · have loss : s.reports.q1.size = 0 ∨ s.reports.q1.mode = .blocking := lost.imp_right And.right
    rw [storeEvent_lost s r full loss]
    exact ⟨withQ1_raise_q1 _ _ _, raise_has _ _⟩
  · rw [storeEvent_over s r places full overwrites]
    exact ⟨rfl, rfl⟩
  · rw [storeDenial_q0, push_room _ r room]
  · rw [storeDenial_room s r room]
    exact raise_if_has (s.withQ0 _ _) _ _
  · rw [storeDenial_q0, push_lost _ r full lost]
  · rw [storeDenial_lost s r full lost]
    exact raise_has _ _
  · rw [storeDenial_q0, push_over _ r places full overwrites]
  · rw [storeDenial_over s r places full overwrites]
    rfl
  · rw [storeDenial_violations, none]
    rfl
  · unfold State.raise
    split <;> rfl

end Sys2Proof.Machine
end

section
/-! SUPPORT. LOG_READ and LOG_ACK by the positions of a queue, and the CONTROL operations that clear reports
(R158, R164, R165, R156, R167, R170). -/

namespace Sys2Proof.Machine

variable {α : Type}

/-! ### Positions (R158) -/

theorem mod_below_twice (n m : Nat) (h : n < 2 * m) : n % m = if n < m then n else n - m := by
  split
  next lt => exact Nat.mod_eq_of_lt lt
  next ge => rw [Nat.mod_eq_sub_mod (by omega), Nat.mod_eq_of_lt (by omega)]

/-- A position of the occupied span lies the offset behind the get position. -/
theorem spanOffset_iff (q : ReportQueue α) (ok : QueueOk q) (p k : Nat) :
    q.spanOffset p = some k ↔ k < q.fill ∧ p = (q.get + k) % q.size := by
  obtain ⟨fits, get⟩ := ok
  unfold ReportQueue.spanOffset
  simp only [Option.ite_none_right_eq_some, Option.some.injEq]
  constructor
  · rintro ⟨inside, small, rfl⟩
    refine ⟨small, ?_⟩
    have back := mod_below_twice (p + q.size - q.get) q.size (by omega)
    generalize (p + q.size - q.get) % q.size = d at *
    rw [mod_below_twice (q.get + d) q.size (by omega)]
    split at back <;> split <;> omega
  · rintro ⟨small, place⟩
    rw [mod_below_twice (q.get + k) q.size (by omega)] at place
    have inside : p < q.size := by split at place <;> omega
    have back : (p + q.size - q.get) % q.size = k := by
      rw [mod_below_twice (p + q.size - q.get) q.size (by omega)]
      split at place <;> split <;> omega
    exact ⟨inside, back.symm ▸ small, back⟩

theorem spanOffset_none (q : ReportQueue α) (ok : QueueOk q) (p : Nat)
    (h : ∀ k : Nat, k < q.fill → p ≠ (q.get + k) % q.size) : q.spanOffset p = none := by
  rw [Option.eq_none_iff_forall_ne_some]
  intro k found
  obtain ⟨small, place⟩ := (spanOffset_iff q ok p k).mp found
  exact h k small place

/-! ### LOG_READ (R164) -/

theorem numbered_length (xs : List α) (n : Nat) : (numbered n xs).length = xs.length := by
  induction xs generalizing n with
  | nil => rfl
  | cons x xs ih => simp [numbered, ih]

theorem numbered_getElem (xs : List α) (n i : Nat) : (numbered n xs)[i]? = xs[i]?.map fun x => (n + i, x) := by
  induction xs generalizing n i with
  | nil => simp [numbered]
  | cons x xs ih =>
    cases i with
    | zero => rfl
    | succ i =>
      simp only [numbered, List.getElem?_cons_succ, ih]
      rw [show n + 1 + i = n + (i + 1) by omega]

theorem readFrom_span (q : ReportQueue α) (ok : QueueOk q) (p n k : Nat) (small : k < q.fill)
    (place : p = (q.get + k) % q.size) :
    (q.readFrom p n).length = min (min (max n 1) 4) (q.fill - k) ∧
      ∀ (i : Nat) (r : α), i < min (max n 1) 4 → q.records[k + i]? = some r →
        (q.readFrom p n)[i]? = some ((p + i) % q.size, r) := by
  unfold ReportQueue.readFrom
  rw [(spanOffset_iff q ok p k).mpr ⟨small, place⟩]
  refine ⟨?_, fun i r few found => ?_⟩
  · simp only [List.length_map, numbered_length, List.length_take, List.length_drop]
    rfl
  · rw [List.getElem?_map, numbered_getElem, List.getElem?_take_of_lt (show i < clampCount n from few),
      List.getElem?_drop, found]
    simp only [Option.map_some]
    rw [place, Nat.mod_add_mod, Nat.add_assoc]

theorem readFrom_outside (q : ReportQueue α) (ok : QueueOk q) (p n : Nat)
    (h : ∀ k : Nat, k < q.fill → p ≠ (q.get + k) % q.size) : q.readFrom p n = [] := by
  unfold ReportQueue.readFrom
  rw [spanOffset_none q ok p h]

theorem view_eq (q : ReportQueue α) : q.view =
    { put := if q.size = 0 then 0 else (q.get + q.records.length) % q.size, get := q.get
      fill := q.records.length, full := decide (q.records.length = q.size), lost := q.lost } := by
  unfold ReportQueue.view ReportQueue.full
  simp only [beq_eq_decide]
  rfl

/-! ### LOG_ACK (R165) -/

theorem acked_span (q : ReportQueue α) (ok : QueueOk q) (p k : Nat) (small : k < q.fill)
    (place : p = (q.get + k) % q.size) :
    q.acked p = some { q with get := (p + 1) % q.size, records := q.records.drop (k + 1) } := by
  unfold ReportQueue.acked ReportQueue.removeFront
  rw [(spanOffset_iff q ok p k).mpr ⟨small, place⟩, Option.map_some, place, Nat.mod_add_mod, Nat.add_assoc]

theorem acked_outside (q : ReportQueue α) (ok : QueueOk q) (p : Nat)
    (h : ∀ k : Nat, k < q.fill → p ≠ (q.get + k) % q.size) : q.acked p = none := by
  unfold ReportQueue.acked
  rw [spanOffset_none q ok p h]
  rfl

theorem exec_logAck (s t : State) (h : MgmtHeader) (q : QueueId) (p : Nat) (c : s.Carries h (.logAck h q p) t) :
    exec (.logAck h q p) s = .next (t.logAckOp h q p).closeEvent :=
  congrArg Host.Outcome.next (deliver_carries s t h (.logAck h q p) _ c)

theorem logAckOp_acked (t u : State) (h : MgmtHeader) (q : QueueId) (p : Nat) (found : t.ackQueue q p = some u) :
    t.logAckOp h q p = u.hand h.link (.logData h.tag q .acked (u.queueView q) []) := by
  unfold State.logAckOp
  rw [found]

theorem logAckOp_outside (t : State) (h : MgmtHeader) (q : QueueId) (p : Nat) (none : t.ackQueue q p = none) :
    t.logAckOp h q p = (t.raise .ackRange).hand h.link (.logData h.tag q .outOfSpan (t.queueView q) []) := by
  unfold State.logAckOp
  rw [none]

/-- Settles O51: a read is a span of the records, and an acknowledgment drops a span of them. -/
theorem logReadAndAck : Obligations.LogReadAndAck := by
  unfold Obligations.LogReadAndAck
  refine ⟨fun s t h q p n c => ?_, fun s p n ok => ⟨fun k small place => ⟨?_, fun i r few found => ?_⟩, fun out => ?_, ?_⟩,
    fun s p n ok => ⟨fun k small place => ⟨?_, fun i r few found => ?_⟩, fun out => ?_, ?_⟩,
    fun s t h p c ok => ⟨fun k small place => ?_, fun out => ?_⟩,
    fun s t h p c ok => ⟨fun k small place => ?_, fun out => ?_⟩⟩
  · exact congrArg Host.Outcome.next (deliver_carries s t h (.logRead h q p n) _ c)
  · exact (List.length_map _).trans (readFrom_span _ ok.1 p n k small place).1
  · show ((s.reports.q0.readFrom p n).map _)[i]? = _
    rw [List.getElem?_map, (readFrom_span _ ok.1 p n k small place).2 i r few found]
    rfl
  · show (s.reports.q0.readFrom p n).map _ = _
    rw [readFrom_outside _ ok.1 p n out, List.map_nil]
  · exact view_eq _
  · exact (List.length_map _).trans (readFrom_span _ ok.2.1 p n k small place).1
  · show ((s.reports.q1.readFrom p n).map _)[i]? = _
    rw [List.getElem?_map, (readFrom_span _ ok.2.1 p n k small place).2 i r few found]
    rfl
  · show (s.reports.q1.readFrom p n).map _ = _
    rw [readFrom_outside _ ok.2.1 p n out, List.map_nil]
  · exact view_eq _
  · rw [exec_logAck s t h .q0 p c, logAckOp_acked t _ h .q0 p]
    exact congrArg (Option.map _) (acked_span _ ok.1 p k small place)
  · rw [exec_logAck s t h .q0 p c, logAckOp_outside t h .q0 p]
    exact congrArg (Option.map _) (acked_outside _ ok.1 p out)
  · rw [exec_logAck s t h .q1 p c, logAckOp_acked t _ h .q1 p]
    exact congrArg (Option.map _) (acked_span _ ok.2.1 p k small place)
  · rw [exec_logAck s t h .q1 p c, logAckOp_outside t h .q1 p]
    exact congrArg (Option.map _) (acked_outside _ ok.2.1 p out)

/-! ### The clears (R156, R167, R170) -/

theorem clearLost_eq (q : ReportQueue α) (named : Bool) :
    q.clearLost named = { q with lost := q.lost && !named } := by
  unfold ReportQueue.clearLost
  cases named <;> simp

theorem clearStatuses_eq (s : State) (n : StatusSet) : s.clearStatuses n =
    ({ s with reports := { s.reports with
        status := s.reports.status &&& ~~~n
        q0 := { s.reports.q0 with lost := s.reports.q0.lost && !(n.getLsbD 1) }
        q1 := { s.reports.q1 with lost := s.reports.q1.lost && !(n.getLsbD 3) } } }, .accepted) := by
  unfold State.clearStatuses
  rw [clearLost_eq, clearLost_eq]
  rfl

theorem violation_clearFlags (s : State) (a b : DomainNo) (d : Nat) (ok : s.TablesOk) :
    (s.clearFlags a b).1.violation d =
      if min a.toNat 1023 ≤ d ∧ d ≤ min b.toNat 1023 then { s.violation d with flag := false }
      else s.violation d := by
  refine (Table.get_mapListed Violation.none _ s.reports.violations d ok.1.1 ?_).trans rfl
  split <;> rfl

/-- Settles O52: each clear is one operation on the reports, which its CONTROL reply follows. -/
theorem reportClears : Obligations.ReportClears := by
  unfold Obligations.ReportClears
  refine ⟨fun s t h c => ?_, fun s t h a b c ok => ⟨(t.clearFlags a b).1, ?_, rfl, fun d => ?_⟩,
    fun s t h n c => ?_⟩
  · exact congrArg Host.Outcome.next (deliver_control s t h (.captureClear h) _ c)
  · exact congrArg Host.Outcome.next (deliver_control s t h (.flagsClear h a b) (fun u => u.clearFlags a b) c)
  · exact violation_clearFlags t a b d ok
  · have event : exec (.notifyClear h n) s = .next
        ((t.clearStatuses n).1.hand h.link (.controlReply h.tag (t.clearStatuses n).2)).closeEvent :=
      congrArg Host.Outcome.next (deliver_control s t h (.notifyClear h n) (fun u => u.clearStatuses n) c)
    rw [event, clearStatuses_eq]

end Sys2Proof.Machine
end

section
/-! SUPPORT. The issue of a VERDICT: the entry offered to a link, the recording of a grant, the denial report, and the
closing of the entry (R50, R57 to R61, R70, R71). -/

namespace Sys2Proof.Machine

/-! ### The entry offered to a link (R50) -/

theorem waits_iff (e : OpenCheck) : e.waits = true ↔ e.phase = .waitRecord := by
  unfold OpenCheck.waits
  simp

theorem offered_test (e : OpenCheck) (l : LinkId) :
    (e.link == l && !e.waits) = true ↔ e.link = l ∧ e.phase ≠ .waitRecord := by
  rw [Bool.and_eq_true, beq_iff_eq, Bool.not_eq_true', ← Bool.not_eq_true, waits_iff]

theorem offered_iff (s : State) (l : LinkId) (e : OpenCheck) : s.offered l = some e ↔
    ∃ pre post : List OpenCheck, s.openChecks = pre ++ e :: post ∧ e.link = l ∧ e.phase ≠ .waitRecord ∧
      ∀ x ∈ pre, x.link = l → x.phase = .waitRecord := by
  unfold State.offered
  rw [List.find?_eq_some_iff_append, offered_test]
  constructor
  · rintro ⟨⟨link, decided⟩, pre, post, split, earlier⟩
    refine ⟨pre, post, split, link, decided, fun x member same => ?_⟩
    have no := earlier x member
    rw [Bool.not_eq_true', ← Bool.not_eq_true, offered_test] at no
    exact not_not.mp fun c => no ⟨same, c⟩
  · rintro ⟨pre, post, split, link, decided, earlier⟩
    refine ⟨⟨link, decided⟩, pre, post, split, fun x member => ?_⟩
    rw [Bool.not_eq_true', ← Bool.not_eq_true, offered_test]
    exact fun ⟨same, c⟩ => c (earlier x member same)

theorem offered_none_iff (s : State) (l : LinkId) : s.offered l = none ↔
    ∀ x ∈ s.openChecks, x.link = l → x.phase = .waitRecord := by
  unfold State.offered
  simp only [List.find?_eq_none, offered_test, not_and, not_not]

theorem exec_verdictIssue (s : State) (l : LinkId) (e : OpenCheck) (o : CheckOutcome) (h : s.offered l = some e)
    (p : e.phase = .deciding o) : exec (.verdictIssue l) s = .next (s.issue e o).closeEvent := by
  show execVerdictIssue l s = _
  unfold execVerdictIssue OpenCheck.outcome?
  rw [h]
  dsimp only
  rw [p]

theorem exec_verdictIssue_none (s : State) (l : LinkId) (h : s.offered l = none) :
    exec (.verdictIssue l) s = .next s := by
  show execVerdictIssue l s = _
  unfold execVerdictIssue
  rw [h]

/-! ### The recording of a grant (R70, R71) -/

theorem isNone_dirWay (s : State) (g w : Nat) (h : (dirWays g).find? (fun v => (s.dirWay v).isNone) = some w) :
    w ∈ dirWays g ∧ s.dirWay w = none := by
  refine ⟨List.mem_of_find?_eq_some h, ?_⟩
  have p := List.find?_some h
  simpa using p

theorem recordGrant_held (s : State) (g w : Nat) (l : LinkId) (h : s.dirFind g = some w) :
    s.recordGrant g l = (s.setWay w (dirEntryOf g (LinkSet.add (s.holders g) l)), true) := by
  unfold State.recordGrant
  rw [h]

theorem recordGrant_free (s : State) (g w : Nat) (l : LinkId) (h : s.dirFind g = none)
    (free : (dirWays g).find? (fun v => (s.dirWay v).isNone) = some w) :
    s.recordGrant g l = (s.setWay w (dirEntryOf g (LinkSet.single l)), true) := by
  unfold State.recordGrant
  rw [h, free]

theorem recordGrant_refused (s : State) (g : Nat) (l : LinkId) (h : s.dirFind g = none)
    (full : (dirWays g).find? (fun v => (s.dirWay v).isNone) = none) :
    s.recordGrant g l = ({ s with directoryMisses := satInc 4294967295 s.directoryMisses }, false) := by
  unfold State.recordGrant
  rw [h, full]

/-- The directory and its count of misses are all that a grant touches. -/
theorem recordGrant_whole (s : State) (g : Nat) (l : LinkId) : (s.recordGrant g l).1 = { s with
    directory := (s.recordGrant g l).1.directory, directoryMisses := (s.recordGrant g l).1.directoryMisses } := by
  unfold State.recordGrant
  split
  · rfl
  · split <;> rfl

theorem add_ne_zero (a : LinkSet) (l : LinkId) : LinkSet.add a l ≠ 0 :=
  LinkSet.ne_zero_of_has (l := l) (by rw [LinkSet.has_add]; simp)

theorem single_ne_zero (l : LinkId) : LinkSet.single l ≠ 0 :=
  LinkSet.ne_zero_of_has (l := l) (by rw [LinkSet.has_single]; simp)

/-- An empty holder set that takes a link holds that link alone. -/
theorem add_zero_link (l : LinkId) : LinkSet.add 0 l = LinkSet.single l := by
  revert l
  decide

theorem dirEntryOf_some (g : Nat) (a : LinkSet) (h : a ≠ 0) :
    dirEntryOf g a = some { granule := g, holders := a } := if_neg h

/-- No way of its set names a granule index that the directory does not find. -/
theorem dirFind_none_iff (s : State) (g : Nat) : s.dirFind g = none ↔
    ∀ w ∈ dirWays g, ∀ d : DirEntry, s.dirWay w = some d → d.granule ≠ g := by
  refine ⟨fun h w m d q => dirFind_none s g w d h q ((mem_dirWays g w).mp m), fun h => ?_⟩
  rw [Option.eq_none_iff_forall_ne_some]
  intro w found
  obtain ⟨set, d, way, granule, -⟩ := dirFind_some s g w found
  exact h w ((mem_dirWays g w).mpr set) d way granule

/-- Another granule index finds its holders in a way that stays. -/
theorem holders_of_ways (s t : State) (h : Nat)
    (ways : ∀ v ∈ dirWays h, ∀ d : DirEntry, d.granule = h → (t.dirWay v = some d ↔ s.dirWay v = some d)) :
    t.holders h = s.holders h := by
  have find : t.dirFind h = s.dirFind h := by
    unfold State.dirFind
    refine List.find?_congr fun v m => ?_
    have names (u : State) : (match u.dirWay v with | some e => e.granule == h | none => false) = true ↔
        ∃ d, d.granule = h ∧ u.dirWay v = some d := by
      cases u.dirWay v <;> simp
    exact Bool.eq_iff_iff.mpr ((names t).trans
      ((exists_congr fun d => and_congr_right fun e => ways v m d e).trans (names s).symm))
  unfold State.holders
  rw [find]
  cases found : s.dirFind h with
  | none => rfl
  | some w =>
    obtain ⟨set, d, way, granule, -⟩ := dirFind_some s h w found
    dsimp only
    rw [way, (ways w ((mem_dirWays h w).mpr set) d granule).mpr way]

/-- A way that named no other granule index and takes an entry of its own leaves the holders of the others. -/
theorem holders_setWay_ne (s : State) (g w h : Nat) (a : LinkSet) (ok : Table.wf none s.directory) (ne : h ≠ g)
    (own : ∀ d : DirEntry, s.dirWay w = some d → d.granule = g) :
    (s.setWay w (dirEntryOf g a)).holders h = s.holders h := by
  refine holders_of_ways _ _ _ fun v _ d named => ?_
  rw [dirWay_setWay _ _ _ _ ok]
  split
  next same =>
    subst same
    refine iff_of_false (fun c => ?_) fun c => ne (named.symm.trans (own d c))
    unfold dirEntryOf at c
    split at c
    · cases c
    · cases c
      exact ne named.symm
  next => exact Iff.rfl

theorem dirWays_rising (g : Nat) : (dirWays g).Pairwise (· < ·) := by
  unfold dirWays
  simp

/-- The ways below the one found for a granule index do not name it. -/
theorem dirFind_low (s : State) (g w : Nat) (h : s.dirFind g = some w) :
    ∀ v ∈ dirWays g, v < w → ∀ x : DirEntry, s.dirWay v = some x → x.granule ≠ g := by
  intro v member lower x way named
  obtain ⟨-, pre, post, split, earlier⟩ := List.find?_eq_some_iff_append.mp h
  have rising := dirWays_rising g
  rw [split] at rising member
  rcases List.mem_append.mp member with front | back
  · have no := earlier v front
    simp [way, named] at no
  · rcases List.mem_cons.mp back with same | back
    · omega
    · have later := (List.pairwise_cons.mp (List.pairwise_append.mp rising).2.1).1 v back
      omega

/-- The holder set written into the lowest way for a granule index is its holder set. -/
theorem holders_setWay_same (s : State) (g w : Nat) (a : LinkSet) (ok : Table.wf none s.directory) (full : a ≠ 0)
    (m : w ∈ dirWays g)
    (low : ∀ v ∈ dirWays g, v < w → ∀ x : DirEntry, s.dirWay v = some x → x.granule ≠ g) :
    (s.setWay w (dirEntryOf g a)).holders g = a := by
  refine holders_lowest _ g w { granule := g, holders := a } m ?_ rfl fun v member lower x way => ?_
  · rw [dirWay_setWay _ _ _ _ ok, if_pos rfl, dirEntryOf_some g a full]
  · rw [dirWay_setWay _ _ _ _ ok, if_neg (Nat.ne_of_lt lower)] at way
    exact low v member lower x way

/-- The three ways a grant goes (R71): into the way that holds the granule, into the lowest free way, or refused. -/
theorem recordGrant_cases (s : State) (g : Nat) (l : LinkId) :
    (∃ w, s.dirFind g = some w ∧
      s.recordGrant g l = (s.setWay w (dirEntryOf g (LinkSet.add (s.holders g) l)), true)) ∨
    (∃ w, s.dirFind g = none ∧ (dirWays g).find? (fun v => (s.dirWay v).isNone) = some w ∧
      s.recordGrant g l = (s.setWay w (dirEntryOf g (LinkSet.single l)), true)) ∨
    (s.dirFind g = none ∧ (dirWays g).find? (fun v => (s.dirWay v).isNone) = none ∧
      s.recordGrant g l = ({ s with directoryMisses := satInc 4294967295 s.directoryMisses }, false)) := by
  cases found : s.dirFind g with
  | some w => exact Or.inl ⟨w, rfl, recordGrant_held s g w l found⟩
  | none =>
    cases free : (dirWays g).find? (fun v => (s.dirWay v).isNone) with
    | some w => exact Or.inr (Or.inl ⟨w, rfl, rfl, recordGrant_free s g w l found free⟩)
    | none => exact Or.inr (Or.inr ⟨rfl, rfl, recordGrant_refused s g l found free⟩)

/-- When a grant is accepted (R71). -/
theorem recordGrant_accepted_iff (s : State) (g : Nat) (l : LinkId) : (s.recordGrant g l).2 = true ↔
    (∃ w ∈ dirWays g, ∃ d, s.dirWay w = some d ∧ d.granule = g) ∨ ∃ w ∈ dirWays g, s.dirWay w = none := by
  rcases recordGrant_cases s g l with ⟨w, found, e⟩ | ⟨w, found, free, e⟩ | ⟨found, full, e⟩ <;> rw [e]
  · obtain ⟨set, d, way, granule, -⟩ := dirFind_some s g w found
    exact iff_of_true rfl (Or.inl ⟨w, (mem_dirWays g w).mpr set, d, way, granule⟩)
  · exact iff_of_true rfl (Or.inr ⟨w, isNone_dirWay s g w free⟩)
  · refine iff_of_false Bool.false_ne_true ?_
    rintro (⟨w, member, d, way, granule⟩ | ⟨w, member, empty⟩)
    · exact (dirFind_none_iff s g).mp found w member d way granule
    · have no := List.find?_eq_none.mp full w member
      simp [empty] at no

/-- The holder sets after a grant that is accepted (R70, R71). -/
theorem recordGrant_holders (s : State) (g : Nat) (l : LinkId) (ok : Table.wf none s.directory)
    (accepted : (s.recordGrant g l).2 = true) :
    (s.recordGrant g l).1.holders g = LinkSet.add (s.holders g) l ∧
      (s.recordGrant g l).1.directoryMisses = s.directoryMisses := by
  rcases recordGrant_cases s g l with ⟨w, found, e⟩ | ⟨w, found, free, e⟩ | ⟨found, full, e⟩
  · obtain ⟨set, -⟩ := dirFind_some s g w found
    rw [e]
    exact ⟨holders_setWay_same s g w _ ok (add_ne_zero _ l) ((mem_dirWays g w).mpr set) (dirFind_low s g w found),
      rfl⟩
  · have unnamed := (dirFind_none_iff s g).mp found
    rw [e, holders_none s g unnamed, add_zero_link]
    exact ⟨holders_setWay_same s g w _ ok (single_ne_zero l) (isNone_dirWay s g w free).1
      fun v member _ => unnamed v member, rfl⟩
  · rw [e] at accepted
    exact absurd accepted Bool.false_ne_true

theorem recordGrant_holders_ne (s : State) (g h : Nat) (l : LinkId) (ok : Table.wf none s.directory) (ne : h ≠ g) :
    (s.recordGrant g l).1.holders h = s.holders h := by
  rcases recordGrant_cases s g l with ⟨w, found, e⟩ | ⟨w, found, free, e⟩ | ⟨found, full, e⟩ <;> rw [e]
  · obtain ⟨-, d, way, granule, -⟩ := dirFind_some s g w found
    refine holders_setWay_ne s g w h _ ok ne fun x q => ?_
    rw [way] at q
    cases q
    exact granule
  · refine holders_setWay_ne s g w h _ ok ne fun x q => ?_
    rw [(isNone_dirWay s g w free).2] at q
    cases q
  · rfl

/-- The recording of a grant, as the statement of the issue gives it (R71). -/
theorem grant_recorded (s : State) (g : Nat) (l : LinkId) (ok : s.TablesOk) :
    ((s.recordGrant g l).2 = true ↔ (∃ w ∈ dirWays g, ∃ d, s.dirWay w = some d ∧ d.granule = g) ∨
      ∃ w ∈ dirWays g, s.dirWay w = none) ∧
    ((s.recordGrant g l).2 = true →
      (s.recordGrant g l).1.holders g = LinkSet.add (s.holders g) l ∧
      (s.recordGrant g l).1.directoryMisses = s.directoryMisses) ∧
    ((s.recordGrant g l).2 = false → (s.recordGrant g l).1.directory = s.directory ∧
      (s.recordGrant g l).1.directoryMisses =
        (if s.directoryMisses < 2 ^ 32 - 1 then s.directoryMisses + 1 else s.directoryMisses)) ∧
    (∀ h : Nat, h ≠ g → (s.recordGrant g l).1.holders h = s.holders h) ∧
    (∀ w : Nat, w ∈ dirWays g ↔ w / 4 = g % 4096) ∧
    (∀ (w : Nat) (d : DirEntry), w ∈ dirWays g → s.dirWay w = some d → d.granule = g →
      (∀ v ∈ dirWays g, v < w → ∀ x : DirEntry, s.dirWay v = some x → x.granule ≠ g) →
      ∀ v : Nat, (s.recordGrant g l).1.dirWay v = if v = w
        then some { granule := g, holders := LinkSet.add d.holders l } else s.dirWay v) ∧
    ∀ w : Nat, w ∈ dirWays g → s.dirWay w = none →
      (∀ v ∈ dirWays g, v < w → s.dirWay v ≠ none) →
      (∀ v ∈ dirWays g, ∀ x : DirEntry, s.dirWay v = some x → x.granule ≠ g) →
      ∀ v : Nat, (s.recordGrant g l).1.dirWay v = if v = w
        then some { granule := g, holders := 1#4 <<< l.val } else s.dirWay v := by
  refine ⟨recordGrant_accepted_iff s g l, recordGrant_holders s g l ok.2.2, fun refused => ?_,
    fun h => recordGrant_holders_ne s g h l ok.2.2, mem_dirWays g, fun w d member way granule low v => ?_,
    fun w member empty low unnamed v => ?_⟩
  · rcases recordGrant_cases s g l with ⟨w, found, e⟩ | ⟨w, found, free, e⟩ | ⟨found, full, e⟩ <;>
      rw [e] at refused ⊢
    · exact absurd refused.symm Bool.false_ne_true
    · exact absurd refused.symm Bool.false_ne_true
    · refine ⟨rfl, ?_⟩
      simp only [satInc, Nat.reducePow, Nat.reduceSub]
  · rw [recordGrant_held s g w l (dirFind_lowest s g w d member way granule low),
      holders_lowest s g w d member way granule low, dirWay_setWay _ _ _ _ ok.2.2,
      dirEntryOf_some _ _ (add_ne_zero _ l)]
  · have free : (dirWays g).find? (fun v => (s.dirWay v).isNone) = some w :=
      find_way g w _ member (by rw [empty]; rfl) fun x m lower => by
        simpa [Option.isSome_iff_ne_none] using low x m lower
    rw [recordGrant_free s g w l ((dirFind_none_iff s g).mpr unnamed) free, dirWay_setWay _ _ _ _ ok.2.2,
      dirEntryOf_some _ _ (single_ne_zero l)]
    rfl

/-! ### The denial report (R58) -/

theorem isHeld_iff (r : TagRecord) : r.isHeld = true ↔ r.state = .owned ∨ r.state = .shared := by
  unfold TagRecord.isHeld
  simp

theorem denial_fields (s : State) (e : OpenCheck) (r : DenyReason) :
    let d : DenialRecord := s.denialOf e r
    d.time = s.timeBase ∧ d.link = e.link ∧ d.source = e.source ∧ d.address = e.address ∧
    d.access = e.access ∧ d.reason = r ∧
    (e.classified = none → d.domain = none ∧ d.decidedBy = none) ∧
    (∀ c : Classification, e.classified = some c → d.decidedBy = some c.decidedBy ∧
      d.domain = match c.result with
        | .domain x => some x
        | .block | .unclassified => none) ∧
    d.window = e.window.map (fun w => w.window) ∧
    d.granule = (if e.seen = none then none else e.granule) ∧
    (e.seen = none → d.stateSeen = none ∧ d.ownerSeen = none ∧ d.labelSeen = none) ∧
    (e.seen = some .unverifiable →
      d.stateSeen = some .unverifiable ∧ d.ownerSeen = none ∧ d.labelSeen = none) ∧
    ∀ x : TagRecord, e.seen = some (.verified x) →
      d.labelSeen = some x.label ∧
      d.ownerSeen = (if x.state = .owned ∨ x.state = .shared then some x.owner else none) ∧
      d.stateSeen = match x.state with
        | .free => some .free | .owned => some .owned | .shared => some .shared
        | .quarantined => some .quarantined | .fenced => none := by
  unfold State.denialOf OpenCheck.domain?
  refine ⟨rfl, rfl, rfl, rfl, rfl, rfl, fun h => ?_, fun c h => ?_, rfl, ?_, fun h => ?_, fun h => ?_,
    fun x h => ?_⟩
  · rw [h]
    exact ⟨rfl, rfl⟩
  · rw [h]
    exact ⟨rfl, by cases q : c.result <;> simp [q, ClassResult.domain?]⟩
  · cases e.seen <;> simp
  · rw [h]
    exact ⟨rfl, rfl, rfl⟩
  · rw [h]
    exact ⟨rfl, rfl, rfl⟩
  · rw [h]
    refine ⟨rfl, ?_, ?_⟩
    · show (if x.isHeld then some x.owner else none) = _
      simp only [isHeld_iff]
    · cases state : x.state <;> simp [seenState, state]

end Sys2Proof.Machine
end

section
/-! SUPPORT. The event in which a VERDICT is issued, as a whole state, and what it reports (R43, R44, R50, R57, R58, R60). -/

namespace Sys2Proof.Machine

/-! ### Cacheability (R60, R61) -/

theorem mayCache_iff (s : State) (e : OpenCheck) (o : CheckOutcome) : s.mayCache e o = true ↔
    (o = .allowRead ∨ o = .allowReadWrite) ∧ (∃ w, e.window = some w ∧ w.mode = .tagged) ∧
      e.cacheWanted = true ∧ (∃ a, (s.link e.link).announced = some a ∧ 0 < a.capacity.toNat) ∧
      (s.link e.link).state = .active ∧ (s.link e.link).flushOutstanding = false ∧ s.phase = .idle ∧
      e.stale = false ∧ e.oldEpoch = false := by
  have allows : o.allows = true ↔ o = .allowRead ∨ o = .allowReadWrite := by
    cases o <;> simp [CheckOutcome.allows]
  have tagged : (e.window.any fun w => w.mode == .tagged) = true ↔ ∃ w, e.window = some w ∧ w.mode = .tagged := by
    simp [Option.any_eq_true]
  have caches : (s.link e.link).caches = true ↔
      ∃ a, (s.link e.link).announced = some a ∧ 0 < a.capacity.toNat := by
    simp [Link.caches, Option.any_eq_true]
  unfold State.mayCache State.isActive
  simp only [Bool.and_eq_true, Bool.not_eq_true', beq_iff_eq, allows, tagged, caches, and_assoc]

theorem settleCache_asks (s : State) (e : OpenCheck) (o : CheckOutcome) (g : Nat) (may : s.mayCache e o = true)
    (h : e.granule = some g) : s.settleCache e o = s.recordGrant g e.link := by
  unfold State.settleCache
  rw [if_pos may, h]

theorem settleCache_declines (s : State) (e : OpenCheck) (o : CheckOutcome)
    (h : ¬ s.mayCache e o = true ∨ e.granule = none) : s.settleCache e o = (s, false) := by
  unfold State.settleCache
  split
  next may =>
    rcases h with no | no
    · exact absurd may no
    · rw [no]
  next => rfl

theorem settleCache_whole (s : State) (e : OpenCheck) (o : CheckOutcome) : (s.settleCache e o).1 = { s with
    directory := (s.settleCache e o).1.directory
    directoryMisses := (s.settleCache e o).1.directoryMisses } := by
  by_cases may : s.mayCache e o = true
  · cases h : e.granule with
    | some g =>
      rw [settleCache_asks s e o g may h]
      exact recordGrant_whole s g e.link
    | none => rw [settleCache_declines s e o (Or.inr h)]
  · rw [settleCache_declines s e o (Or.inl may)]

theorem settleCache_cacheable (s : State) (e : OpenCheck) (o : CheckOutcome) : (s.settleCache e o).2 = true ↔
    s.mayCache e o = true ∧ ∃ g : Nat, e.granule = some g ∧ (s.recordGrant g e.link).2 = true := by
  by_cases may : s.mayCache e o = true
  · cases h : e.granule with
    | some g => simp [settleCache_asks s e o g may h, may]
    | none => simp [settleCache_declines s e o (Or.inr h)]
  · simp [settleCache_declines s e o (Or.inl may), may]

/-! ### What an outcome reports (R43, R58) -/

/-- The part after the denial report of an outcome. -/
def State.told (s : State) (e : OpenCheck) : CheckOutcome → State
  | .deny r => if r.logged = true then s.storeDenial (s.denialOf e r) else s
  | .allowRead | .allowReadWrite => s

/-- The part after the status of a watched check has risen too. -/
def State.alarmed (s : State) (e : OpenCheck) (o : CheckOutcome) : State :=
  if (e.classified.bind Classification.watched).isSome = true then (s.told e o).raise .watchHit else s.told e o

/-- Where the watched match report of an issued check says the denial report went. -/
def State.placed (s : State) (e : OpenCheck) : CheckOutcome → Placement
  | .deny r => if r.logged = true then s.denialPlacement (s.denialOf e r) else .none
  | .allowRead | .allowReadWrite => .none

theorem told_whole (s : State) (e : OpenCheck) (o : CheckOutcome) :
    s.told e o = { s with reports := (s.told e o).reports } := by
  cases o with
  | deny r =>
    unfold State.told
    dsimp only
    split
    · rw [storeDenial_whole]
    · rfl
  | allowRead => rfl
  | allowReadWrite => rfl

theorem logOutcome_eq (s : State) (e : OpenCheck) (o : CheckOutcome) :
    s.logOutcome e o = (s.told e o).watchCheck e (s.placed e o) := by
  unfold State.logOutcome State.told State.placed
  cases o with
  | deny r =>
    dsimp only
    split <;> rfl
  | allowRead => rfl
  | allowReadWrite => rfl

theorem raise_reports_congr {s t : State} (h : t.reports = s.reports) (st : Status) :
    (t.raise st).reports = (s.raise st).reports := by
  unfold State.raise
  rw [h]
  split
  · exact h
  · rfl

theorem storeDenial_reports_congr {s t : State} (h : t.reports = s.reports) (r : DenialRecord) :
    (t.storeDenial r).reports = (s.storeDenial r).reports := by
  have count : (t.countViolation r.domain).reports.violations = (s.countViolation r.domain).reports.violations := by
    unfold State.countViolation State.setViolation State.violation
    cases r.domain <;> simp [h]
  rw [storeDenial_eq, storeDenial_eq, h, count]
  dsimp only
  split
  · refine raise_reports_congr ?_ _
    rfl
  · split
    · refine raise_reports_congr ?_ _
      rfl
    · rfl

theorem denialOf_congr {s t : State} (h : t.timeBase = s.timeBase) (e : OpenCheck) (r : DenyReason) :
    t.denialOf e r = s.denialOf e r := by
  unfold State.denialOf
  rw [h]

theorem told_congr {s t : State} (h : t.reports = s.reports) (k : t.timeBase = s.timeBase) (e : OpenCheck)
    (o : CheckOutcome) : (t.told e o).reports = (s.told e o).reports := by
  unfold State.told
  cases o with
  | deny r =>
    dsimp only
    split
    · rw [denialOf_congr k]
      exact storeDenial_reports_congr h _
    · exact h
  | allowRead => exact h
  | allowReadWrite => exact h

theorem alarmed_congr {s t : State} (h : t.reports = s.reports) (k : t.timeBase = s.timeBase) (e : OpenCheck)
    (o : CheckOutcome) : (t.alarmed e o).reports = (s.alarmed e o).reports := by
  unfold State.alarmed
  split
  · exact raise_reports_congr (told_congr h k e o) _
  · exact told_congr h k e o

theorem placed_congr {s t : State} (h : t.reports = s.reports) (k : t.timeBase = s.timeBase) (e : OpenCheck)
    (o : CheckOutcome) : t.placed e o = s.placed e o := by
  unfold State.placed State.denialPlacement
  cases o with
  | deny r =>
    dsimp only
    rw [denialOf_congr k, h]
  | allowRead => rfl
  | allowReadWrite => rfl

/-- The watched match report after an issued check. -/
def State.watchAfter (s : State) (e : OpenCheck) (o : CheckOutcome) : Option WatchReport :=
  match e.classified.bind Classification.watched with
  | none => s.watchReport
  | some n => some { element := n, message := .check, link := e.link, source := e.source, domain := e.domain?
                     placement := s.placed e o }

theorem writeWatch_whole (s : State) (w : WatchReport) : s.writeWatch w = { s with
    watchReport := some w, reports := (s.raise .watchHit).reports } := by
  unfold State.writeWatch State.raise
  split <;> rfl

theorem logOutcome_whole (s : State) (e : OpenCheck) (o : CheckOutcome) : s.logOutcome e o = { s with
    watchReport := s.watchAfter e o, reports := (s.alarmed e o).reports } := by
  have whole := told_whole s e o
  rw [logOutcome_eq]
  unfold State.alarmed State.watchAfter State.watchCheck
  generalize s.told e o = t at *
  cases e.classified.bind Classification.watched with
  | none => exact whole
  | some n =>
    dsimp only
    rw [writeWatch_whole, Option.isSome_some, if_pos rfl]
    generalize (t.raise .watchHit).reports = r
    rw [whole]

/-! ### The entry closes (R50, R64, R65) -/

theorem closeCheck_whole (s : State) (e : OpenCheck) : s.closeCheck e = { s with
    openChecks := s.openChecks.filter fun x => !x.named (e.link, e.tag)
    oldEpochCount := if e.oldEpoch then s.oldEpochCount - 1 else s.oldEpochCount
    fence := s.fence.map fun x => if e.stale = true ∧ e.granule = some x.granule
      then { x with staleCount := x.staleCount - 1 } else x } := by
  unfold State.closeCheck State.lowerStale State.updFence
  cases e.stale with
  | false => simp
  | true =>
    cases e.granule with
    | none => simp
    | some g =>
      have names (x : FenceEntry) : some g = some x.granule ↔ x.granule = g := by simp [eq_comm]
      simp only [true_and, names]
      rfl

/-! ### The whole event -/

/-- The part before the drains and the commit flush that the issue completes. -/
def State.issued (s : State) (e : OpenCheck) (o : CheckOutcome) : State :=
  (((s.settleCache e o).1.hand e.link (.verdict (e.verdict o (s.settleCache e o).2))).logOutcome e o).closeCheck e

theorem issue_eq (s : State) (e : OpenCheck) (o : CheckOutcome) : s.issue e o = (s.issued e o).settle := rfl

theorem issued_link (s : State) (e : OpenCheck) (o : CheckOutcome) (m : LinkId) : (s.issued e o).link m =
    if m = e.link then { s.link e.link with outbound := (s.link e.link).outbound ++
      [.verdict (e.verdict o (s.settleCache e o).2)] } else s.link m := by
  unfold State.issued
  rw [closeCheck_whole, logOutcome_whole]
  have same (l : LinkId) : (s.settleCache e o).1.link l = s.link l := by
    unfold State.link
    rw [settleCache_whole]
  show ((s.settleCache e o).1.hand e.link _).link m = _
  by_cases h : m = e.link
  · rw [if_pos h, h]
    exact (State.link_updLink_same ..).trans (by rw [same])
  · rw [if_neg h]
    exact (State.link_updLink_ne _ _ h).trans (same m)

theorem issued_whole (s : State) (e : OpenCheck) (o : CheckOutcome) : s.issued e o = { s with
    links := (s.issued e o).links
    directory := (s.settleCache e o).1.directory, directoryMisses := (s.settleCache e o).1.directoryMisses
    openChecks := s.openChecks.filter fun x => !x.named (e.link, e.tag)
    oldEpochCount := if e.oldEpoch then s.oldEpochCount - 1 else s.oldEpochCount
    fence := s.fence.map fun x => if e.stale = true ∧ e.granule = some x.granule
      then { x with staleCount := x.staleCount - 1 } else x
    watchReport := s.watchAfter e o, reports := (s.alarmed e o).reports } := by
  have cached := settleCache_whole s e o
  unfold State.issued
  generalize (s.settleCache e o).1 = c at *
  have report := alarmed_congr (s := s) (t := c.hand e.link (.verdict (e.verdict o (s.settleCache e o).2)))
    (by rw [cached]; rfl) (by rw [cached]; rfl) e o
  have watch : (c.hand e.link (.verdict (e.verdict o (s.settleCache e o).2))).watchAfter e o = s.watchAfter e o := by
    unfold State.watchAfter
    rw [placed_congr (s := s) (by rw [cached]; rfl) (by rw [cached]; rfl) e o, State.hand_watchReport, cached]
  rw [closeCheck_whole, logOutcome_whole, report, watch]
  generalize (s.alarmed e o).reports = r
  generalize s.watchAfter e o = w
  rw [cached]
  rfl

/-- The statuses after the issue: those of its reports, and COMMIT_DONE when it ends the commit flush. -/
theorem issue_status (s : State) (e : OpenCheck) (o : CheckOutcome) :
    (s.issue e o).closeEvent.reports.status =
      if (s.issued e o).phase = .flushing ∧ (s.issued e o).flushSet = 0 ∧ (s.issued e o).oldEpochCount = 0
      then (s.alarmed e o).reports.status ||| Status.commitDone.mask else (s.alarmed e o).reports.status := by
  have whole := issued_whole s e o
  rw [issue_eq, (settled_parts _).2.2.2]
  generalize s.issued e o = u at *
  have reports : u.reports = (s.alarmed e o).reports := by rw [whole]
  rw [reports]

/-- A status that the reports of the issue set stays set in its event. -/
theorem issue_status_of (s : State) (e : OpenCheck) (o : CheckOutcome) (st : Status)
    (h : StatusSet.has (s.alarmed e o).reports.status st = true) :
    StatusSet.has (s.issue e o).closeEvent.reports.status st = true := by
  rw [issue_status]
  split
  · rw [has_or, h]
    rfl
  · exact h

theorem alarmed_status_of (s : State) (e : OpenCheck) (o : CheckOutcome) (st : Status)
    (h : StatusSet.has (s.told e o).reports.status st = true) :
    StatusSet.has (s.alarmed e o).reports.status st = true := by
  unfold State.alarmed
  split
  · exact raise_has_of _ _ _ h
  · exact h

theorem alarmed_queues (s : State) (e : OpenCheck) (o : CheckOutcome) :
    (s.alarmed e o).reports.q0 = (s.told e o).reports.q0 ∧
      (s.alarmed e o).reports.violations = (s.told e o).reports.violations := by
  unfold State.alarmed
  split
  · exact raise_queues _ _
  · exact ⟨rfl, rfl⟩

/-- What the reports of an issue touch of the Report Unit. -/
theorem alarmed_reports (s : State) (e : OpenCheck) (o : CheckOutcome) : (s.alarmed e o).reports = { s.reports with
    q0 := (s.alarmed e o).reports.q0, violations := (s.alarmed e o).reports.violations
    status := (s.alarmed e o).reports.status, notifyDue := (s.alarmed e o).reports.notifyDue } := by
  have told : (s.told e o).reports = { s.reports with
      q0 := (s.told e o).reports.q0, violations := (s.told e o).reports.violations
      status := (s.told e o).reports.status, notifyDue := (s.told e o).reports.notifyDue } := by
    cases o with
    | deny r =>
      unfold State.told
      dsimp only
      split
      · rw [storeDenial_whole]
      · rfl
    | allowRead => rfl
    | allowReadWrite => rfl
  unfold State.alarmed
  split
  · generalize s.told e o = t at *
    rw [raise_eq, told]
  · exact told

theorem told_logged (s : State) (e : OpenCheck) (r : DenyReason) (h : r.logged = true) :
    s.told e (.deny r) = s.storeDenial (s.denialOf e r) := if_pos h

theorem told_quiet (s : State) (e : OpenCheck) (o : CheckOutcome)
    (h : ∀ r : DenyReason, o = .deny r → r.logged = false) : s.told e o = s ∧ s.placed e o = .none := by
  cases o with
  | deny r =>
    unfold State.told State.placed
    dsimp only
    rw [h r rfl]
    exact ⟨if_neg Bool.false_ne_true, if_neg Bool.false_ne_true⟩
  | allowRead => exact ⟨rfl, rfl⟩
  | allowReadWrite => exact ⟨rfl, rfl⟩

/-- Where a logged denial goes (R44, R161). -/
theorem placed_logged (s : State) (e : OpenCheck) (r : DenyReason) (h : r.logged = true) :
    (s.reports.q0.fill < s.reports.q0.size ∨ (0 < s.reports.q0.size ∧ s.reports.q0.mode = .overwrite) →
      s.placed e (.deny r) = .q0 ((s.reports.q0.get + s.reports.q0.fill) % s.reports.q0.size)) ∧
    (s.reports.q0.size ≤ s.reports.q0.fill → s.reports.q0.size = 0 ∨ s.reports.q0.mode = .blocking →
      s.placed e (.deny r) = .lost) := by
  have place : s.placed e (.deny r) = s.denialPlacement (s.denialOf e r) := if_pos h
  rw [place]
  unfold State.denialPlacement
  refine ⟨fun stored => ?_, fun full lost => by rw [push_lost _ _ full lost]⟩
  by_cases room : s.reports.q0.fill < s.reports.q0.size
  · rw [push_room _ _ room, ← put_of_places _ (by omega)]
  · obtain ⟨places, overwrites⟩ := stored.resolve_left room
    rw [push_over _ _ places (by omega) overwrites, ← put_of_places _ places]

/-- The marks of a closed entry leave the other fence entries alone, and lower the stale count of its own. -/
theorem issue_fence (s : State) (e : OpenCheck) (o : CheckOutcome) (g : Nat) :
    ∃ p : FencePhase, (s.issue e o).closeEvent.fenceOf g = (s.fenceOf g).map fun f => { f with
      staleCount := if e.stale = true ∧ e.granule = some g then f.staleCount - 1 else f.staleCount
      phase := p } := by
  have fence := (settled_parts (s.issued e o)).1
  have table : (s.issued e o).fence = s.fence.map fun x => if e.stale = true ∧ e.granule = some x.granule
      then { x with staleCount := x.staleCount - 1 } else x := by rw [issued_whole]
  have drain := find_fence_map (s.issued e o).fence (fun e => if decide (e.phase = .revoking ∧ e.consulted = true ∧
    e.pending = 0 ∧ e.staleCount = 0) then { e with phase := .finishing } else e) g fun x => by split <;> rfl
  have lower := find_fence_map s.fence (fun x => if e.stale = true ∧ e.granule = some x.granule
      then { x with staleCount := x.staleCount - 1 } else x) g fun x => by split <;> rfl
  rw [issue_eq]
  unfold State.fenceOf
  rw [fence, drain, table, lower]
  cases found : s.fence.find? (fun x => x.granule == g) with
  | none => exact ⟨.fencing, rfl⟩
  | some f =>
    have granule : f.granule = g := fenceOf_granule s g f found
    subst granule
    simp only [Option.map_some]
    by_cases mark : e.stale = true ∧ e.granule = some f.granule
    · simp only [if_pos mark]
      split
      next => exact ⟨.finishing, rfl⟩
      next => exact ⟨f.phase, rfl⟩
    · simp only [if_neg mark]
      split
      next => exact ⟨.finishing, rfl⟩
      next => exact ⟨f.phase, rfl⟩

/-- Settles O20: the offered check is the oldest of its link that no longer waits, and its grant decides what the verdict carries. -/
theorem verdictIssue : Obligations.VerdictIssue := by
  unfold Obligations.VerdictIssue
  refine ⟨fun s l e o offered decided => ?_, grant_recorded,
    fun s l => ⟨offered_iff s l, offered_none_iff s l, exec_verdictIssue_none s l⟩, denial_fields⟩
  obtain ⟨-, -, -, link, -, -⟩ := (offered_iff s l e).mp offered
  subst link
  intro eight q told raised
  have told_is : told = s.told e o := by cases o <;> rfl
  have raised_is : raised = s.alarmed e o := by
    show (if _ then told.raise .watchHit else told) = _
    rw [told_is]
    rfl
  have may : eight ↔ s.mayCache e o = true := (mayCache_iff s e o).symm
  clear_value eight told raised
  subst told_is raised_is
  have whole := issued_whole s e o
  have settled := settled_eq (s.issued e o)
  have status := issue_status s e o
  have status_of := issue_status_of s e o
  obtain ⟨send, others⟩ := settled_links (s.issued e o)
  have fence := issue_fence s e o
  have queues := alarmed_queues s e o
  have link := issued_link s e o
  have exec_t := exec_verdictIssue s e.link e o offered decided
  rw [issue_eq] at status status_of fence exec_t
  generalize s.issued e o = u at *
  generalize ht : u.settle.closeEvent = t at *
  have q0 : t.reports.q0 = (s.told e o).reports.q0 := by rw [settled, whole, ← queues.1]
  have violations : t.reports.violations = (s.told e o).reports.violations := by rw [settled, whole, ← queues.2]
  have watch : t.watchReport = s.watchAfter e o := by rw [settled, whole]
  have directory : t.directory = (s.settleCache e o).1.directory ∧
      t.directoryMisses = (s.settleCache e o).1.directoryMisses := by
    rw [settled, whole]
    exact ⟨rfl, rfl⟩
  refine ⟨t, e.verdict o (s.settleCache e o).2, exec_t, ?_, rfl, rfl, rfl, rfl, rfl, fun r seen => ?_, fun unseen => ?_,
    ?_, fun g eight named => ?_, fun out => ?_, ?_, ?_, fun g f stale named found => ?_, fun g apart => ?_,
    ?_, fun m => ?_, ⟨u, ht.symm, ?_, ?_, ?_, ?_, ?_, link, ?_, ?_⟩, fun r denied logged room => ?_,
    fun r denied logged => ⟨?_, ?_, fun st set => ?_⟩, fun quiet => ?_, fun unwatched => ?_, fun n watched => ?_⟩
  · refine List.mem_of_mem_filter (p := fun m => !m.isNotify) ?_
    rw [others, link, if_pos rfl]
    simp [OutMsg.isNotify]
  · show (match e.seen with | some (.verified r) => some r.generation | _ => none) = _
    rw [seen]
  · show (match e.seen with | some (.verified r) => some r.generation | _ => none) = _
    rcases unseen with seen | seen <;> rw [seen]
  · rw [may]
    exact settleCache_cacheable s e o
  · rw [directory.1, directory.2, settleCache_asks s e o g (may.mp eight) named]
    exact ⟨rfl, rfl⟩
  · rw [directory.1, directory.2, settleCache_declines s e o (out.imp_left fun no c => no (may.mpr c))]
    exact ⟨rfl, rfl⟩
  · rw [settled, whole]
  · rw [settled, whole]
  · obtain ⟨p, entry⟩ := fence g
    rw [entry, found]
    exact ⟨_, rfl, by simp only [if_pos (And.intro stale named)]⟩
  · obtain ⟨p, entry⟩ := fence g
    have free : ¬ (e.stale = true ∧ e.granule = some g) := by
      rintro ⟨stale, named⟩
      rcases apart with a | a
      · rw [a] at stale
        exact Bool.false_ne_true stale
      · exact a named
    rw [entry]
    simp only [if_neg free, Option.map_map]
    rfl
  · have reports := alarmed_reports s e o
    generalize (s.alarmed e o).reports = r at *
    rw [settled, whole, reports]
  · rw [send, link]
    split
    next same => rw [same]
    next => rfl
  · rw [whole]
  · rw [whole]
  · rw [settled]
  · rw [whole]
  · rw [whole]
  · rw [whole]
  · exact status
  · rw [q0, denied, told_logged s e r logged, storeDenial_q0, push_room _ _ room]
  · rw [q0, denied, told_logged s e r logged]
  · rw [violations, denied, told_logged s e r logged]
  · refine status_of st (alarmed_status_of s e o st ?_)
    rw [denied, told_logged s e r logged]
    exact set
  · rw [q0, violations, (told_quiet s e o quiet).1]
    exact ⟨rfl, rfl⟩
  · rw [watch]
    unfold State.watchAfter
    rw [unwatched]
  · refine ⟨s.placed e o, ?_, status_of _ ?_, fun quiet => (told_quiet s e o quiet).2, fun r denied logged => ?_⟩
    · rw [watch]
      unfold State.watchAfter
      rw [watched]
    · unfold State.alarmed
      rw [watched, Option.isSome_some, if_pos rfl]
      exact raise_has _ _
    · rw [denied]
      exact placed_logged s e r logged

end Sys2Proof.Machine
end

section
/-! SUPPORT. What the channel operations make of their channel: a memory request, the writes of POSTING, coming to rest,
and the CONTROL operations and the timer that use them (chapter 7). -/

namespace Sys2Proof.Machine

/-! ### One channel after several changes -/

theorem updChan_updChan (s : State) (c : ChannelId) (f g : Channel → Channel) :
    (s.updChan c f).updChan c g = s.updChan c fun k => g (f k) := by
  have read := State.chan_updChan_same s c f
  unfold State.updChan at *
  rw [read]
  simp only [Vector.set_set]

theorem hand_updChan (s : State) (c : ChannelId) (f : Channel → Channel) (l : LinkId) (m : OutMsg) :
    (s.updChan c f).hand l m = (s.hand l m).updChan c f := rfl

theorem updChan_congr (s : State) (c : ChannelId) (f g : Channel → Channel) (h : f (s.chan c) = g (s.chan c)) :
    s.updChan c f = s.updChan c g := by
  unfold State.updChan
  rw [h]

/-- The tag of a channel's next memory request (R117). -/
def State.nextTag (s : State) (c : ChannelId) : Byte := BitVec.ofNat 8 (128 * c.val + (s.chan c).sequence)

/-- A channel that has handed a memory request (R117, R118). -/
def Channel.requests (k : Channel) (kind : MemKind) (tag : Byte) (expiry : Time) : Channel :=
  { k with sequence := (k.sequence + 1) % 128, memRequest := some { kind := kind, tag := tag, expiry := expiry } }

/-- A change of a channel that keeps its fetch link and its sequence, then a memory request. -/
theorem sendMem_updChan (s : State) (c : ChannelId) (f : Channel → Channel) (kind : MemKind) (msg : Byte → OutMsg)
    (link : (f (s.chan c)).fetchLink = (s.chan c).fetchLink) (seq : (f (s.chan c)).sequence = (s.chan c).sequence) :
    (s.updChan c f).sendMem c kind msg = (s.hand (s.chan c).fetchLink (msg (s.nextTag c))).updChan c fun k =>
      (f k).requests kind (s.nextTag c) (s.timeBase + BitVec.ofNat 48 s.memoryTimeout) := by
  unfold State.sendMem State.nextTag
  simp only [State.chan_updChan_same, link, seq]
  rw [hand_updChan, updChan_updChan]
  rfl

theorem postWrite_eq (s : State) (c : ChannelId) (stage : PostStage) (a : Quad) (data : List Byte) :
    s.postWrite c stage a data = (s.hand (s.chan c).fetchLink (.memWrite (s.nextTag c) a data)).updChan c fun k =>
      ({ k with state := .posting, posting := stage } : Channel).requests .write (s.nextTag c)
        (s.timeBase + BitVec.ofNat 48 s.memoryTimeout) :=
  sendMem_updChan s c (fun k => { k with state := .posting, posting := stage }) .write
    (fun tag => .memWrite tag a data) rfl rfl

/-- A fetch after a change of its channel (R120). -/
theorem fetchBlock_updChan (s : State) (c : ChannelId) (f : Channel → Channel)
    (seq : (f (s.chan c)).sequence = (s.chan c).sequence) :
    (s.updChan c f).fetchBlock c =
      (s.hand (f (s.chan c)).fetchLink (.memRead (s.nextTag c) (f (s.chan c)).blockAddr)).updChan c fun k =>
        ({ f k with state := .fetching, posting := .none } : Channel).requests .read (s.nextTag c)
          (s.timeBase + BitVec.ofNat 48 s.memoryTimeout) := by
  unfold State.fetchBlock State.sendMem State.nextTag
  simp only [updChan_updChan, State.chan_updChan_same, seq]
  rw [hand_updChan, updChan_updChan]
  rfl

/-! ### Coming to rest (R132) -/

theorem chan_of_chains {s t : State} (h : t.chains = s.chains) (c : ChannelId) : t.chan c = s.chan c := by
  unfold State.chan
  rw [h]

theorem restChannel_chains (s : State) (c : ChannelId) (st : ChannelState) (x : ChainCause) (o : Nat) :
    (s.restChannel c st x o).chains = (s.updChan c fun k => k.atRest st x o).chains := by
  unfold State.restChannel
  split
  · rw [report_chains, raise_chains]
  · rw [raise_chains]

theorem restChannel_chan (s : State) (c : ChannelId) (st : ChannelState) (x : ChainCause) (o : Nat) :
    (s.restChannel c st x o).chan c = (s.chan c).atRest st x o :=
  (chan_of_chains (restChannel_chains s c st x o) c).trans (State.chan_updChan_same s c _)

theorem report_has_of (s : State) (k : EventKind) (l : Option LinkId) (g : Option Nat) (d : Option DomainNo)
    (x : EventDetail) (st : Status) (h : StatusSet.has s.reports.status st = true) :
    StatusSet.has (s.report k l g d x).reports.status st = true := storeEvent_has_of _ _ _ h

theorem restChannel_ends (s : State) (c : ChannelId) (st : ChannelState) (x : ChainCause) (o : Nat) :
    StatusSet.has (s.restChannel c st x o).reports.status (chainEnd c) = true := by
  unfold State.restChannel
  split
  · exact report_has_of _ _ _ _ _ _ _ (raise_has _ _)
  · exact raise_has _ _

theorem closeEvent_chains (s : State) : s.closeEvent.chains = s.chains := by rw [closeEvent_eq]

theorem closeEvent_chan (s : State) (c : ChannelId) : s.closeEvent.chan c = s.chan c :=
  chan_of_chains (closeEvent_chains s) c

/-- An event whose last act is that a channel comes to rest. -/
theorem restEvent_chan (s : State) (c : ChannelId) (st : ChannelState) (x : ChainCause) (o : Nat) :
    (s.restChannel c st x o).closeEvent.chan c = (s.chan c).atRest st x o :=
  (closeEvent_chan _ c).trans (restChannel_chan s c st x o)

theorem restEvent_only (s : State) (c : ChannelId) (st : ChannelState) (x : ChainCause) (o : Nat) :
    s.OnlyChannel (s.restChannel c st x o).closeEvent c :=
  (onlyChannel_restChannel s c st x o).trans (onlyChannel_closeEvent _ c)

/-! ### The memory timer (R118, R120, R126) -/

theorem memoryTimeoutOf_fetching (s : State) (c : ChannelId) (h : (s.chan c).state = .fetching) :
    s.memoryTimeoutOf c = s.restChannel c .idle .fetchTimeout 0 := by
  unfold State.memoryTimeoutOf
  rw [h]

theorem memoryTimeoutOf_posting (s : State) (c : ChannelId) (h : (s.chan c).state = .posting) :
    s.memoryTimeoutOf c = s.restChannel c .idle .writeTimeout
      (if (s.chan c).posting = .badStatus then 0 else (s.chan c).rangeCount) := by
  unfold State.memoryTimeoutOf
  rw [h]
  simp only [beq_iff_eq]

/-- Settles O10: the channel comes to rest with the cause of the state it waits in. -/
theorem memoryTimerEndsChain : Obligations.MemoryTimerEndsChain := by
  unfold Obligations.MemoryTimerEndsChain
  intro s c m request due waiting
  have event : exec (.memoryTimerExpiry c) s = .next (s.memoryTimeoutOf c).closeEvent := by
    show execMemoryTimerExpiry c s = _
    unfold execMemoryTimerExpiry
    rw [request]
    exact if_pos due
  have ends (x : ChainCause) (o : Nat) : StatusSet.has (s.restChannel c .idle x o).closeEvent.reports.status
      (if c = 0 then .chain0End else .chain1End) = true := by
    rw [(closeEvent_parts _).2.2.2.1]
    exact restChannel_ends s c .idle x o
  rw [event]
  rcases waiting with fetching | posting
  · rw [memoryTimeoutOf_fetching s c fetching, fetching]
    refine ⟨_, rfl, ?_, ?_, ?_, ends _ _, restEvent_only .., fun _ => rfl, nofun⟩
    · rw [restEvent_chan]; rfl
    · rw [restEvent_chan]; rfl
    · rw [restEvent_chan, if_pos rfl]; rfl
  · rw [memoryTimeoutOf_posting s c posting, posting]
    refine ⟨_, rfl, ?_, ?_, ?_, ends _ _, restEvent_only .., nofun, fun _ => rfl⟩
    · rw [restEvent_chan]; rfl
    · rw [restEvent_chan]; rfl
    · rw [restEvent_chan, if_neg (show ¬ ChannelState.posting = ChannelState.fetching by decide)]; rfl

/-! ### CHAIN_START (R119) -/

theorem alignedAddr_iff (n : Nat) (a : Quad) : alignedAddr n a = true ↔ a.toNat % n = 0 ∧ a.toNat < 2 ^ 52 := by
  unfold alignedAddr
  simp only [Bool.and_eq_true, decide_eq_true_eq]

theorem chainStartArgOk_iff (a : ChainStartArg) : ChainStartArgOk a = true ↔
    (a.firstBlock.toNat % 32 = 0 ∧ a.firstBlock.toNat < 2 ^ 52) ∧
      ∀ n, a.notifyAddr = some n → n.toNat % 8 = 0 ∧ n.toNat < 2 ^ 52 := by
  unfold ChainStartArgOk
  rw [Bool.and_eq_true, alignedAddr_iff, Option.all_eq_true]
  simp only [alignedAddr_iff]

theorem linkOf_link (n : Nat) (l : LinkId) (h : n = l.val) : linkOf n = some l := by
  subst h
  exact dif_pos l.isLt

theorem linkOf_above (n : Nat) (h : 3 < n) : linkOf n = none := dif_neg (by omega)

theorem exec_chainStart (s t : State) (h : MgmtHeader) (a : ChainStartArg) (c : s.Carries h (.chainStart h a) t) :
    exec (.chainStart h a) s = .next
      ((t.chainStartOp a).1.hand h.link (.controlReply h.tag (t.chainStartOp a).2)).closeEvent :=
  congrArg Host.Outcome.next (deliver_control s t h (.chainStart h a) (fun u => u.chainStartOp a) c)

theorem chainStartOp_refused (s : State) (a : ChainStartArg)
    (bad : 1 < a.channel.toNat ∨ 3 < a.fetchLink.toNat ∨ a.firstBlock.toNat % 32 ≠ 0 ∨
      2 ^ 52 ≤ a.firstBlock.toNat ∨ ∃ n, a.notifyAddr = some n ∧ (n.toNat % 8 ≠ 0 ∨ 2 ^ 52 ≤ n.toNat)) :
    s.chainStartOp a = (s, .refused .badArgument) := by
  unfold State.chainStartOp
  split
  next c l channel link =>
    refine if_pos ?_
    rw [Bool.not_eq_true', ← Bool.not_eq_true, chainStartArgOk_iff]
    rintro ⟨⟨aligned, below⟩, notify⟩
    rcases bad with above | above | no | no | ⟨n, named, no | no⟩
    · rw [channelOf_above _ above] at channel
      cases channel
    · rw [linkOf_above _ above] at link
      cases link
    · exact no aligned
    · exact Nat.not_le.mpr below no
    · exact no (notify n named).1
    · exact Nat.not_le.mpr (notify n named).2 no
  next => rfl

/-- CHAIN_START past its argument tests. -/
theorem chainStartOp_sound (s : State) (a : ChainStartArg) (c : ChannelId) (l : LinkId)
    (channel : a.channel.toNat = c.val) (link : a.fetchLink.toNat = l.val) (ok : ChainStartArgOk a = true) :
    s.chainStartOp a = if (s.chan c).state ≠ .idle then (s, .refused .channelBusy)
      else if !s.isActive l then (s, .refused .linkNotActive)
      else ((s.updChan c fun k => k.begin a l).fetchBlock c, .accepted) := by
  unfold State.chainStartOp
  rw [channelOf_channel _ c channel, linkOf_link _ l link, ok]
  rfl

theorem isActive_iff (s : State) (l : LinkId) : s.isActive l = true ↔ (s.link l).state = .active := by
  unfold State.isActive
  exact beq_iff_eq

/-- Settles O46: the tests come in order, and a channel that passes them fetches its first block. -/
theorem chainStart : Obligations.ChainStart := by
  unfold Obligations.ChainStart
  intro s t h a carried
  have event := exec_chainStart s t h a carried
  refine ⟨fun bad => ?_, fun c l channel link aligned below notify => ?_⟩
  · show exec _ s = _
    rw [event, chainStartOp_refused t a bad]
  have sound := chainStartOp_sound t a c l channel link ((chainStartArgOk_iff a).mpr ⟨⟨aligned, below⟩, notify⟩)
  refine ⟨fun busy => ?_, fun idle out => ?_, fun idle active => ?_⟩
  · show exec _ s = _
    rw [event, sound, if_pos busy]
  · show exec _ s = _
    rw [event, sound, if_neg (not_not.mpr idle), if_pos]
    rw [Bool.not_eq_true', ← Bool.not_eq_true, isActive_iff]
    exact out
  · dsimp only
    rw [event, sound, if_neg (not_not.mpr idle), if_neg, fetchBlock_updChan t c (fun k => k.begin a l) rfl]
    · rfl
    · rw [(isActive_iff t l).mpr active]
      exact Bool.false_ne_true

end Sys2Proof.Machine
end

section
/-! SUPPORT. How a channel that executes goes on, completes its block and leaves POSTING (R123 to R127, R131, R132), and
the CONTROL operations on a channel (R128, R129, R133). -/

namespace Sys2Proof.Machine

/-! ### Coming to rest, as the statements write it (R132) -/

theorem raise_timeBase (s : State) (st : Status) : (s.raise st).timeBase = s.timeBase := by rw [raise_eq]

/-- The cause of a coming to rest that is a fault is recorded in Q1. -/
theorem restChannel_fault (s : State) (c : ChannelId) (st : ChannelState) (x : ChainCause) (o : Nat)
    (fault : x.isFault = true) : s.restChannel c st x o =
      ((s.updChan c fun k => k.atRest st x o).raise (chainEnd c)).storeEvent
        { time := s.timeBase, kind := .chainFault, link := some (s.chan c).fetchLink, granule := none
          domain := none, detail := .chain x } := by
  unfold State.restChannel State.report
  rw [if_pos fault, raise_timeBase]
  rfl

/-! ### Executing (R123 to R125, R131) -/

theorem settleChannel_busy (s : State) (c : ChannelId) (h : (s.chan c).inFence ≠ 0) : s.settleChannel c = s := by
  unfold State.settleChannel
  dsimp only
  split
  · exact if_pos h
  · rfl

theorem settleChannel_elsewhere (s : State) (c : ChannelId) (h : (s.chan c).state ≠ .executing) :
    s.settleChannel c = s := by
  unfold State.settleChannel
  dsimp only
  split
  next executing _ => exact absurd executing h
  next => rfl

theorem settleChannel_held (s : State) (c : ChannelId) (b : Block) (executing : (s.chan c).state = .executing)
    (held : (s.chan c).block = some b) (free : (s.chan c).inFence = 0) : s.settleChannel c =
      if (s.chan c).nextOffset = (s.chan c).rangeCount then
        if (s.chan c).linkLost then (s.blockFailure c b).restChannel c .idle .linkLost (s.chan c).nextOffset
        else (s.blockFailure c b).enterPosting c b
      else if (s.chan c).linkLost then s.restChannel c .idle .linkLost (s.chan c).nextOffset
      else if (s.chan c).errorStop then s.restChannel c .stopped .stepErrorStop (s.chan c).nextOffset
      else if (s.chan c).stopRequested then s.restChannel c .stopped .stoppedByRequest (s.chan c).nextOffset
      else s := by
  unfold State.settleChannel
  simp only [executing, held, free, ne_eq, not_true_eq_false, if_false]

/-! ### Posting (R126, R127) -/

/-- A write of POSTING after a change of its channel that keeps its fetch link and its sequence. -/
theorem postWrite_updChan (s : State) (c : ChannelId) (f : Channel → Channel) (stage : PostStage) (a : Quad)
    (data : List Byte) (link : (f (s.chan c)).fetchLink = (s.chan c).fetchLink)
    (seq : (f (s.chan c)).sequence = (s.chan c).sequence) : (s.updChan c f).postWrite c stage a data =
      (s.hand (s.chan c).fetchLink (.memWrite (s.nextTag c) a data)).updChan c fun k =>
        ({ f k with state := .posting, posting := stage } : Channel).requests .write (s.nextTag c)
          (s.timeBase + BitVec.ofNat 48 s.memoryTimeout) := by
  unfold State.postWrite
  rw [updChan_updChan]
  exact sendMem_updChan s c (fun k => { f k with state := .posting, posting := stage }) .write
    (fun tag => .memWrite tag a data) link seq

theorem postNotify_writes (s : State) (c : ChannelId) (b : Block) (a : Quad) (address : (s.chan c).notifyAddr = some a)
    (due : b.notify = true ∨ b.nextAddr = 0) :
    s.postNotify c b = s.postWrite c .notify a (bytes8 (s.chan c).notifyValue) := by
  unfold State.postNotify
  rw [address]
  exact if_pos (by simpa using due)

theorem postNotify_leaves (s : State) (c : ChannelId) (b : Block)
    (silent : (s.chan c).notifyAddr = none ∨ (b.notify = false ∧ b.nextAddr ≠ 0)) :
    s.postNotify c b = s.leavePosting c b := by
  unfold State.postNotify
  split
  next a address =>
    rcases silent with absent | ⟨quiet, next⟩
    · rw [address] at absent
      cases absent
    · exact if_neg (by simpa [quiet] using next)
  next => rfl

theorem fetchBlock_eq (s : State) (c : ChannelId) : s.fetchBlock c =
    (s.hand (s.chan c).fetchLink (.memRead (s.nextTag c) (s.chan c).blockAddr)).updChan c fun k =>
      ({ k with state := .fetching, posting := .none } : Channel).requests .read (s.nextTag c)
        (s.timeBase + BitVec.ofNat 48 s.memoryTimeout) := by
  unfold State.fetchBlock
  dsimp only
  rw [State.chan_updChan_same]
  exact sendMem_updChan s c (fun k => { k with state := .fetching, posting := .none }) .read
    (fun tag => .memRead tag (s.chan c).blockAddr) rfl rfl

theorem leavePosting_goes_on (s : State) (c : ChannelId) (b : Block) (next : b.nextAddr ≠ 0) : s.leavePosting c b =
    let t := s.updChan c fun k => { k with blockAddr := b.nextAddr, block := none }
    if (s.chan c).errorStop then t.restChannel c .stopped .stepErrorStop 0
    else if (s.chan c).stopRequested then t.restChannel c .stopped .stoppedByRequest 0
    else if b.stopAfter then t.restChannel c .stopped .stoppedByBlock 0
    else t.fetchBlock c := if_neg next

/-! ### CHAIN_STOP, CHAIN_RESUME and CHAIN_STATUS -/

theorem exec_chainStop (s t : State) (h : MgmtHeader) (b : Byte) (c : s.Carries h (.chainStop h b) t) :
    exec (.chainStop h b) s = .next ((t.onChannel b t.chainStopOp).1.hand h.link
      (.controlReply h.tag (t.onChannel b t.chainStopOp).2)).closeEvent :=
  congrArg Host.Outcome.next (deliver_control s t h (.chainStop h b) (fun u => u.onChannel b u.chainStopOp) c)

theorem exec_chainResume (s t : State) (h : MgmtHeader) (b : Byte) (c : s.Carries h (.chainResume h b) t) :
    exec (.chainResume h b) s = .next ((t.onChannel b t.chainResumeOp).1.hand h.link
      (.controlReply h.tag (t.onChannel b t.chainResumeOp).2)).closeEvent :=
  congrArg Host.Outcome.next (deliver_control s t h (.chainResume h b) (fun u => u.onChannel b u.chainResumeOp) c)

theorem exec_chainStatus (s t : State) (h : MgmtHeader) (b : Byte) (c : s.Carries h (.chainStatus h b) t) :
    exec (.chainStatus h b) s = .next ((t.onChannel b t.chainStatusOp).1.hand h.link
      (.controlReply h.tag (t.onChannel b t.chainStatusOp).2)).closeEvent :=
  congrArg Host.Outcome.next (deliver_control s t h (.chainStatus h b) (fun u => u.onChannel b u.chainStatusOp) c)

/-- A CHAIN_STOP of a channel that works records the stop request, and the channel acts on it where it can. -/
theorem chainStopOp_works (s : State) (c : ChannelId)
    (works : (s.chan c).state = .fetching ∨ (s.chan c).state = .executing ∨ (s.chan c).state = .posting) :
    s.chainStopOp c = ((s.updChan c fun k => { k with stopRequested := true }).settleChannel c, .accepted) := by
  unfold State.chainStopOp
  rcases works with st | st | st <;> rw [st]

theorem chainStopOp_waits (s : State) (c : ChannelId) (waits : (s.chan c).state = .fetching ∨
      (s.chan c).state = .posting ∨ ((s.chan c).state = .executing ∧ (s.chan c).inFence ≠ 0)) :
    s.chainStopOp c = (s.updChan c fun k => { k with stopRequested := true }, .accepted) := by
  have read := State.chan_updChan_same s c fun k => { k with stopRequested := true }
  rcases waits with st | st | ⟨st, busy⟩
  · rw [chainStopOp_works s c (Or.inl st), settleChannel_elsewhere _ c]
    rw [read, st]
    decide
  · rw [chainStopOp_works s c (Or.inr (Or.inr st)), settleChannel_elsewhere _ c]
    rw [read, st]
    decide
  · rw [chainStopOp_works s c (Or.inr (Or.inl st)), settleChannel_busy _ c]
    rw [read]
    exact busy

theorem chainStopOp_stops (s : State) (c : ChannelId) (executing : (s.chan c).state = .executing)
    (held : (s.chan c).block.isSome = true) (free : (s.chan c).inFence = 0)
    (more : (s.chan c).nextOffset ≠ (s.chan c).rangeCount) (sound : (s.chan c).errorStop = false)
    (linked : (s.chan c).linkLost = false) : s.chainStopOp c =
      ((s.updChan c fun k => { k with stopRequested := true }).restChannel c .stopped .stoppedByRequest
        (s.chan c).nextOffset, .accepted) := by
  obtain ⟨b, block⟩ := Option.isSome_iff_exists.mp held
  have read := State.chan_updChan_same s c fun k => { k with stopRequested := true }
  rw [chainStopOp_works s c (Or.inr (Or.inl executing)), settleChannel_held _ c b (by rw [read, executing])
    (by rw [read, block]) (by rw [read, free]), read, if_neg more]
  simp only [linked, sound, Bool.false_eq_true, if_false, if_true]

theorem chainResumeOp_stopped (s : State) (c : ChannelId) (stopped : (s.chan c).state = .stopped) :
    ((s.chan c).block.isSome = true → s.chainResumeOp c = (s.updChan c fun k => { k with
      state := .executing, stopRequested := false, errorStop := false }, .accepted)) ∧
    ((s.chan c).block = none → s.chainResumeOp c =
      ((s.updChan c fun k => { k with stopRequested := false, errorStop := false }).fetchBlock c, .accepted)) := by
  unfold State.chainResumeOp
  rw [if_pos stopped]
  refine ⟨fun held => ?_, fun absent => ?_⟩
  · rw [if_pos held, updChan_updChan]
  · exact if_neg (by rw [absent]; exact Bool.false_ne_true)

theorem replied_mem (s : State) (l : LinkId) (m : OutMsg) (own : m.isNotify = false) :
    m ∈ ((s.hand l m).closeEvent.link l).outbound := by
  refine List.mem_of_mem_filter (p := fun x => !x.isNotify) ?_
  rw [closeEvent_others]
  unfold State.hand
  rw [State.link_updLink_same]
  simp [own]

/-- Settles O47: each operation decides by the state of the channel that its number names. -/
theorem chainControl : Obligations.ChainControl := by
  unfold Obligations.ChainControl
  refine ⟨fun s t h b above => ⟨fun k => ?_, fun k => ?_, fun k => ?_⟩,
    fun s t h b c named k => ⟨fun idle => ?_, fun stopped => ?_, fun waits => ?_,
      fun executing held free more sound linked => ?_⟩,
    fun s t h b c named k => ⟨fun other => ?_, fun stopped held => ?_, fun stopped absent => ?_⟩,
    fun s t h b c named k => ?_⟩
  · rw [exec_chainStop s t h b k, onChannel_above _ _ _ above]
  · rw [exec_chainResume s t h b k, onChannel_above _ _ _ above]
  · rw [exec_chainStatus s t h b k, onChannel_above _ _ _ above]
  · rw [exec_chainStop s t h b k, onChannel_channel _ _ _ _ named]
    unfold State.chainStopOp
    rw [idle]
  · rw [exec_chainStop s t h b k, onChannel_channel _ _ _ _ named]
    unfold State.chainStopOp
    rw [stopped]
  · rw [exec_chainStop s t h b k, onChannel_channel _ _ _ _ named, chainStopOp_waits t c waits]
  · rw [exec_chainStop s t h b k, onChannel_channel _ _ _ _ named,
      chainStopOp_stops t c executing held free more sound linked]
    dsimp only
    have rests := restChannel_chan (t.updChan c fun k => { k with stopRequested := true }) c .stopped
      .stoppedByRequest (t.chan c).nextOffset
    have only := (onlyChannel_updChan t c fun k => { k with stopRequested := true }).trans
      (onlyChannel_restChannel _ c .stopped .stoppedByRequest (t.chan c).nextOffset)
    rw [State.chan_updChan_same] at rests
    generalize State.restChannel _ c .stopped .stoppedByRequest _ = u at *
    have chan : (u.hand h.link (.controlReply h.tag .accepted)).closeEvent.chan c = u.chan c :=
      closeEvent_chan _ c
    refine ⟨_, rfl, ?_, ?_, ?_, ?_, ?_, replied_mem u h.link _ rfl,
      (only.trans (onlyChannel_hand _ _ _ _)).trans (onlyChannel_closeEvent _ c), rfl⟩
    all_goals rw [chan, rests]; rfl
  · rw [exec_chainResume s t h b k, onChannel_channel _ _ _ _ named]
    unfold State.chainResumeOp
    rw [if_neg other]
  · rw [exec_chainResume s t h b k, onChannel_channel _ _ _ _ named,
      (chainResumeOp_stopped t c stopped).1 held]
  · dsimp only
    rw [exec_chainResume s t h b k, onChannel_channel _ _ _ _ named,
      (chainResumeOp_stopped t c stopped).2 absent, fetchBlock_updChan _ _ _ rfl]
    rfl
  · rw [exec_chainStatus s t h b k, onChannel_channel _ _ _ _ named]
    rfl

end Sys2Proof.Machine
end

section
/-! SUPPORT. How a step's result reaches its source: the direct command, the channel and the retire scanner
(R81, R93, R112, R113, R123, R155). -/

namespace Sys2Proof.Machine

/-! ### Codes and bytes (Table 6-5, Table 7-7) -/

theorem reasonCode_toNat (r : FailReason) : (reasonCode r).toNat = (match r with
    | .notFree => 1 | .notOwned => 2 | .wrongOwner => 3 | .shareFull => 4 | .alreadySharer => 5
    | .notSharer => 6 | .domainState => 7 | .granuleFenced => 8 | .integrity => 9 | .outOfRange => 10
    | .badArgument => 11) := by
  cases r <;> rfl

theorem bytes4_toNat (n : Nat) :
    (bytes4 n).map BitVec.toNat = [n % 256, n / 256 % 256, n / 256 ^ 2 % 256, n / 256 ^ 3 % 256] := by
  unfold bytes4
  simp

theorem bytes8_toNat (q : Quad) :
    (bytes8 q).map BitVec.toNat = (List.range 8).map fun i => q.toNat / 256 ^ i % 256 := by
  unfold bytes8
  rw [List.map_append, bytes4_toNat, bytes4_toNat]
  simp only [List.range, List.range.loop, List.map_cons, List.map_nil, List.cons_append, List.nil_append]
  simp only [List.cons.injEq, and_true]
  omega

/-! ### Grants that end a step (R76, R81) -/

theorem exec_finalWriteGrant (s : State) (g : Nat) (e : FenceEntry) (p : ReadRecord) (rest : List CommandRequest)
    (pick : s.arbPick = some .command) (queue : s.store.commandQ = { granule := g, access := .finalWrite } :: rest)
    (found : s.fenceOf g = some e) (prior : e.prior = some p) (inside : g < s.capacity) :
    let u : State := { s.countGrant .command with
      store := { (s.countGrant .command).store with commandQ := rest } }
    exec .finalWriteGrant s = .next ((((((u.writeRecord g (finalRecord e.kind p)).freeGranule g).adjustOwned
      e.kind p (finalRecord e.kind p)).freeFence g).stepResult e.source g none).closeEvent) := by
  intro u
  show execFinalWriteGrant s = _
  rw [execFinalWriteGrant, onCommand_due s .finalWrite State.finalWrite g e rest pick queue found inside]
  unfold State.finalWrite
  rw [prior, fenceOf_granule s g e found]

/-- What a failed command read leaves of the quarantine requests and the capture. -/
theorem fileFailureOf_eq (s : State) (k : StepKind) (g : Nat) (p : ReadRecord) :
    s.fileFailureOf k g p = match k, p with
      | .rebuild _, _ => s
      | _, .unverifiable img => (s.fileRequest g).capture g .command img
      | _, .verified _ => s := by
  unfold State.fileFailureOf State.foundFailure
  cases k <;> cases p <;> rfl

theorem commandRead_of_fails (s : State) (e : FenceEntry) (r : FailReason) (kind : e.kind ≠ .quarantine)
    (fails : s.stepFails e.kind (s.readRecord e.granule) = some r) : s.commandRead e =
      (s.fileFailureOf e.kind e.granule (s.readRecord e.granule)).failStep e r := by
  unfold State.commandRead
  dsimp only
  split
  next q _ => exact absurd q kind
  next q _ => exact absurd q kind
  next => rw [fails]

theorem commandRead_of_passes (s : State) (e : FenceEntry) (kind : e.kind ≠ .quarantine)
    (passes : s.stepFails e.kind (s.readRecord e.granule) = none) :
    s.commandRead e = s.passStep e (s.readRecord e.granule) := by
  unfold State.commandRead
  dsimp only
  split
  next q _ => exact absurd q kind
  next q _ => exact absurd q kind
  next => rw [passes]

theorem exec_commandReadGrant_fails (s : State) (g : Nat) (e : FenceEntry) (r : FailReason)
    (rest : List CommandRequest) (pick : s.arbPick = some .command)
    (queue : s.store.commandQ = { granule := g, access := .read } :: rest) (found : s.fenceOf g = some e)
    (kind : e.kind ≠ .quarantine) (fails : s.stepFails e.kind (s.readRecord g) = some r) (inside : g < s.capacity) :
    let u : State := { s.countGrant .command with
      store := { (s.countGrant .command).store with commandQ := rest } }
    let found : State := match e.kind, s.readRecord g with
      | .rebuild _, _ => u
      | _, .unverifiable img => (u.fileRequest g).capture g .command img
      | _, .verified _ => u
    exec .commandReadGrant s = .next ((found.freeFence g).stepResult e.source g (some r)).closeEvent := by
  intro u
  have granule := fenceOf_granule s g e found
  have tests : u.stepFails e.kind (u.readRecord e.granule) = some r := by
    rw [granule]
    exact fails
  have same : u.readRecord g = s.readRecord g := rfl
  show execCommandReadGrant s = _
  rw [execCommandReadGrant, onCommand_due s .read State.commandRead g e rest pick queue found inside,
    commandRead_of_fails u e r kind tests, granule, same]
  unfold State.failStep
  rw [granule]
  cases e.kind <;> cases s.readRecord g <;> rfl

/-! ### Direct commands (R92, R93) -/

/-- The head direct command with a result counted. -/
def DirectEntry.counted (e : DirectEntry) (g : Nat) (r : Option FailReason) : DirectEntry :=
  { e with inFence := e.inFence - 1 }.countResult (g - e.first) r

theorem stepResult_direct (s : State) (e : DirectEntry) (rest : List DirectEntry) (g : Nat) (r : Option FailReason)
    (queue : s.directQueue = e :: rest) : s.stepResult .direct g r = s.directResult (e.counted g r) rest := by
  unfold State.stepResult
  rw [queue]
  rfl

theorem directResult_stays (s : State) (d : DirectEntry) (rest : List DirectEntry)
    (h : d.done + d.failed ≠ d.count) : s.directResult d rest = { s with directQueue := d :: rest } := if_neg h

/-- The part after the reply of a finished command. -/
def State.replied (s : State) (d : DirectEntry) : State :=
  if (s.link d.link).state = .active ∧ d.inSession = true then s.hand d.link (.commandReply d.reply) else s

theorem replied_timeBase (s : State) (d : DirectEntry) : (s.replied d).timeBase = s.timeBase := by
  unfold State.replied
  split <;> rfl

theorem directResult_ends (s : State) (d : DirectEntry) (rest : List DirectEntry)
    (h : d.done + d.failed = d.count) : s.directResult d rest =
      match d.firstFailed with
      | some (o, q) => (({ s with directQueue := rest } : State).replied d).storeEvent
          { time := s.timeBase, kind := .commandFailure, link := some d.link, granule := some (d.first + o)
            domain := d.kind.domainD, detail := .failure q }
      | none => ({ s with directQueue := rest } : State).replied d := by
  have reply (u : State) : (if u.isActive d.link && d.inSession then u.hand d.link (.commandReply d.reply) else u) =
      u.replied d := by
    unfold State.replied State.isActive
    simp only [Bool.and_eq_true, beq_iff_eq]
  unfold State.directResult State.finishDirect
  rw [if_pos h]
  dsimp only
  rw [reply]
  have time := replied_timeBase { s with directQueue := rest } d
  cases d.firstFailed with
  | none => rfl
  | some x =>
    unfold State.report
    dsimp only
    rw [time]

/-! ### The retire scanner (R112, R113) -/

theorem retireTest_waits (s : State) (h : ¬ (s.retire.running = true ∧ s.retire.position = none ∧
    s.retire.held = none ∧ s.retire.stepsInFence = 0)) : s.retireTest = s := by
  unfold State.retireTest
  exact if_neg h

/-- The part after the residue of a retire that ends is told. -/
def State.residueTold (s : State) : State :=
  if (s.domainEntry s.retire.domain).owned = 0 then s else s.storeEvent
    { time := s.timeBase, kind := .countResidue, link := none, granule := none, domain := some s.retire.domain
      detail := .count (s.domainEntry s.retire.domain).owned }

theorem retireTest_ends (s : State) (h : s.retire.running = true ∧ s.retire.position = none ∧
    s.retire.held = none ∧ s.retire.stepsInFence = 0) : s.retireTest =
      ({ s.residueTold.setDomain s.retire.domain { state := .absent, owned := 0 } with
        retire := RetireScanner.reset } : State).raise .retireDone := by
  unfold State.retireTest
  exact if_pos h

theorem residueTold_only (s : State) : s.OnlyReports s.residueTold := by
  unfold State.residueTold
  split
  · exact State.OnlyReports.refl s
  · exact onlyReports_storeEvent s _

theorem residueTold_links (s : State) : s.residueTold.links = s.links := by
  unfold State.residueTold
  split
  · rfl
  · exact storeEvent_links s _

theorem setDomain_whole (s : State) (d : DomainNo) (e : DomainEntry) :
    s.setDomain d e = { s with domains := (s.setDomain d e).domains } := by
  unfold State.setDomain
  split <;> rfl

theorem domainEntry_congr {s t : State} (h : t.domains = s.domains) (d : DomainNo) :
    t.domainEntry d = s.domainEntry d := by
  unfold State.domainEntry
  rw [h]

/-- What a retire that ends leaves (R113). -/
theorem retireTest_effect (s : State) (h : s.retire.running = true ∧ s.retire.position = none ∧
      s.retire.held = none ∧ s.retire.stepsInFence = 0) (ok : s.TablesOk) (nonzero : s.retire.domain ≠ 0) :
    StatusSet.has s.retireTest.reports.status .retireDone = true ∧ s.retireTest.retire = RetireScanner.reset ∧
      s.retireTest.domainEntry s.retire.domain = { state := .absent, owned := 0 } ∧
      (∀ x : DomainNo, x ≠ s.retire.domain → s.retireTest.domainEntry x = s.domainEntry x) ∧
      s.retireTest.reports.q1 = s.residueTold.reports.q1 ∧
      s.retireTest = { s with
        domains := s.retireTest.domains, retire := s.retireTest.retire
        reports := { s.reports with
          q1 := s.retireTest.reports.q1, status := s.retireTest.reports.status
          notifyDue := s.retireTest.reports.notifyDue } } := by
  rw [retireTest_ends s h]
  have told := residueTold_only s
  unfold State.OnlyReports at told
  rw [residueTold_links] at told
  generalize s.residueTold = t at *
  have tables : t.TablesOk := by
    rw [told]
    exact ok
  have same : t.domains = s.domains := by rw [told]
  have entry (x : DomainNo) := domainEntry_setDomain t s.retire.domain x { state := .absent, owned := 0 } nonzero tables
  have set := setDomain_whole t s.retire.domain { state := .absent, owned := 0 }
  generalize t.setDomain s.retire.domain { state := .absent, owned := 0 } = u at *
  have raised := raise_eq { u with retire := RetireScanner.reset } .retireDone
  have queue := raise_q1 { u with retire := RetireScanner.reset } .retireDone
  have has := raise_has { u with retire := RetireScanner.reset } .retireDone
  generalize State.raise { u with retire := RetireScanner.reset } .retireDone = v at *
  have domains : v.domains = u.domains := by rw [raised]
  refine ⟨has, by rw [raised], ?_, fun x other => ?_, ?_, ?_⟩
  · rw [domainEntry_congr domains, entry, if_pos rfl]
  · rw [domainEntry_congr domains, entry, if_neg other, domainEntry_congr same]
  · rw [queue, set]
  · rw [raised, set, told]

/-- Settles O33: a result is counted by the source it belongs to, and the end of a block by what is left to post. -/
theorem stepResults : Obligations.StepResults := by
  unfold Obligations.StepResults
  refine ⟨reasonCode_toNat, bytes4_toNat, bytes8_toNat, fun s g e p rest => exec_finalWriteGrant s g e p rest,
    fun s g e r rest pick queue found kind fails inside => ?_,
    fun o n q r => ⟨rfl, rfl⟩, fun s e rest g r queue => ?_, fun s c g r => ?_, fun s c b executing held => ?_,
    fun s c b => ⟨fun posts => ?_, fun a quiet address due => ?_, fun quiet silent => ?_⟩,
    fun s c b => ⟨fun last => ?_, fun next stop => ?_, fun next sound stop => ?_, fun next sound free stop => ?_,
      fun next sound free goes => ?_⟩,
    fun s c x q o => ⟨fun fault => ?_, fun normal => ?_⟩, fun s g r => ?_, fun s => ⟨fun waits => ?_, fun ends ok nonzero => ?_⟩,
    fun s g r => rfl⟩
  · exact exec_commandReadGrant_fails s g e r rest pick queue found kind fails inside
  · intro d u v
    have counted : d = e.counted g r := by cases r <;> rfl
    have replied : v = ({ s with directQueue := rest } : State).replied (e.counted g r) := by cases r <;> rfl
    have owner : (e.counted g r).link = e.link ∧ (e.counted g r).first = e.first ∧
        (e.counted g r).kind = e.kind ∧ (e.counted g r).count = e.count := by
      cases r <;> exact ⟨rfl, rfl, rfl, rfl⟩
    obtain ⟨link, first, kind, count⟩ := owner
    clear_value v d
    subst counted replied
    rw [stepResult_direct s e rest g r queue, ← count]
    refine ⟨directResult_stays s _ rest, fun last clean => ?_, fun o q last failed => ?_⟩
    · rw [directResult_ends s _ rest last, clean]
    · rw [directResult_ends s _ rest last, failed, link, first, kind]
      cases e.kind <;> rfl
  · cases r <;> rfl
  · intro k t
    have told : t = s.blockFailure c b := by
      show _ = State.blockFailure s c b
      unfold State.blockFailure
      cases failed : (s.chan c).firstFailed <;> simp only [t, k, failed] <;> rfl
    clear_value t
    subst told
    refine ⟨settleChannel_busy s c, fun free last => ⟨fun lost => ?_, fun linked => ?_⟩,
      fun free more => ⟨fun lost => ?_, fun linked stop => ?_, fun linked sound stop => ?_, fun linked sound run => ?_⟩⟩
    · rw [settleChannel_held s c b executing held free, if_pos last, if_pos lost]
    · rw [settleChannel_held s c b executing held free, if_pos last, if_neg (by rw [linked]; exact Bool.false_ne_true)]
    · rw [settleChannel_held s c b executing held free, if_neg more, if_pos lost]
    · rw [settleChannel_held s c b executing held free, if_neg more, if_neg (by rw [linked]; exact Bool.false_ne_true),
        if_pos stop]
    · rw [settleChannel_held s c b executing held free, if_neg more, if_neg (by rw [linked]; exact Bool.false_ne_true),
        if_neg (by rw [sound]; exact Bool.false_ne_true), if_pos stop]
    · rw [settleChannel_held s c b executing held free, if_neg more, if_neg (by rw [linked]; exact Bool.false_ne_true),
        if_neg (by rw [sound]; exact Bool.false_ne_true), if_neg (by rw [run]; exact Bool.false_ne_true)]
  · unfold State.enterPosting
    rw [if_pos posts, postWrite_eq]
    unfold Channel.statusRecord statusBytes
    cases (s.chan c).firstFailed <;> rfl
  · unfold State.enterPosting
    rw [if_neg (by rw [quiet]; exact Bool.false_ne_true),
      postNotify_writes _ c b a (by rw [State.chan_updChan_same]; exact address) due, State.chan_updChan_same,
      postWrite_updChan s c (fun k => { k with state := .posting }) _ _ _ rfl rfl]
    rfl
  · unfold State.enterPosting
    rw [if_neg (by rw [quiet]; exact Bool.false_ne_true)]
    exact postNotify_leaves _ c b (by rw [State.chan_updChan_same]; exact silent)
  · exact if_pos last
  · rw [leavePosting_goes_on s c b next]
    exact if_pos stop
  · rw [leavePosting_goes_on s c b next]
    dsimp only
    rw [if_neg (by rw [sound]; exact Bool.false_ne_true), if_pos stop]
  · rw [leavePosting_goes_on s c b next]
    dsimp only
    rw [if_neg (by rw [sound]; exact Bool.false_ne_true), if_neg (by rw [free]; exact Bool.false_ne_true),
      if_pos stop]
  · rw [leavePosting_goes_on s c b next]
    dsimp only
    rw [if_neg (by rw [sound]; exact Bool.false_ne_true), if_neg (by rw [free]; exact Bool.false_ne_true),
      if_neg (by rw [goes]; exact Bool.false_ne_true), fetchBlock_eq]
    simp only [State.nextTag, State.chan_updChan_same]
    rfl
  · rw [restChannel_fault s c x q o (by rcases fault with rfl | rfl | rfl | rfl <;> rfl)]
    rfl
  · exact restChannel_of_not_isFault s c x q o (by rcases normal with rfl | rfl | rfl | rfl | rfl <;> rfl)
  · cases r <;> rfl
  · exact retireTest_waits s waits
  · obtain ⟨has, reset, own, others, queue, whole⟩ := retireTest_effect s ends ok nonzero
    exact ⟨has, by rw [reset]; rfl, own, others, queue, whole⟩

end Sys2Proof.Machine
end

section
/-! SUPPORT. The decoding and the tests of a command block, and how a channel takes the answers to its memory requests
(R117, R120 to R122, R126, R136). -/

namespace Sys2Proof.Machine

/-! ### Which channel a response answers (R117) -/

/-- A channel waits for a response of the kind and tag on the link. -/
def State.Awaits (s : State) (l : LinkId) (kind : MemKind) (tag : Byte) (c : ChannelId) : Prop :=
  (s.chan c).fetchLink = l ∧ ∃ m : MemRequest, (s.chan c).memRequest = some m ∧ m.kind = kind ∧ m.tag = tag

theorem awaits_iff (s : State) (l : LinkId) (kind : MemKind) (tag : Byte) (c : ChannelId) :
    ((s.chan c).fetchLink == l && match (s.chan c).memRequest with
      | some m => m.kind == kind && m.tag == tag
      | none => false) = true ↔ s.Awaits l kind tag c := by
  unfold State.Awaits
  cases request : (s.chan c).memRequest <;> simp

theorem answered_some (s : State) (l : LinkId) (kind : MemKind) (tag : Byte) (c : ChannelId)
    (h : s.answered l kind tag = some c) : s.Awaits l kind tag c := by
  unfold State.answered at h
  have test := List.find?_some h
  exact (awaits_iff s l kind tag c).mp test

theorem answered_none (s : State) (l : LinkId) (kind : MemKind) (tag : Byte) (h : s.answered l kind tag = none)
    (c : ChannelId) : ¬ s.Awaits l kind tag c := by
  have member : c ∈ [(0 : ChannelId), 1] := by
    revert c
    decide
  unfold State.answered at h
  have test := List.find?_eq_none.mp h c member
  exact fun awaits => test ((awaits_iff s l kind tag c).mpr awaits)

/-! ### The 32 bytes of a block (R136) -/

/-- Bytes from the lowest on, as a number. -/
def word (bytes : List Byte) : Nat := bytes.foldr (fun x acc => x.toNat + 256 * acc) 0

theorem word_lt (bytes : List Byte) : word bytes < 256 ^ bytes.length := by
  induction bytes with
  | nil => exact Nat.one_pos
  | cons x xs ih =>
    have := x.isLt
    show x.toNat + 256 * word xs < 256 ^ (xs.length + 1)
    rw [Nat.pow_succ]
    omega

theorem quadOf_toNat (bytes : List Byte) (h : bytes.length ≤ 8) : (quadOf bytes).toNat = word bytes := by
  induction bytes with
  | nil => rfl
  | cons x xs ih =>
    have short : xs.length ≤ 7 := Nat.le_of_succ_le_succ h
    have low := x.isLt
    have bound : word xs < 2 ^ 56 := Nat.lt_of_lt_of_le (word_lt xs)
      ((Nat.pow_le_pow_right (by decide) short).trans (by decide))
    show ((quadOf xs <<< 8) ||| x.setWidth 64).toNat = x.toNat + 256 * word xs
    rw [BitVec.toNat_or, BitVec.toNat_shiftLeft, BitVec.toNat_setWidth, ih (by omega), Nat.shiftLeft_eq,
      Nat.mod_eq_of_lt (by omega), Nat.mod_eq_of_lt (by omega), Nat.lor_comm, Nat.mul_comm,
      or_high _ _ 8 low]
    omega

theorem toList_getD (v : Vector Byte 32) (i : Nat) (h : i < 32) : v.toList.getD i 0 = v[i] := by
  rw [List.getD_eq_getElem?_getD, List.getElem?_eq_getElem (by simpa using h), Option.getD_some]
  simp

/-- A number of some bytes of a block, as the statement sums it. -/
def wordAt (v : Vector Byte 32) (first n : Nat) : Nat :=
  ((List.range n).map fun i => (v.toList.getD (first + i) 0).toNat * 256 ^ i).sum

theorem wordAt_two (v : Vector Byte 32) (i : Nat) (h : i + 1 < 32) :
    wordAt v i 2 = (halfOf v[i] v[i + 1]).toNat := by
  have low := toList_getD v i (by omega)
  have high := toList_getD v (i + 1) h
  unfold wordAt
  rw [halfOf_toNat]
  simp only [List.range, List.range.loop, List.map_cons, List.map_nil, List.sum_cons, List.sum_nil, Nat.add_zero,
    low, high]
  omega

theorem word_map_range (f : Nat → Byte) (n : Nat) :
    word ((List.range n).map f) = ((List.range n).map fun i => (f i).toNat * 256 ^ i).sum := by
  induction n generalizing f with
  | zero => rfl
  | succ n ih =>
    have rest := ih fun i => f (i + 1)
    have up (i : Nat) : (f (i + 1)).toNat * 256 ^ (i + 1) = 256 * ((f (i + 1)).toNat * 256 ^ i) := by ring
    rw [List.range_succ_eq_map, List.map_cons, List.map_cons, List.map_map, List.map_map, List.sum_cons]
    show (f 0).toNat + 256 * word ((List.range n).map fun i => f (i + 1)) = _
    rw [rest, ← List.sum_map_mul_left]
    simp only [Function.comp_def, Nat.succ_eq_add_one, up, pow_zero, Nat.mul_one]

theorem wordAt_eight (v : Vector Byte 32) (i : Nat) (h : i + 8 ≤ 32) :
    wordAt v i 8 = (quadOf (v.toList.drop i |>.take 8)).toNat := by
  have bytes : (v.toList.drop i |>.take 8) = (List.range 8).map fun k => v.toList.getD (i + k) 0 := by
    refine List.ext_getElem (by simp; omega) fun k low high => ?_
    have small : k < 8 := by simpa using high
    simp only [List.getElem_take, List.getElem_drop, List.getElem_map, List.getElem_range]
    rw [toList_getD v (i + k) (by omega)]
    simp
  rw [bytes, quadOf_toNat _ (by simp), word_map_range]
  rfl

theorem byte_bit (x : Byte) (i : Nat) : x.getLsbD i = decide (x.toNat / 2 ^ i % 2 = 1) := by
  rw [BitVec.getLsbD, Nat.testBit_eq_decide_div_mod_eq]

theorem half_low15 (x : Half) : (x &&& 0x7FFF#16).toNat = x.toNat % 2 ^ 15 := by
  rw [BitVec.toNat_and]
  exact Nat.and_two_pow_sub_one_eq_mod x.toNat 15

theorem half_bit15 (x : Half) : x.getLsbD 15 = true ↔ 2 ^ 15 ≤ x.toNat := by
  have := x.isLt
  rw [BitVec.getLsbD, Nat.testBit_eq_decide_div_mod_eq, decide_eq_true_eq]
  omega

theorem blockOf_fields (v : Vector Byte 32) :
    let b : Block := blockOf v
    b.kindCode = v[0] ∧ b.stopAfter = decide (v[1].toNat % 2 = 1) ∧
    b.postStatus = decide (v[1].toNat / 2 % 2 = 1) ∧ b.notify = decide (v[1].toNat / 4 % 2 = 1) ∧
    b.stopOnError = decide (v[1].toNat / 8 % 2 = 1) ∧
    b.addressForm = decide (v[1].toNat / 16 % 2 = 1) ∧
    b.platformAccess = decide (v[1].toNat / 32 % 2 = 1) ∧
    b.count = wordAt v 2 2 + 1 ∧ b.domain.toNat = wordAt v 4 2 ∧ b.second.toNat = wordAt v 6 2 ∧
    b.domainE.toNat = wordAt v 6 2 % 2 ^ 15 ∧
    b.rights = (if 2 ^ 15 ≤ wordAt v 6 2 then .readWrite else .read) ∧
    b.first.toNat = wordAt v 8 8 ∧ b.statusAddr.toNat = wordAt v 16 8 ∧ b.nextAddr.toNat = wordAt v 24 8 := by
  rw [wordAt_two v 2 (by decide), wordAt_two v 4 (by decide), wordAt_two v 6 (by decide),
    wordAt_eight v 8 (by decide), wordAt_eight v 16 (by decide), wordAt_eight v 24 (by decide)]
  refine ⟨rfl, ?_, byte_bit v[1] 1, byte_bit v[1] 2, byte_bit v[1] 3, byte_bit v[1] 4, byte_bit v[1] 5, rfl, rfl, rfl,
    half_low15 _, ?_, rfl, rfl, rfl⟩
  · show v[1].getLsbD 0 = _
    rw [byte_bit, Nat.pow_zero, Nat.div_one]
  · show (if (halfOf v[6] v[7]).getLsbD 15 then _ else _) = _
    simp only [half_bit15]

theorem block_step (b : Block) : b.step = (match b.kindCode.toNat with
    | 1 => some (.assign b.domain b.platformAccess b.second)
    | 2 => some (.release b.domain)
    | 3 => some (.share b.domain b.domainE b.rights)
    | 4 => some (.unshare b.domain b.domainE)
    | 5 => some (.transfer b.domain b.domainE)
    | 6 => some (.setAttr b.domain b.platformAccess b.second)
    | _ => none) := by
  unfold Block.step
  simp only [← BitVec.toNat_inj, BitVec.ofNat_eq_ofNat, BitVec.toNat_ofNat, Nat.reducePow, Nat.reduceMod]
  generalize b.kindCode.toNat = n
  match n with
  | 0 | 1 | 2 | 3 | 4 | 5 | 6 => rfl
  | k + 7 => simp

/-! ### The tests of a block (R121, R122) -/

theorem block_tests (b : Block) (p : PolicyCopy) :
    let aligned (n : Nat) (a : Quad) : Prop := a.toNat % n = 0 ∧ a.toNat < 2 ^ 52
    let bad : Prop := b.validate p = .error .badArgument
    (b.step = none → bad ∧ b.postsWhenBad = false) ∧
    ∀ k : StepKind, b.step = some k →
      (k.argsOk = false → bad ∧ b.postsWhenBad = false) ∧
      (k.argsOk = true → b.postStatus = true → ¬ aligned 16 b.statusAddr →
        bad ∧ b.postsWhenBad = false) ∧
      (k.argsOk = true → (b.postStatus = true → aligned 16 b.statusAddr) →
        b.postsWhenBad = b.postStatus ∧ (¬ aligned 32 b.nextAddr → bad) ∧
        (aligned 32 b.nextAddr → b.validate p =
          (match p.rangeFirst (if b.addressForm = true then .address else .index) b.first.toNat b.count with
          | some i => .ok i
          | none => .error .outOfRange))) := by
  intro aligned bad
  have align (n : Nat) (a : Quad) : aligned n a ↔ alignedAddr n a = true := (alignedAddr_iff n a).symm
  have fails (h : b.firstTestsOk = false) : bad ∧ b.postsWhenBad = false := by
    simp only [bad, Block.validate, Block.postsWhenBad, h, Bool.false_and, Bool.and_false, Bool.false_eq_true,
      if_false, and_self]
  refine ⟨fun none => fails (by simp [Block.firstTestsOk, none]), fun k step => ⟨fun args => fails ?_,
    fun args posts off => fails ?_, fun args on => ?_⟩⟩
  · simp [Block.firstTestsOk, step, args]
  · rw [align, Bool.not_eq_true] at off
    simp [Block.firstTestsOk, step, posts, off]
  · have passes : b.firstTestsOk = true := by
      cases posts : b.postStatus with
      | false => simp [Block.firstTestsOk, step, args, posts]
      | true => simp [Block.firstTestsOk, step, args, (align _ _).mp (on posts)]
    refine ⟨by simp [Block.postsWhenBad, passes], fun off => ?_, fun next => ?_⟩
    · rw [align, Bool.not_eq_true] at off
      simp [bad, Block.validate, off]
    · unfold Block.validate
      rw [passes, (align _ _).mp next]
      rfl

/-! ### MEM_DATA (R120 to R122) -/

theorem exec_memData (s : State) (l : LinkId) (g : Byte) (v : Vector Byte 32) (takes : s.Takes l (.memData l g v))
    (serves : s.Serves l) : exec (.memData l g v) s = .next (match s.answered l .read g with
      | some c => s.takeBlock c v
      | none => s.countError l .unexpected).closeEvent := by
  refine (congrArg Host.Outcome.next (deliver_takes s l (.memData l g v) _ takes)).trans ?_
  unfold State.takeMemData
  rcases serves with h | h | h <;> rw [h] <;> rfl

theorem takeBlock_valid (s : State) (c : ChannelId) (v : Vector Byte 32) (i : Nat)
    (valid : (blockOf v).validate s.active = .ok i) : s.takeBlock c v =
      if (s.chan c).stopRequested then
        (s.updChan c fun k => { k with
          memRequest := none, block := some (blockOf v), rangeFirst := i, rangeCount := (blockOf v).count
          nextOffset := 0, done := 0, failed := 0, firstFailed := none }).restChannel c .stopped .stoppedByRequest 0
      else s.updChan c fun k => { k with
        memRequest := none, block := some (blockOf v), rangeFirst := i, rangeCount := (blockOf v).count
        nextOffset := 0, done := 0, failed := 0, firstFailed := none, state := .executing } := by
  unfold State.takeBlock
  simp only [valid, updChan_updChan]
  rfl

theorem takeBlock_bad (s : State) (c : ChannelId) (v : Vector Byte 32) (r : FailReason)
    (bad : (blockOf v).validate s.active = .error r) : s.takeBlock c v =
      if (blockOf v).postsWhenBad then (s.updChan c fun k => { k with memRequest := none }).postWrite c .badStatus
        (blockOf v).statusAddr (rejectedRecord c r)
      else (s.updChan c fun k => { k with memRequest := none }).restChannel c .idle .badBlock 0 := by
  unfold State.takeBlock
  simp only [bad]

theorem rejectedRecord_eq (c : ChannelId) (r : FailReason) : rejectedRecord c r =
    [2, reasonCode r, BitVec.ofNat 8 c.val, 0, 0, 0, 0, 0, 0, 0, 0, 0, 255, 255, 255, 255] := by
  have zero : bytes4 0 = [0, 0, 0, 0] := by decide
  have ones : bytes4 4294967295 = [255, 255, 255, 255] := by decide
  unfold rejectedRecord
  rw [zero, ones]
  rfl

/-! ### MEM_DONE (R126, R127) -/

theorem exec_memDone (s : State) (l : LinkId) (g : Byte) (takes : s.Takes l (.memDone l g))
    (serves : s.Serves l) : exec (.memDone l g) s = .next (match s.answered l .write g with
      | some c => s.takeDone c
      | none => s.countError l .unexpected).closeEvent := by
  refine (congrArg Host.Outcome.next (deliver_takes s l (.memDone l g) _ takes)).trans ?_
  unfold State.takeMemDone
  rcases serves with h | h | h <;> rw [h] <;> rfl

theorem takeDone_badStatus (s : State) (c : ChannelId) (h : (s.chan c).posting = .badStatus) :
    s.takeDone c = (s.updChan c fun k => { k with memRequest := none }).restChannel c .idle .badBlock 0 := by
  unfold State.takeDone
  rw [h]

theorem takeDone_status (s : State) (c : ChannelId) (b : Block) (h : (s.chan c).posting = .status)
    (held : (s.chan c).block = some b) :
    s.takeDone c = (s.updChan c fun k => { k with memRequest := none }).postNotify c b := by
  unfold State.takeDone
  rw [h, held]

theorem takeDone_notify (s : State) (c : ChannelId) (b : Block) (h : (s.chan c).posting = .notify)
    (held : (s.chan c).block = some b) :
    s.takeDone c = (s.updChan c fun k => { k with memRequest := none }).leavePosting c b := by
  unfold State.takeDone
  rw [h, held]

/-- A channel whose request was answered comes to rest. -/
theorem answeredRest (s : State) (c : ChannelId) (f : Channel → Channel) (st : ChannelState) (x : ChainCause) (o : Nat) :
    ((s.updChan c f).restChannel c st x o).closeEvent.chan c = (f (s.chan c)).atRest st x o ∧
      s.OnlyChannel ((s.updChan c f).restChannel c st x o).closeEvent c := by
  refine ⟨?_, (onlyChannel_updChan s c f).trans (restEvent_only _ c st x o)⟩
  rw [restEvent_chan, State.chan_updChan_same]

/-- Settles O49: an answer finds the channel that asked, and a fetched block is taken or refused by its tests. -/
theorem memoryAnswers : Obligations.MemoryAnswers := by
  unfold Obligations.MemoryAnswers
  refine ⟨fun s l kind g => ⟨answered_some s l kind g, answered_none s l kind g⟩, blockOf_fields, block_step,
    block_tests, fun s l g v takes serves => ⟨fun stray => ?_, fun c found => ⟨fun i valid goes => ?_,
      fun i valid stops => ?_, fun r bad silent => ?_, fun r bad posts => ?_⟩⟩,
    fun s l g takes serves => ⟨fun stray => ?_, fun c found => ⟨fun bad => ?_, fun b a posting held address due => ?_,
      fun b held last => ?_, fun b posting held final => ?_⟩⟩⟩
  · rw [exec_memData s l g v takes serves, stray]
  · rw [exec_memData s l g v takes serves, found]
    dsimp only
    rw [takeBlock_valid s c v i valid, if_neg (by rw [goes]; exact Bool.false_ne_true)]
  · rw [exec_memData s l g v takes serves, found]
    dsimp only
    rw [takeBlock_valid s c v i valid, if_pos stops]
    obtain ⟨chan, only⟩ := answeredRest s c (fun k => { k with
      memRequest := none, block := some (blockOf v), rangeFirst := i, rangeCount := (blockOf v).count
      nextOffset := 0, done := 0, failed := 0, firstFailed := none }) .stopped .stoppedByRequest 0
    refine ⟨_, rfl, ?_, ?_, ?_, ?_, only, rfl⟩ <;> rw [chan] <;> rfl
  · rw [exec_memData s l g v takes serves, found]
    dsimp only
    rw [takeBlock_bad s c v r bad, if_neg (by rw [silent]; exact Bool.false_ne_true)]
    obtain ⟨chan, only⟩ := answeredRest s c (fun k => { k with memRequest := none }) .idle .badBlock 0
    refine ⟨_, rfl, ?_, ?_, only, rfl⟩ <;> rw [chan] <;> rfl
  · dsimp only
    rw [exec_memData s l g v takes serves, found]
    dsimp only
    rw [takeBlock_bad s c v r bad, if_pos posts, rejectedRecord_eq,
      postWrite_updChan s c (fun k => { k with memRequest := none }) _ _ _ rfl rfl]
    rfl
  · rw [exec_memDone s l g takes serves, stray]
  · rw [exec_memDone s l g takes serves, found]
    dsimp only
    rw [takeDone_badStatus s c bad]
    obtain ⟨chan, only⟩ := answeredRest s c (fun k => { k with memRequest := none }) .idle .badBlock 0
    refine ⟨_, rfl, ?_, ?_, only, rfl⟩ <;> rw [chan] <;> rfl
  · dsimp only
    rw [exec_memDone s l g takes serves, found]
    dsimp only
    rw [takeDone_status s c b posting held,
      postNotify_writes _ c b a (by rw [State.chan_updChan_same]; exact address) due, State.chan_updChan_same,
      postWrite_updChan s c (fun k => { k with memRequest := none }) _ _ _ rfl rfl]
    rfl
  · rw [exec_memDone s l g takes serves, found]
    dsimp only
    rcases last with notify | ⟨status, silent⟩
    · rw [takeDone_notify s c b notify held]
    · rw [takeDone_status s c b status held,
        postNotify_leaves _ c b (by rw [State.chan_updChan_same]; exact silent)]
  · rw [exec_memDone s l g takes serves, found]
    dsimp only
    have ends : (s.updChan c fun k => { k with memRequest := none }).leavePosting c b =
        (s.updChan c fun k => { k with memRequest := none }).restChannel c .idle .normalEnd (s.chan c).rangeCount := by
      unfold State.leavePosting
      rw [if_pos final, State.chan_updChan_same]
    rw [takeDone_notify s c b posting held, ends]
    obtain ⟨chan, only⟩ := answeredRest s c (fun k => { k with memRequest := none }) .idle .normalEnd
      (s.chan c).rangeCount
    refine ⟨_, rfl, ?_, ?_, only, rfl⟩ <;> rw [chan] <;> rfl

end Sys2Proof.Machine
end

section
/-! SUPPORT. The sources of granule steps: how a TAGCMD is taken, what a source offers and how it moves on, and the
granules that fail without a fence entry (R75, R90 to R95, R104, R110, R123, R153). -/

namespace Sys2Proof.Machine

/-! ### TAGCMD (R90, R91, R104) -/

theorem exec_tagcmd (s t : State) (h : MgmtHeader) (r : RangeArg) (k : StepKind) (frame : Instr)
    (names : tagcmdFrame h r k = some frame) (c : s.Carries h frame t) :
    exec frame s = .next (t.queueCommand h r k).closeEvent := by
  have carried := deliver_carries s t h frame (fun u => u.queueCommand h r k) c
  cases k <;> cases names <;> exact congrArg Host.Outcome.next carried

theorem queueCommand_room (s : State) (h : MgmtHeader) (r : RangeArg) (k : StepKind)
    (room : s.directQueue.length < 16) : s.queueCommand h r k =
      if k.argsOk then
        match s.active.rangeFirst r.form r.first r.count with
        | some first => { s with directQueue := s.directQueue ++ [directEntry h k first r.count] }
        | none => s.hand h.link (.commandReply (rejectedReply h.tag .outOfRange))
      else s.hand h.link (.commandReply (rejectedReply h.tag .badArgument)) := if_neg (Nat.not_le.mpr room)

theorem tenant_iff (d : DomainNo) : tenant d = true ↔ 1 ≤ d.toNat ∧ d.toNat ≤ 1023 := by
  have zero : d = 0 ↔ d.toNat = 0 := by simp [← BitVec.toNat_inj]
  unfold tenant
  rw [Bool.and_eq_true, decide_eq_true_eq, bne_iff_ne, ne_eq, zero]
  omega

theorem distinctSharers_iff (xs : List (DomainNo × Rights)) :
    distinctSharers xs = true ↔ (xs.map Prod.fst).Nodup := by
  induction xs with
  | nil => simp [distinctSharers]
  | cons x xs ih =>
    rw [distinctSharers, Bool.and_eq_true, ih, List.map_cons, List.nodup_cons]
    refine and_congr_left fun _ => ?_
    simp only [Bool.not_eq_true', List.any_eq_false, beq_iff_eq, List.mem_map, not_exists, not_and]

theorem contentWellMade_iff (c : RebuildContent) : contentWellMade c = true ↔
    (c.state = .free ∧ c.owner = 0 ∧ c.sharers = []) ∨
    (c.state = .owned ∧ 1 ≤ c.owner.toNat ∧ c.owner.toNat ≤ 1023 ∧ c.sharers = []) ∨
    (c.state = .shared ∧ 1 ≤ c.owner.toNat ∧ c.owner.toNat ≤ 1023 ∧ 1 ≤ c.sharers.length ∧
      c.sharers.length ≤ 3 ∧ (c.sharers.map Prod.fst).Nodup ∧
      ∀ x ∈ c.sharers, 1 ≤ x.1.toNat ∧ x.1.toNat ≤ 1023 ∧ x.1 ≠ c.owner) := by
  have some_sharer : ¬ c.sharers = [] ↔ 1 ≤ c.sharers.length := by
    rw [← ne_eq, ← List.length_pos_iff]
    exact Iff.rfl
  unfold contentWellMade
  cases state : c.state with
  | free => simp
  | owned => simp [tenant_iff, and_assoc]
  | shared =>
    simp only [Bool.and_eq_true, tenant_iff, Bool.not_eq_true', List.isEmpty_eq_false_iff, decide_eq_true_eq,
      List.all_eq_true, bne_iff_ne, distinctSharers_iff, some_sharer, ne_eq, reduceCtorEq, false_and, false_or,
      true_and, and_assoc]
    tauto
  | fenced => simp
  | quarantined => simp

theorem rangeFirst_address (p : PolicyCopy) (a n i : Nat) : p.rangeFirst .address a n = some i ↔
    ∃ (m : Nat) (w : Window), p.lookup a = some (m, w) ∧ w.mode = .tagged ∧
      (a - w.effBase) / 2 ^ (match w.granule with | .kib4 => 12 | .mib2 => 21) + n ≤ w.effSize ∧
      i = w.tagBase + (a - w.effBase) / 2 ^ (match w.granule with | .kib4 => 12 | .mib2 => 21) := by
  have shift (w : Window) : (match w.granule with | .kib4 => 12 | .mib2 => 21) = w.granule.shift := by
    cases w.granule <;> rfl
  simp only [shift]
  show p.convert a n = some i ↔ _
  unfold PolicyCopy.convert Window.indexOf Window.offsetOf
  cases p.lookup a with
  | none => simp
  | some x =>
    obtain ⟨m, w⟩ := x
    constructor
    · intro converts
      obtain ⟨⟨tagged, fits⟩, value⟩ := Option.ite_none_right_eq_some.mp converts
      exact ⟨m, w, rfl, tagged, fits, (Option.some.inj value).symm⟩
    · rintro ⟨m', w', found, tagged, fits, rfl⟩
      cases found
      exact if_pos ⟨tagged, fits⟩

/-- Settles O25: a command is refused for room, arguments or range, in this order, or enters the queue. -/
theorem tagCommandTaking : Obligations.TagCommandTaking := by
  unfold Obligations.TagCommandTaking
  refine ⟨fun s t h r k frame first names c room args range => ?_,
    fun s t h r k frame names c => ⟨fun full => ?_, fun room args => ?_, fun room args range => ?_⟩,
    fun d e pa n q => ⟨tenant_iff d, tenant_iff d, tenant_iff d, ?_, ?_, ?_⟩, contentWellMade_iff,
    fun p a n => ⟨rfl, rangeFirst_address p a n⟩⟩
  · rw [exec_tagcmd s t h r k frame names c, queueCommand_room t h r k room, if_pos args, range]
    rfl
  · rw [exec_tagcmd s t h r k frame names c]
    unfold State.queueCommand
    rw [if_pos (show Config.directQueueMax ≤ t.directQueue.length from full)]
    rfl
  · rw [exec_tagcmd s t h r k frame names c, queueCommand_room t h r k room,
      if_neg (by rw [args]; exact Bool.false_ne_true)]
    rfl
  · rw [exec_tagcmd s t h r k frame names c, queueCommand_room t h r k room, if_pos args, range]
    rfl
  · simp [StepKind.argsOk, tenant_iff, and_assoc]
  · simp [StepKind.argsOk, tenant_iff, and_assoc]
  · simp [StepKind.argsOk, tenant_iff, and_assoc]

/-! ### What a source offers (R94, R123, R153) -/

theorem directNext_cons (s : State) (e : DirectEntry) (rest : List DirectEntry) (queue : s.directQueue = e :: rest) :
    s.directNext = if e.nextOffset < e.count then some (e.first + e.nextOffset, e.kind) else none := by
  unfold State.directNext
  rw [queue]

theorem chainNext_iff (s : State) (c : ChannelId) (g : Nat) (k : StepKind) : s.chainNext c = some (g, k) ↔
    ∃ b : Block, (s.chan c).block = some b ∧ b.step = some k ∧ (s.chan c).state = .executing ∧
      (s.chan c).stopRequested = false ∧ (s.chan c).errorStop = false ∧ (s.chan c).linkLost = false ∧
      (s.chan c).nextOffset < (s.chan c).rangeCount ∧
      g = (s.chan c).rangeFirst + (s.chan c).nextOffset := by
  have offers : (s.chan c).offers = true ↔ (s.chan c).state = .executing ∧ (s.chan c).stopRequested = false ∧
      (s.chan c).errorStop = false ∧ (s.chan c).linkLost = false := by
    simp [Channel.offers, and_assoc]
  unfold State.chainNext
  cases held : (s.chan c).block with
  | none => simp [held]
  | some b =>
    cases kind : b.step with
    | none => simp [held, kind]
    | some q =>
      simp only [held, kind, Option.ite_none_right_eq_some, offers, Option.some.injEq, Prod.mk.injEq, exists_eq_left']
      constructor
      · rintro ⟨⟨⟨a, b, c, d⟩, e⟩, rfl, rfl⟩
        exact ⟨rfl, a, b, c, d, e, rfl⟩
      · rintro ⟨rfl, a, b, c, d, e, rfl⟩
        exact ⟨⟨⟨a, b, c, d⟩, e⟩, rfl, rfl⟩

/-! ### Granules out of range (R94) -/

theorem exec_outOfRange_direct (s : State) (e : DirectEntry) (rest : List DirectEntry)
    (queue : s.directQueue = e :: rest) (more : e.nextOffset < e.count) (out : s.capacity ≤ e.first + e.nextOffset) :
    exec (.granuleOutOfRange .direct) s = .next (s.directResult
      ({ e with nextOffset := e.nextOffset + 1 }.countResult e.nextOffset (some .outOfRange)) rest).closeEvent := by
  show execGranuleOutOfRange .direct s = _
  unfold execGranuleOutOfRange
  rw [directNext_cons s e rest queue, if_pos more, queue]
  exact if_neg (Nat.not_lt.mpr out)

theorem exec_outOfRange_chain (s : State) (c : ChannelId) (g : Nat) (k : StepKind)
    (next : s.chainNext c = some (g, k)) (out : s.capacity ≤ g) :
    exec (.granuleOutOfRange (.chain c)) s = .next ((s.updChan c fun k => { k with
      nextOffset := k.nextOffset + 1, failed := k.failed + 1
      firstFailed := lowestFailure k.firstFailed k.nextOffset .outOfRange
      errorStop := k.errorStop || k.block.any Block.stopOnError }).settleChannel c).closeEvent := by
  obtain ⟨b, -, -, executing, -⟩ := (chainNext_iff s c g k).mp next
  show execGranuleOutOfRange (.chain c) s = _
  unfold execGranuleOutOfRange
  dsimp only
  rw [next]
  refine (if_neg (Nat.not_lt.mpr out)).trans ?_
  rw [updChan_congr s c _ (fun k => { k with
      nextOffset := k.nextOffset + 1, failed := k.failed + 1
      firstFailed := lowestFailure k.firstFailed k.nextOffset .outOfRange
      errorStop := k.errorStop || k.block.any Block.stopOnError })]
  unfold Channel.countResult
  dsimp only
  rw [executing]
  rfl

/-- Settles O27: the step outside the store fails and is counted by the source it belongs to. -/
theorem granuleOutOfRange : Obligations.GranuleOutOfRange := by
  unfold Obligations.GranuleOutOfRange
  refine ⟨fun s e rest queue more out => ?_, fun s c g k => exec_outOfRange_chain s c g k, chainNext_iff,
    fun s e rest queue more out left => ?_, fun s c g k next out left goes => ?_⟩
  · have offset : e.first + e.nextOffset - e.first = e.nextOffset := Nat.add_sub_cancel_left ..
    rw [exec_outOfRange_direct s e rest queue more out, stepResult_direct _ _ rest _ _ rfl]
    unfold DirectEntry.counted
    simp only [offset, Nat.add_sub_cancel]
    rfl
  · rw [exec_outOfRange_direct s e rest queue more out, directResult_stays _ _ _ left]
    rfl
  · obtain ⟨b, held, -, executing, unstopped, sound, linked, -, -⟩ := (chainNext_iff s c g k).mp next
    rw [exec_outOfRange_chain s c g k next out]
    have read (f : Channel → Channel) := State.chan_updChan_same s c f
    have same : s.updChan c (fun k => { k with
        nextOffset := k.nextOffset + 1, failed := k.failed + 1
        firstFailed := lowestFailure k.firstFailed k.nextOffset .outOfRange
        errorStop := k.errorStop || k.block.any Block.stopOnError }) = s.updChan c fun k => { k with
        nextOffset := k.nextOffset + 1, failed := k.failed + 1
        firstFailed := lowestFailure k.firstFailed k.nextOffset .outOfRange } := by
      refine updChan_congr _ _ _ _ ?_
      simp only [goes, Bool.or_false]
    rw [same]
    by_cases busy : (s.chan c).inFence = 0
    · rw [settleChannel_held _ c b (by rw [read]; exact executing) (by rw [read]; exact held)
        (by rw [read]; exact busy), read, if_neg left]
      simp only [linked, sound, unstopped, Bool.false_eq_true, if_false]
    · rw [settleChannel_busy _ c (by rw [read]; exact busy)]

end Sys2Proof.Machine
end

section
/-! SUPPORT. FENCE_ALLOCATION: the source chosen, the entry it is given, and how the source moves on (R75, R94, R95). -/

namespace Sys2Proof.Machine

/-! ### What a source offers -/

theorem inStore_ite (s : State) (p : Prop) [Decidable p] (g : Nat) (k : StepKind) :
    s.inStore (if p then some (g, k) else none) = if p ∧ g < s.capacity then some (g, k) else none := by
  unfold State.inStore
  by_cases h : p
  · by_cases i : g < s.capacity <;> simp [h, i, Option.filter]
  · simp [h]

theorem offer_direct (s : State) (e : DirectEntry) (rest : List DirectEntry) (queue : s.directQueue = e :: rest) :
    s.offer .direct = if e.nextOffset < e.count ∧ e.first + e.nextOffset < s.capacity then
      some (e.first + e.nextOffset, e.kind) else none := by
  show s.inStore s.directNext = _
  rw [directNext_cons s e rest queue, inStore_ite]

theorem offer_chain (s : State) (c : ChannelId) (b : Block) (held : (s.chan c).block = some b) :
    s.offer (.chain c) = b.step.bind fun kind =>
      if (s.chan c).state = .executing ∧ (s.chan c).stopRequested = false ∧ (s.chan c).errorStop = false ∧
        (s.chan c).linkLost = false ∧ (s.chan c).nextOffset < (s.chan c).rangeCount ∧
        (s.chan c).rangeFirst + (s.chan c).nextOffset < s.capacity
      then some ((s.chan c).rangeFirst + (s.chan c).nextOffset, kind) else none := by
  have offers : (s.chan c).offers = true ↔ (s.chan c).state = .executing ∧ (s.chan c).stopRequested = false ∧
      (s.chan c).errorStop = false ∧ (s.chan c).linkLost = false := by
    simp [Channel.offers, and_assoc]
  show s.inStore (s.chainNext c) = _
  unfold State.chainNext
  dsimp only
  rw [held]
  dsimp only
  cases b.step with
  | none => rfl
  | some kind =>
    dsimp only [Option.bind_some]
    rw [inStore_ite]
    simp only [offers, and_assoc]

/-! ### The choice (R94 to R96) -/

theorem readyStep_iff (s : State) (src : StepSource) (g : Nat) (k : StepKind) :
    s.readyStep src = some (g, k) ↔ s.offer src = some (g, k) ∧ s.fenceOf g = none := by
  have free : (!s.fenced g) = true ↔ s.fenceOf g = none := by
    unfold State.fenced
    simp
  unfold State.readyStep
  rw [Option.filter_eq_some_iff, free]

theorem chosen_split (s : State) (src : StepSource) (g : Nat) (k : StepKind) (h : s.chosen = some (src, g, k)) :
    s.readyStep src = some (g, k) ∧ ∃ pre post : List StepSource, s.sourcePtr.cycle = pre ++ src :: post ∧
      ∀ p ∈ pre, s.readyStep p = none := by
  unfold State.chosen at h
  obtain ⟨pre, a, post, split, found, earlier⟩ := List.findSome?_eq_some_iff.mp h
  obtain ⟨x, ready, value⟩ := Option.map_eq_some_iff.mp found
  cases value
  exact ⟨ready, pre, post, split, fun p member => Option.map_eq_none_iff.mp (earlier p member)⟩

theorem exec_allocation (s : State) (src : StepSource) (g : Nat) (k : StepKind) (room : s.fence.length < 8)
    (h : s.chosen = some (src, g, k)) : exec .fenceAllocation s = .next (s.allocate src g k).closeEvent := by
  show execFenceAllocation s = _
  unfold execFenceAllocation
  rw [h]
  exact if_pos room

theorem exec_allocation_idle (s : State) (h : s.chosen = none ∨ 8 ≤ s.fence.length) :
    exec .fenceAllocation s = .next s := by
  show execFenceAllocation s = _
  unfold execFenceAllocation
  rcases h with idle | full
  · rw [idle]
    exact ite_self _
  · exact if_neg (Nat.not_lt.mpr full)

/-! ### How a source moves on (R92, R110, R123, R153) -/

theorem scannerAt_some (s : State) (w o : Nat) : s.scannerAt (some (w, o)) = { s with
    retire := { s.retire with position := some (w, o) }
    store := { s.store with retireQ := some (s.active.positionIndex w o) } } := rfl

/-- A scanner with a step in a fence entry ends nothing at the end of its walk. -/
theorem scannerAt_end (s : State) (h : s.retire.stepsInFence ≠ 0) :
    s.scannerAt none = { s with retire := { s.retire with position := none } } :=
  retireTest_waits _ fun ⟨_, _, _, free⟩ => h free

theorem sourceMovesOn_retire (s : State) : s.sourceMovesOn .retire = { s with
    retire := { s.retire with
      held := none, stepsInFence := s.retire.stepsInFence + 1
      position := match s.retire.position with
        | some (w, o) => s.active.nextPosition w o
        | none => none }
    store := { s.store with retireQ := match s.retire.position with
      | some (w, o) => (match s.active.nextPosition w o with
        | some (x, y) => some (s.active.positionIndex x y)
        | none => s.store.retireQ)
      | none => s.store.retireQ } } := by
  show State.scannerMoves _ = _
  unfold State.scannerMoves
  dsimp only
  cases position : s.retire.position with
  | none => rfl
  | some x =>
    obtain ⟨w, o⟩ := x
    dsimp only
    cases next : s.active.nextPosition w o with
    | none => exact scannerAt_end _ (Nat.succ_ne_zero _)
    | some y => rfl

/-- What the moving on of a source touches. -/
theorem sourceMovesOn_whole (s : State) (src : StepSource) : s.sourceMovesOn src = { s with
    directQueue := (s.sourceMovesOn src).directQueue, chains := (s.sourceMovesOn src).chains
    retire := (s.sourceMovesOn src).retire, sweep := (s.sourceMovesOn src).sweep
    store := { s.store with retireQ := (s.sourceMovesOn src).store.retireQ } } := by
  cases src with
  | direct =>
    unfold State.sourceMovesOn
    dsimp only
    split <;> rfl
  | chain c => rfl
  | retire => rw [sourceMovesOn_retire]
  | sweep =>
    unfold State.sourceMovesOn
    dsimp only
    split <;> rfl

/-- A source's moving on leaves the other sources as they are. -/
theorem sourceMovesOn_others (s : State) (src : StepSource) :
    (src ≠ .direct → (s.sourceMovesOn src).directQueue = s.directQueue) ∧
    (∀ c : ChannelId, src ≠ .chain c → (s.sourceMovesOn src).chan c = s.chan c) ∧
    (src ≠ .retire → (s.sourceMovesOn src).retire = s.retire ∧
      (s.sourceMovesOn src).store.retireQ = s.store.retireQ) ∧
    (src ≠ .sweep → (s.sourceMovesOn src).sweep = s.sweep) := by
  cases src with
  | direct =>
    have whole : s.sourceMovesOn .direct = { s with directQueue := (s.sourceMovesOn .direct).directQueue } := by
      unfold State.sourceMovesOn
      dsimp only
      split <;> rfl
    rw [whole]
    exact ⟨fun no => absurd rfl no, fun _ _ => rfl, fun _ => ⟨rfl, rfl⟩, fun _ => rfl⟩
  | chain d =>
    refine ⟨fun _ => rfl, fun c other => ?_, fun _ => ⟨rfl, rfl⟩, fun _ => rfl⟩
    exact State.chan_updChan_ne s _ fun e => other (congrArg StepSource.chain e.symm)
  | retire =>
    rw [sourceMovesOn_retire]
    exact ⟨fun _ => rfl, fun _ _ => rfl, fun no => absurd rfl no, fun _ => rfl⟩
  | sweep =>
    have whole : s.sourceMovesOn .sweep = { s with sweep := (s.sourceMovesOn .sweep).sweep } := by
      unfold State.sourceMovesOn
      dsimp only
      split <;> rfl
    rw [whole]
    exact ⟨fun _ => rfl, fun _ _ => rfl, fun _ => ⟨rfl, rfl⟩, fun no => absurd rfl no⟩

theorem sourceMovesOn_direct (s : State) (e : DirectEntry) (rest : List DirectEntry)
    (queue : s.directQueue = e :: rest) : (s.sourceMovesOn .direct).directQueue = e.advance :: rest := by
  unfold State.sourceMovesOn
  dsimp only
  rw [queue]

theorem sourceMovesOn_sweep (s : State) :
    (s.sweep.held = none → (s.sourceMovesOn .sweep).sweep = { s.sweep with requests := s.sweep.requests.tail }) ∧
    (s.sweep.held ≠ none → (s.sourceMovesOn .sweep).sweep = { s.sweepMoves.sweep with held := none }) := by
  unfold State.sourceMovesOn
  dsimp only
  cases held : s.sweep.held with
  | none => exact ⟨fun _ => rfl, fun no => absurd rfl no⟩
  | some g => exact ⟨nofun, fun _ => rfl⟩

/-- The part with the new entry and its command read, before its source moves on. -/
def State.withEntry (s : State) (src : StepSource) (g : Nat) (k : StepKind) : State :=
  ({ s with fence := insertFence (newFence g src k) s.fence } : State).placeCommand g .read

theorem allocate_eq (s : State) (src : StepSource) (g : Nat) (k : StepKind) :
    s.allocate src g k = { (s.withEntry src g k).sourceMovesOn src with sourcePtr := src.next } := rfl

theorem allocate_whole (s : State) (src : StepSource) (g : Nat) (k : StepKind) : s.allocate src g k = { s with
    fence := insertFence (newFence g src k) s.fence, sourcePtr := src.next
    directQueue := (s.allocate src g k).directQueue, chains := (s.allocate src g k).chains
    retire := (s.allocate src g k).retire, sweep := (s.allocate src g k).sweep
    store := { s.store with
      commandQ := s.store.commandQ ++ [{ granule := g, access := .read }]
      retireQ := (s.allocate src g k).store.retireQ } } := by
  have moved := sourceMovesOn_whole (s.withEntry src g k) src
  rw [allocate_eq]
  generalize (s.withEntry src g k).sourceMovesOn src = t at *
  rw [moved]
  rfl

theorem insertFence_perm (e : FenceEntry) (es : List FenceEntry) : (insertFence e es).Perm (e :: es) := by
  induction es with
  | nil => exact List.Perm.refl _
  | cons x xs ih =>
    unfold insertFence
    split
    · exact List.Perm.refl _
    · exact (ih.cons x).trans (List.Perm.swap e x xs)

/-- Settles O26: the sources are looked at from the pointer on, and the first ready step takes an entry. -/
theorem fenceAllocation : Obligations.FenceAllocation := by
  unfold Obligations.FenceAllocation
  refine ⟨fun s => ⟨fun empty => ?_, offer_direct s, fun c => ⟨fun absent => ?_, offer_chain s c⟩, rfl,
      fun g held => ?_, fun free => ?_⟩,
    fun s src g k h => ?_, ⟨rfl, rfl, rfl, rfl, rfl, rfl, rfl, rfl, rfl, rfl⟩,
    fun s src g k => ⟨readyStep_iff s src g k, chosen_of_ready s src (g, k)⟩, exec_allocation_idle,
    fun s src g k between room h => ?_⟩
  · show s.inStore s.directNext = none
    unfold State.directNext
    rw [empty]
    rfl
  · show s.inStore (s.chainNext c) = none
    unfold State.chainNext
    dsimp only
    rw [absent]
    rfl
  · show (match s.sweep.held with | some g => _ | none => _) = _
    rw [held]
  · show (match s.sweep.held with | some g => _ | none => _) = _
    rw [free]
  · obtain ⟨ready, split⟩ := chosen_split s src g k h
    obtain ⟨offered, free⟩ := (readyStep_iff s src g k).mp ready
    exact ⟨offered, free, split⟩
  · have whole := allocate_whole s src g k
    obtain ⟨direct, chain, retire, sweep⟩ := sourceMovesOn_others (s.withEntry src g k) src
    have quiet : (s.allocate src g k).closeEvent = s.allocate src g k := closeEvent_quiet _ (by
      rw [whole]
      exact between)
    refine ⟨s.allocate src g k, by rw [exec_allocation s src g k room h, quiet], ?_, ?_, direct,
      fun e rest own queue => ?_, fun c => ?_, retire, fun own => ?_, sweep, fun own free => ?_, fun own held => ?_⟩
    · rw [whole]
      exact insertFence_perm (newFence g src k) s.fence
    · rw [whole]
    · subst own
      exact sourceMovesOn_direct (s.withEntry .direct g k) e rest queue
    · split
      next own =>
        subst own
        exact State.chan_updChan_same (s.withEntry (.chain c) g k) c fun k =>
          { k with nextOffset := k.nextOffset + 1, inFence := k.inFence + 1 }
      next other => exact chain c other
    · subst own
      rw [allocate_eq, sourceMovesOn_retire]
      exact ⟨rfl, rfl⟩
    · subst own
      exact (sourceMovesOn_sweep (s.withEntry .sweep g k)).1 free
    · subst own
      exact (sourceMovesOn_sweep (s.withEntry .sweep g k)).2 held

end Sys2Proof.Machine
end

section
/-! SUPPORT. The tests at a command read, the records that the writes of a step leave, and the grants of the command
read and of the fence write (R63, R76, R97 to R105, R155). -/

namespace Sys2Proof.Machine

/-! ### Sharer slots without a domain (R101) -/

theorem slotWithout_present (e : DomainNo) (w : Half) :
    slotPresent (slotWithout e w) = (slotPresent w && slotDomain w != e) := by
  unfold slotWithout slotNames
  by_cases named : slotDomain w = e
  · cases present : slotPresent w <;> simp [named, present]
    decide
  · simp [named]

theorem slotWithout_of_present (e : DomainNo) (w : Half) (h : slotPresent (slotWithout e w) = true) :
    slotWithout e w = w := by
  rw [slotWithout_present, Bool.and_eq_true, bne_iff_ne] at h
  unfold slotWithout slotNames
  simp [h.2]

/-- The present slots that are left are those of the other domains. -/
theorem slots_without (e : DomainNo) (ws : List Half) : (ws.map (slotWithout e)).filter slotPresent =
    (ws.filter slotPresent).filter fun w => slotDomain w != e := by
  induction ws with
  | nil => rfl
  | cons w ws ih =>
    have present := slotWithout_present e w
    by_cases left : slotPresent (slotWithout e w) = true
    · rw [List.map_cons, List.filter_cons_of_pos left, slotWithout_of_present e w left, ih]
      rw [present, Bool.and_eq_true] at left
      rw [List.filter_cons_of_pos left.1, List.filter_cons_of_pos (p := fun w => slotDomain w != e) left.2]
    · rw [List.map_cons, List.filter_cons_of_neg left, ih]
      rw [present, Bool.and_eq_true, not_and] at left
      by_cases was : slotPresent w = true
      · rw [List.filter_cons_of_pos was, List.filter_cons_of_neg (p := fun w => slotDomain w != e) (left was)]
      · rw [List.filter_cons_of_neg was]

theorem slotNames_slotWithout (e : DomainNo) (w : Half) : slotNames e (slotWithout e w) = false := by
  have present := slotWithout_present e w
  by_cases left : slotPresent (slotWithout e w) = true
  · have same := slotWithout_of_present e w left
    rw [present, Bool.and_eq_true, bne_iff_ne] at left
    rw [same]
    unfold slotNames
    simp [left.2]
  · rw [Bool.not_eq_true] at left
    unfold slotNames
    rw [left, Bool.false_and]

/-- The sharers left by an UNSHARE of `e`, as the slots give them. -/
theorem sharers_without (r : TagRecord) (e : DomainNo) :
    ((([r.slot1, r.slot2, r.slot3].map (slotWithout e)).filter slotPresent).map fun w => (slotDomain w, slotRights w)) =
      r.sharers.filter fun x => x.1 != e := by
  rw [slots_without]
  unfold TagRecord.sharers TagRecord.slots
  rw [List.filter_map]
  rfl

/-- The record that UNSHARE leaves when sharers stay, and the one when none stays. -/
def unshared (r : TagRecord) (e : DomainNo) : TagRecord :=
  { r with
    fencedFrom := .free, generation := r.generation + 1
    slot1 := slotWithout e r.slot1, slot2 := slotWithout e r.slot2, slot3 := slotWithout e r.slot3 }

theorem finalRecord_unshare (r : TagRecord) (d e : DomainNo) : finalRecord (.unshare d e) (.verified r) =
    if (unshared r e).slots.any slotPresent then { unshared r e with state := .shared }
    else { unshared r e with state := .owned, slot1 := 0, slot2 := 0, slot3 := 0 } := rfl

theorem unshared_slots (r : TagRecord) (e : DomainNo) :
    (unshared r e).slots = [r.slot1, r.slot2, r.slot3].map (slotWithout e) := rfl

theorem unshared_sharers (r : TagRecord) (e : DomainNo) :
    (unshared r e).sharers = r.sharers.filter fun x => x.1 != e := by
  rw [← sharers_without]
  rfl

theorem sharers_nil_iff (r : TagRecord) : r.sharers = [] ↔ r.slots.any slotPresent = false := by
  unfold TagRecord.sharers
  rw [List.map_eq_nil_iff, List.filter_eq_nil_iff, List.any_eq_false]

theorem finalRecord_unshare_effect (r : TagRecord) (d e : DomainNo) :
    (finalRecord (.unshare d e) (.verified r)).hasSharer e = false ∧
      (finalRecord (.unshare d e) (.verified r)).owner = r.owner ∧
      (finalRecord (.unshare d e) (.verified r)).platformAccess = r.platformAccess ∧
      (finalRecord (.unshare d e) (.verified r)).label = r.label ∧
      (finalRecord (.unshare d e) (.verified r)).generation = r.generation + 1 ∧
      (finalRecord (.unshare d e) (.verified r)).sharers = r.sharers.filter (fun x => x.1 != e) ∧
      (finalRecord (.unshare d e) (.verified r)).state =
        (if r.sharers.filter (fun x => x.1 != e) = [] then .owned else .shared) := by
  have left := unshared_sharers r e
  have names : (unshared r e).hasSharer e = false := by
    unfold TagRecord.hasSharer
    rw [unshared_slots]
    simp [slotNames_slotWithout]
  have none := sharers_nil_iff (unshared r e)
  rw [finalRecord_unshare, ← left]
  cases sharer : (unshared r e).slots.any slotPresent with
  | true =>
    rw [if_pos rfl, if_neg fun empty => absurd (sharer.symm.trans (none.mp empty)) (by decide)]
    exact ⟨names, rfl, rfl, rfl, rfl, rfl, rfl⟩
  | false =>
    rw [if_neg Bool.false_ne_true, if_pos (none.mpr sharer)]
    refine ⟨?_, rfl, rfl, rfl, rfl, ?_, rfl⟩
    · show [(0 : Half), 0, 0].any (slotNames e) = false
      have unnamed : slotNames e 0 = false := rfl
      simp only [List.any_cons, List.any_nil, unnamed, Bool.or_false]
    · have empty : [(0 : Half), 0, 0].filter slotPresent = [] := by decide
      rw [none.mpr sharer]
      exact congrArg (List.map _) empty

theorem finalRecord_share (r : TagRecord) (d e : DomainNo) (q : Rights) : finalRecord (.share d e q) (.verified r) =
    if slotPresent r.slot1 = false then { r with
      state := .shared, fencedFrom := .free, generation := r.generation + 1, slot1 := slotOf e q }
    else if slotPresent r.slot2 = false then { r with
      state := .shared, fencedFrom := .free, generation := r.generation + 1, slot2 := slotOf e q }
    else { r with
      state := .shared, fencedFrom := .free, generation := r.generation + 1, slot3 := slotOf e q } := by
  show (if (!slotPresent r.slot1) = true then _ else if (!slotPresent r.slot2) = true then _ else _) = _
  simp only [Bool.not_eq_true']
  rfl

/-! ### The tests of a command read (R97 to R104) -/

/-- A kind with the common tests first: neither a REBUILD nor a quarantine step. -/
theorem stepFails_unverifiable (s : State) (k : StepKind) (img : Image) (plain : ∀ c, k ≠ .rebuild c) :
    s.stepFails k (.unverifiable img) = some .integrity := by
  cases k with
  | rebuild c => exact absurd rfl (plain c)
  | _ => rfl

theorem stepFails_common (s : State) (k : StepKind) (r : TagRecord) (plain : ∀ c, k ≠ .rebuild c) :
    s.stepFails k (.verified r) = match r.state with
      | .fenced => some .granuleFenced
      | .quarantined => some .integrity
      | .free | .owned | .shared => s.kindTests k r := by
  cases k with
  | rebuild c => exact absurd rfl (plain c)
  | _ => rfl

theorem stepFails_kind (s : State) (k : StepKind) (r : TagRecord) (plain : ∀ c, k ≠ .rebuild c)
    (h : r.state = .free ∨ r.state = .owned ∨ r.state = .shared) :
    s.stepFails k (.verified r) = s.kindTests k r := by
  rw [stepFails_common s k r plain]
  rcases h with h | h | h <;> rw [h]

theorem contentActive_iff (s : State) (c : RebuildContent) : s.contentActive c = true ↔
    (c.state = .owned ∨ c.state = .shared →
      s.domainActive c.owner = true ∧ ∀ x ∈ c.sharers, s.domainActive x.1 = true) := by
  unfold State.contentActive
  cases c.state <;> simp

theorem ownerTests_eq (r : TagRecord) (d : DomainNo) (rest : Option FailReason)
    (h : r.state = .free ∨ r.state = .owned ∨ r.state = .shared) : ownerTests r d rest =
      if r.state = .free then some .notOwned else if r.owner ≠ d then some .wrongOwner else rest := by
  have held : r.isHeld = true ↔ r.state ≠ .free := by
    rw [isHeld_iff]
    rcases h with h | h | h <;> rw [h] <;> decide
  unfold ownerTests
  by_cases free : r.state = .free
  · rw [if_pos free, if_pos]
    rw [Bool.not_eq_true', ← Bool.not_eq_true, held]
    exact not_not.mpr free
  · rw [if_neg free, held.mpr free]
    rfl

theorem not_active (s : State) (d : DomainNo) : (!s.domainActive d) = true ↔ s.domainActive d = false :=
  by simp

/-- Settles O29: the tests common to all kinds come first, then those of the kind, slot by slot. -/
theorem stepTestsAndFinalRecords : Obligations.StepTestsAndFinalRecords := by
  unfold Obligations.StepTestsAndFinalRecords
  refine ⟨fun s k img plain _ => stepFails_unverifiable s k img plain, fun s k r plain _ => ⟨fun h => ?_, fun h => ?_⟩,
    fun s c p => ⟨rfl, contentActive_iff s c⟩, fun c p => ?_, fun img => rfl, fun s r d e q pa n h => ?_⟩
  · rw [stepFails_common s k r plain, h]
  · rw [stepFails_common s k r plain, h]
  · cases p <;> rfl
  refine ⟨?_, ?_, ?_, ?_, ?_, ?_, rfl, rfl, rfl, rfl, fun empty1 => ?_, fun full1 empty2 => ?_,
    fun full1 full2 empty3 => ?_, ?_, finalRecord_unshare_effect r d e⟩
  · rw [stepFails_kind s (.assign d pa n) r (by simp) h]
    simp only [State.kindTests, not_active]
  · rw [stepFails_kind s (.release d) r (by simp) h]
    exact ownerTests_eq r d none h
  · rw [stepFails_kind s (.setAttr d pa n) r (by simp) h]
    exact ownerTests_eq r d none h
  · rw [stepFails_kind s (.transfer d e) r (by simp) h]
    simp only [State.kindTests, not_active, ownerTests_eq r d none h]
  · rw [stepFails_kind s (.unshare d e) r (by simp) h]
    exact ownerTests_eq r d _ h
  · rw [stepFails_kind s (.share d e q) r (by simp) h]
    simp only [State.kindTests, not_active, ownerTests_eq r d _ h]
  · rw [finalRecord_share, if_pos empty1]
  · rw [finalRecord_share, full1, if_neg (by decide), if_pos empty2]
  · rw [finalRecord_share, full1, full2, if_neg (by decide), if_neg (by decide)]
  · have slot (w : Half) : slotWithout e w = if slotPresent w = true ∧ slotDomain w = e then 0 else w := by
      unfold slotWithout slotNames
      simp
    have present (x : TagRecord) : x.slots.any slotPresent = true ↔
        slotPresent x.slot1 = true ∨ slotPresent x.slot2 = true ∨ slotPresent x.slot3 = true := by
      simp [TagRecord.slots]
    dsimp only
    simp only [← slot]
    rw [finalRecord_unshare]
    simp only [present]
    rfl

end Sys2Proof.Machine
end

section
/-! SUPPORT. The grants of the command read and of the fence write as whole states (R63, R76, R154). -/

namespace Sys2Proof.Machine

/-! ### Parts that a failed read touches -/

theorem fileRequest_whole (s : State) (g : Nat) :
    s.fileRequest g = { s with sweep := { s.sweep with requests := (s.fileRequest g).sweep.requests } } := by
  unfold State.fileRequest
  split
  · rfl
  · split <;> rfl

theorem foundFailure_whole (s : State) (g : Nat) (who : FoundBy) (img : Image) : s.foundFailure g who img = { s with
    sweep := { s.sweep with
      requests := (s.foundFailure g who img).sweep.requests
      capture := (s.foundFailure g who img).sweep.capture
      overflow := (s.foundFailure g who img).sweep.overflow } } := by
  have filed := fileRequest_whole s g
  have captured := capture_eq (s.fileRequest g) g who img
  unfold State.foundFailure
  generalize (s.fileRequest g).capture g who img = t at *
  generalize s.fileRequest g = u at *
  rw [captured, filed]

theorem fileFailureOf_whole (s : State) (k : StepKind) (g : Nat) (p : ReadRecord) : s.fileFailureOf k g p = { s with
    sweep := { s.sweep with
      requests := (s.fileFailureOf k g p).sweep.requests, capture := (s.fileFailureOf k g p).sweep.capture
      overflow := (s.fileFailureOf k g p).sweep.overflow } } := by
  unfold State.fileFailureOf
  split
  · rfl
  · exact foundFailure_whole s g .command _
  · rfl

/-- The part after a grant of the COMMAND class took its request. -/
def State.granted (s : State) (rest : List CommandRequest) : State :=
  { s.countGrant .command with store := { (s.countGrant .command).store with commandQ := rest } }

theorem exec_command (s : State) (a : StepAccess) (f : State → FenceEntry → State) (g : Nat) (e : FenceEntry)
    (rest : List CommandRequest) (pick : s.arbPick = some .command)
    (queue : s.store.commandQ = { granule := g, access := a } :: rest) (found : s.fenceOf g = some e)
    (inside : g < s.capacity) : s.onCommand a f = .next (f (s.granted rest) e).closeEvent :=
  onCommand_due s a f g e rest pick queue found inside

/-- A step that fails at its command read, from the grant on. -/
theorem failStep_whole (s : State) (e : FenceEntry) (g : Nat) (r : FailReason) (k : StepKind) (p : ReadRecord)
    (granule : e.granule = g) (rest : List CommandRequest) :
    let t := (((s.granted rest).fileFailureOf k g p).failStep e r).closeEvent
    t.fence = s.fence.filter (fun x => x.granule != g) ∧ s.LinksSend t ∧
      t = { s with
        links := t.links, fence := t.fence, retire := t.retire, domains := t.domains
        directQueue := t.directQueue, chains := t.chains
        store := { s.store with
          commandQ := rest, passOver := t.store.passOver, retireQ := t.store.retireQ }
        sweep := { s.sweep with
          requests := t.sweep.requests, capture := t.sweep.capture, overflow := t.sweep.overflow }
        reports := { s.reports with
          q1 := t.reports.q1, status := t.reports.status, notifyDue := t.reports.notifyDue } } := by
  have filed := fileFailureOf_whole (s.granted rest) k g p
  unfold State.failStep
  rw [granule]
  generalize (s.granted rest).fileFailureOf k g p = u at *
  have freed := freeFence_eq u g
  generalize u.freeFence g = v at *
  obtain ⟨result, send⟩ := onlyResult_stepResult v e.source g (some r)
  unfold State.OnlyResult at result
  generalize v.stepResult e.source g (some r) = w at *
  have close := closeEvent_eq w
  have told := linksSend_closeEvent w
  generalize w.closeEvent = t at *
  have links : v.links = s.links := by
    rw [freed, filed]
    rfl
  refine ⟨?_, ((State.LinksSend.of_eq links).trans send).trans told, ?_⟩
  · rw [close, result, freed, filed]
    rfl
  · rw [close, result, freed, filed]
    rfl

/-- Settles O28: the read record decides the branch, and a failing branch is the whole form of a failed step. -/
theorem commandReadGrant : Obligations.CommandReadGrant := by
  unfold Obligations.CommandReadGrant
  intro s g e rest pick queue found inside
  have granule := fenceOf_granule s g e found
  have event : exec .commandReadGrant s = .next ((s.granted rest).commandRead e).closeEvent :=
    exec_command s .read State.commandRead g e rest pick queue found inside
  have record : (s.granted rest).readRecord e.granule = s.readRecord g := by
    rw [granule]
    rfl
  intro u
  refine ⟨fun r kind read => ?_, fun img kind read => ?_, fun kind passes => ?_, fun r kind fails => ?_⟩
  · rw [event]
    unfold State.commandRead
    dsimp only
    rw [record, kind, read, granule]
    rfl
  · rw [event]
    unfold State.commandRead
    dsimp only
    rw [record, kind, read]
    unfold State.passStep
    rw [granule]
    rfl
  · rw [event, commandRead_of_passes _ e kind (by rw [record]; exact passes), record]
    unfold State.passStep
    rw [granule]
    rfl
  · rw [event, commandRead_of_fails _ e r kind (by rw [record]; exact fails), record, granule]
    exact ⟨_, rfl, failStep_whole s e g r e.kind _ granule rest⟩

/-! ### The fence write (R63, R76) -/

theorem staleFor_iff (g : Nat) (e : OpenCheck) :
    e.staleFor g = true ↔ e.phase ≠ .waitRecord ∧ e.granule = some g := by
  unfold OpenCheck.staleFor
  rw [Bool.and_eq_true, Bool.not_eq_true', ← Bool.not_eq_true, waits_iff, beq_iff_eq]

/-- The entry a fence write leaves: REVOKING, with the open checks it made stale counted. -/
def FenceEntry.revoking (s : State) (e : FenceEntry) : FenceEntry := { e with
  phase := .revoking
  staleCount := s.openChecks.countP fun x => decide (x.phase ≠ .waitRecord ∧ x.granule = some e.granule) }

/-- The open checks with those of a granule that read its record marked stale. -/
def State.madeStale (s : State) (g : Nat) : List OpenCheck :=
  s.openChecks.map fun x => if x.phase ≠ .waitRecord ∧ x.granule = some g then { x with stale := true } else x

theorem fenceWrite_eq (s : State) (e : FenceEntry) (p : ReadRecord) (h : e.prior = some p) : s.fenceWrite e =
    { s with
      dram := (s.writeRecord e.granule (fencedRecord p)).dram
      openChecks := s.madeStale e.granule
      fence := s.fence.map fun x => if x.granule = e.granule then { x with
        phase := .revoking
        staleCount := s.openChecks.countP fun y => decide (y.phase ≠ .waitRecord ∧ y.granule = some e.granule) }
        else x } := by
  have test : OpenCheck.staleFor e.granule = fun x => decide (x.phase ≠ .waitRecord ∧ x.granule = some e.granule) := by
    funext x
    rw [Bool.eq_iff_iff, staleFor_iff, decide_eq_true_eq]
  have marked : s.madeStale e.granule = s.openChecks.map fun x =>
      if x.staleFor e.granule then { x with stale := true } else x := by
    unfold State.madeStale
    congr 1
    funext x
    simp only [staleFor_iff]
  unfold State.fenceWrite
  rw [h, marked, test]
  rfl

theorem fenceOf_mapped (s : State) (g h : Nat) (f : FenceEntry → FenceEntry) (keeps : ∀ e, (f e).granule = e.granule) :
    ({ s with fence := s.fence.map fun e => if e.granule = g then f e else e } : State).fenceOf h =
      (s.fenceOf h).map fun e => if e.granule = g then f e else e :=
  find_fence_map s.fence (fun e => if e.granule = g then f e else e) h fun e => by
    split
    · exact keeps e
    · rfl

theorem fenceWrite_fenceOf (s : State) (e : FenceEntry) (p : ReadRecord) (h : Nat) (prior : e.prior = some p) :
    (s.fenceWrite e).fenceOf h = (s.fenceOf h).map fun x => if x.granule = e.granule then { x with
      phase := .revoking
      staleCount := s.openChecks.countP fun y => decide (y.phase ≠ .waitRecord ∧ y.granule = some e.granule) }
      else x := by
  rw [fenceWrite_eq s e p prior]
  exact fenceOf_mapped s e.granule h _ fun _ => rfl

theorem fenceWrite_own (s : State) (e : FenceEntry) (p : ReadRecord) (prior : e.prior = some p)
    (found : s.fenceOf e.granule = some e) : (s.fenceWrite e).fenceOf e.granule = some (e.revoking s) := by
  rw [fenceWrite_fenceOf s e p _ prior, found, Option.map_some, if_pos rfl]
  rfl

theorem fenceWrite_other (s : State) (e : FenceEntry) (p : ReadRecord) (h : Nat) (prior : e.prior = some p)
    (ne : h ≠ e.granule) : (s.fenceWrite e).fenceOf h = s.fenceOf h := by
  rw [fenceWrite_fenceOf s e p _ prior]
  cases other : s.fenceOf h with
  | none => rfl
  | some x => rw [Option.map_some, if_neg (by rw [fenceOf_granule s h x other]; exact ne)]

/-- A fence write after its grant: what it writes, and that the open checks and the fence entries are all else. -/
theorem granted_fenceWrite (s : State) (e : FenceEntry) (p : ReadRecord) (rest : List CommandRequest)
    (prior : e.prior = some p) :
    let t := (s.granted rest).fenceWrite e
    t.dram = (s.writeRecord e.granule (fencedRecord p)).dram ∧ t.openChecks = s.madeStale e.granule ∧
      t = { s with
        dram := t.dram, openChecks := t.openChecks, fence := t.fence
        store := { s.store with commandQ := rest, passOver := t.store.passOver } } := by
  rw [fenceWrite_eq (s.granted rest) e p prior]
  exact ⟨rfl, rfl, rfl⟩

/-- What the fenced record of an unverifiable or a verified record reads as. -/
theorem fencedRecord_from (p : ReadRecord) : (∀ img : Image, p = .unverifiable img →
      (fencedRecord p).fencedFrom = .quarantined) ∧
    (∀ r : TagRecord, p = .verified r → (fencedRecord p).fencedFrom = match r.state with
      | .free => .free | .owned => .owned | .shared => .shared | .quarantined => .quarantined
      | .fenced => r.fencedFrom) := by
  refine ⟨fun img h => by rw [h]; rfl, fun r h => ?_⟩
  rw [h]
  show fenceFrom r = _
  unfold fenceFrom
  cases r.state <;> rfl

/-- Settles O31: the fence write replaces the record by its FENCED form, marks stale the open checks that read it
earlier and moves the entry to REVOKING; each part is read off the whole form of the write. -/
theorem fenceWriteGrant : Obligations.FenceWriteGrant := by
  unfold Obligations.FenceWriteGrant
  intro s g e p rest pick queue found prior inside memory
  have event : exec .fenceWriteGrant s = .next ((s.granted rest).fenceWrite e).closeEvent :=
    exec_command s .fenceWrite State.fenceWrite g e rest pick queue found inside
  obtain rfl : e.granule = g := fenceOf_granule s g e found
  obtain ⟨dram, stale, whole⟩ := granted_fenceWrite s e p rest prior
  have own : ((s.granted rest).fenceWrite e).fenceOf e.granule = some (e.revoking s) :=
    fenceWrite_own (s.granted rest) e p prior found
  have other (h : Nat) (ne : h ≠ e.granule) : ((s.granted rest).fenceWrite e).fenceOf h = s.fenceOf h :=
    fenceWrite_other (s.granted rest) e p h prior ne
  generalize (s.granted rest).fenceWrite e = t at *
  obtain ⟨unverified, verified⟩ := fencedRecord_from p
  refine ⟨t, e.revoking s, event, ?_, fun a outside => ?_, rfl, unverified, verified, rfl, stale, own, rfl, rfl, rfl,
    rfl, other, whole⟩
  · rw [dram, readImage_writeRecord s _ _ memory]
  · rw [dram]
    exact Memory.read_writeImage_outside s.dram _ a _ memory outside

end Sys2Proof.Machine
end

section
/-! SUPPORT. The grant of a final write: the directory entry, the owned counts and the end of a retire (R81, R107,
R113, R155). -/

namespace Sys2Proof.Machine

/-! ### The directory entry of a granule -/

theorem freeGranule_whole (s : State) (g : Nat) :
    s.freeGranule g = { s with directory := (s.freeGranule g).directory } := by
  unfold State.freeGranule
  split <;> rfl

theorem freeGranule_directory {s t : State} (h : t.directory = s.directory) (g : Nat) :
    (t.freeGranule g).directory = (s.freeGranule g).directory := by
  have same (w : Nat) : t.dirWay w = s.dirWay w := dirWay_congr h w
  have find : t.dirFind g = s.dirFind g := by
    unfold State.dirFind
    simp only [same]
  unfold State.freeGranule
  rw [find]
  split
  · exact congrArg (fun d => Table.set none d _ none) h
  · exact h

theorem dirWay_freeGranule (s : State) (g w : Nat) (ok : s.DirectoryOk) :
    (s.freeGranule g).dirWay w = (s.dirWay w).bind fun x => if x.granule = g then none else some x := by
  have but := (directoryOk_iff s).mp ok
  have ⟨wf, sound, _⟩ := but
  unfold State.freeGranule
  cases found : s.dirFind g with
  | some v =>
    obtain ⟨_, x, own, granule, _⟩ := dirFind_some s g v found
    dsimp only
    rw [dirWay_setWay s v w none wf]
    by_cases same : w = v
    · rw [if_pos same, same, own, Option.bind_some, if_pos granule]
    · rw [if_neg same]
      cases way : s.dirWay w with
      | none => rfl
      | some y => rw [Option.bind_some, if_neg fun named => same (dirFind_only but g v found w y way named)]
  | none =>
    dsimp only
    cases way : s.dirWay w with
    | none => rfl
    | some y =>
      have other : y.granule ≠ g := fun named =>
        dirFind_none s g w y found way (by rw [← named]; exact (sound w y way).2.1) named
      rw [Option.bind_some, if_neg other]

/-! ### Owned counts (R107, R155) -/

theorem owned_lowerOwned (s : State) (d e : DomainNo) (nonzero : e ≠ 0) (ok : s.TablesOk) :
    ((s.lowerOwned d).domainEntry e).owned =
      if d = e then (s.domainEntry e).owned - 1 else (s.domainEntry e).owned := by
  unfold State.lowerOwned
  dsimp only
  by_cases zero : d = 0
  · have same (v : DomainEntry) : s.setDomain d v = s := if_pos zero
    rw [same, if_neg fun (h : d = e) => nonzero (h.symm.trans zero)]
  · rw [domainEntry_setDomain s d e _ zero ok]
    by_cases named : d = e
    · rw [if_pos named.symm, if_pos named, named]
    · rw [if_neg (Ne.symm named), if_neg named]

theorem owned_raiseOwned (s : State) (d e : DomainNo) (nonzero : e ≠ 0) (ok : s.TablesOk) :
    ((s.raiseOwned d).domainEntry e).owned =
      if d = e ∧ (s.domainEntry e).owned < s.capacity then (s.domainEntry e).owned + 1
      else (s.domainEntry e).owned := by
  unfold State.raiseOwned
  dsimp only
  by_cases zero : d = 0
  · have same (v : DomainEntry) : s.setDomain d v = s := if_pos zero
    rw [same, if_neg fun ⟨h, _⟩ => nonzero (h.symm.trans zero)]
  · rw [domainEntry_setDomain s d e _ zero ok]
    by_cases named : d = e
    · subst named
      rw [if_pos rfl]
      unfold satInc
      simp only [true_and]
    · rw [if_neg (Ne.symm named), if_neg fun h => named h.1]

theorem lowerOwned_whole (s : State) (d : DomainNo) : s.lowerOwned d = { s with domains := (s.lowerOwned d).domains } :=
  setDomain_whole s d _

theorem raiseOwned_whole (s : State) (d : DomainNo) : s.raiseOwned d = { s with domains := (s.raiseOwned d).domains } :=
  setDomain_whole s d _

/-- The counts after the prior owner's fell. -/
def State.priorLowered (s : State) (p : ReadRecord) : State :=
  match p.countedOwner with
  | some d => s.lowerOwned d
  | none => s

/-- The counts after the written owner's rose. -/
def State.writtenRaised (s : State) (w : TagRecord) : State :=
  match w.countedOwner with
  | some d => s.raiseOwned d
  | none => s

theorem adjustOwned_changes (s : State) (k : StepKind) (p : ReadRecord) (w : TagRecord) (kind : k ≠ .quarantine)
    (owner : p.countedOwner ≠ w.countedOwner) : s.adjustOwned k p w = (s.priorLowered p).writtenRaised w := by
  unfold State.adjustOwned
  split
  next => exact absurd rfl kind
  next => exact if_neg owner

theorem adjustOwned_same (s : State) (k : StepKind) (p : ReadRecord) (w : TagRecord) (kind : k ≠ .quarantine)
    (owner : p.countedOwner = w.countedOwner) : s.adjustOwned k p w = s := by
  unfold State.adjustOwned
  split
  next => exact absurd rfl kind
  next => exact if_pos owner

theorem priorLowered_whole (s : State) (p : ReadRecord) :
    s.priorLowered p = { s with domains := (s.priorLowered p).domains } := by
  unfold State.priorLowered
  split
  · exact lowerOwned_whole s _
  · rfl

theorem writtenRaised_whole (s : State) (w : TagRecord) :
    s.writtenRaised w = { s with domains := (s.writtenRaised w).domains } := by
  unfold State.writtenRaised
  split
  · exact raiseOwned_whole s _
  · rfl

theorem owned_priorLowered (s : State) (p : ReadRecord) (e : DomainNo) (nonzero : e ≠ 0) (ok : s.TablesOk) :
    ((s.priorLowered p).domainEntry e).owned =
      if p.countedOwner = some e then (s.domainEntry e).owned - 1 else (s.domainEntry e).owned := by
  unfold State.priorLowered
  cases h : p.countedOwner with
  | none => rw [if_neg (by simp)]
  | some d =>
    simp only [Option.some.injEq]
    exact owned_lowerOwned s d e nonzero ok

theorem owned_writtenRaised (s : State) (w : TagRecord) (e : DomainNo) (nonzero : e ≠ 0) (ok : s.TablesOk) :
    ((s.writtenRaised w).domainEntry e).owned =
      if w.countedOwner = some e ∧ (s.domainEntry e).owned < s.capacity then (s.domainEntry e).owned + 1
      else (s.domainEntry e).owned := by
  unfold State.writtenRaised
  cases h : w.countedOwner with
  | none => rw [if_neg (by simp)]
  | some d =>
    simp only [Option.some.injEq]
    exact owned_raiseOwned s d e nonzero ok

theorem tablesOk_priorLowered (s : State) (p : ReadRecord) (ok : s.TablesOk) : (s.priorLowered p).TablesOk := by
  unfold State.priorLowered
  split
  · exact (form_setDomain s _ _).tables ok
  · exact ok

/-- The owned count of a domain after a final write whose kind is not the quarantine step (R107). -/
theorem owned_adjustOwned (s : State) (k : StepKind) (p : ReadRecord) (w : TagRecord) (d : DomainNo) (ok : s.TablesOk)
    (kind : k ≠ .quarantine) (nonzero : d ≠ 0) : ((s.adjustOwned k p w).domainEntry d).owned =
      if p.countedOwner = w.countedOwner then (s.domainEntry d).owned
      else if p.countedOwner = some d then (s.domainEntry d).owned - 1
      else if w.countedOwner = some d ∧ (s.domainEntry d).owned < s.capacity then (s.domainEntry d).owned + 1
      else (s.domainEntry d).owned := by
  by_cases owner : p.countedOwner = w.countedOwner
  · rw [adjustOwned_same s k p w kind owner, if_pos owner]
  · have lowered := owned_priorLowered s p d nonzero ok
    have capacity : (s.priorLowered p).capacity = s.capacity := by rw [priorLowered_whole]; rfl
    rw [adjustOwned_changes s k p w kind owner, if_neg owner,
      owned_writtenRaised _ w d nonzero (tablesOk_priorLowered s p ok), capacity, lowered]
    by_cases prior : p.countedOwner = some d
    · rw [if_pos prior, if_pos prior, if_neg fun h => owner (prior.trans h.1.symm)]
    · rw [if_neg prior, if_neg prior]

theorem owned_adjustOwned_quarantine (s : State) (p : ReadRecord) (w : TagRecord) (d : DomainNo) (ok : s.TablesOk)
    (nonzero : d ≠ 0) (domain : d.toNat ≤ 1023) : ((s.adjustOwned .quarantine p w).domainEntry d).owned =
      if p.fields.owner = d then (s.domainEntry d).owned - 1 else (s.domainEntry d).owned := by
  unfold State.adjustOwned
  dsimp only
  split
  next => exact owned_lowerOwned s p.fields.owner d nonzero ok
  next beyond => rw [if_neg fun h => beyond (by rw [h]; exact domain)]

theorem adjustOwned_whole (s : State) (k : StepKind) (p : ReadRecord) (w : TagRecord) :
    s.adjustOwned k p w = { s with domains := (s.adjustOwned k p w).domains } := by
  by_cases kind : k = .quarantine
  · subst kind
    unfold State.adjustOwned
    dsimp only
    split
    · exact lowerOwned_whole s _
    · rfl
  · by_cases owner : p.countedOwner = w.countedOwner
    · rw [adjustOwned_same s k p w kind owner]
    · rw [adjustOwned_changes s k p w kind owner]
      have raised := writtenRaised_whole (s.priorLowered p) w
      have lowered := priorLowered_whole s p
      generalize s.priorLowered p = u at *
      generalize u.writtenRaised w = t at *
      rw [raised, lowered]

/-- The counts after a final write are computed from the counts and the capacity before it alone. -/
theorem adjustOwned_domains (s t : State) (k : StepKind) (p : ReadRecord) (w : TagRecord)
    (domains : t.domains = s.domains) (capacity : t.capacity = s.capacity) :
    (t.adjustOwned k p w).domains = (s.adjustOwned k p w).domains := by
  have set (x y : State) (d : DomainNo) (e : DomainEntry) (h : y.domains = x.domains) :
      (y.setDomain d e).domains = (x.setDomain d e).domains := by
    unfold State.setDomain
    split
    · exact h
    · show Table.set _ y.domains _ _ = Table.set _ x.domains _ _
      rw [h]
  have lower (d : DomainNo) : (t.lowerOwned d).domains = (s.lowerOwned d).domains := by
    unfold State.lowerOwned
    rw [domainEntry_congr domains]
    exact set s t d _ domains
  have raises (x y : State) (d : DomainNo) (h : y.domains = x.domains) (c : y.capacity = x.capacity) :
      (y.raiseOwned d).domains = (x.raiseOwned d).domains := by
    unfold State.raiseOwned
    rw [domainEntry_congr h, c]
    exact set x y d _ h
  by_cases kind : k = .quarantine
  · subst kind
    unfold State.adjustOwned
    dsimp only
    split
    · exact lower _
    · exact domains
  · by_cases owner : p.countedOwner = w.countedOwner
    · rw [adjustOwned_same s k p w kind owner, adjustOwned_same t k p w kind owner, domains]
    · rw [adjustOwned_changes s k p w kind owner, adjustOwned_changes t k p w kind owner]
      have lowered : (t.priorLowered p).domains = (s.priorLowered p).domains := by
        unfold State.priorLowered
        split
        · exact lower _
        · exact domains
      have same : (t.priorLowered p).capacity = (s.priorLowered p).capacity := by
        rw [priorLowered_whole t, priorLowered_whole s]
        exact capacity
      unfold State.writtenRaised
      split
      · exact raises _ _ _ lowered same
      · exact lowered

/-! ### The end of a retire -/

theorem freeFence_scanner (s : State) (g : Nat) :
    (s.freeFence g).retire = { s.retire with setAside := (s.freeFence g).retire.setAside } := by
  unfold State.freeFence
  dsimp only
  split <;> rfl

theorem onlyReports_domains {s t : State} (h : s.OnlyReports t) : t.domains = s.domains ∧ t.retire = s.retire := by
  unfold State.OnlyReports at h
  rw [h]
  exact ⟨rfl, rfl⟩

theorem onlyChains_domains {s t : State} (h : s.OnlyChains t) : t.domains = s.domains ∧ t.retire = s.retire :=
  onlyReports_domains (s := { s with chains := t.chains }) h

/-- A direct command's result reaches no domain and no retire. -/
theorem directResult_domains (s : State) (e : DirectEntry) (rest : List DirectEntry) :
    (s.directResult e rest).domains = s.domains ∧ (s.directResult e rest).retire = s.retire := by
  have replied : (({ s with directQueue := rest } : State).replied e).domains = s.domains ∧
      (({ s with directQueue := rest } : State).replied e).retire = s.retire := by
    unfold State.replied
    split
    · exact onlyReports_domains (s := { s with directQueue := rest }) (onlyReports_hand ..)
    · exact ⟨rfl, rfl⟩
  by_cases last : e.done + e.failed = e.count
  · rw [directResult_ends s e rest last]
    generalize ({ s with directQueue := rest } : State).replied e = u at *
    cases e.firstFailed with
    | none => exact replied
    | some x =>
      obtain ⟨o, q⟩ := x
      obtain ⟨domains, retire⟩ := onlyReports_domains (onlyReports_storeEvent u
        { time := s.timeBase, kind := .commandFailure, link := some e.link, granule := some (e.first + o)
          domain := e.kind.domainD, detail := .failure q })
      exact ⟨domains.trans replied.1, retire.trans replied.2⟩
  · rw [directResult_stays s e rest last]
    exact ⟨rfl, rfl⟩

/-- The retire that a result of its last step ends. -/
def State.lastOfRetire (s : State) (src : StepSource) : Prop :=
  src = .retire ∧ s.retire.running = true ∧ s.retire.position = none ∧ s.retire.held = none ∧ s.retire.stepsInFence ≤ 1

/-- The part after a step of the retire left its fence entry. -/
def State.stepLeft (s : State) : State :=
  { s with retire := { s.retire with stepsInFence := s.retire.stepsInFence - 1 } }

theorem stepResult_retire (s : State) (g : Nat) : s.stepResult .retire g none = s.stepLeft.retireTest := rfl

/-- A result that does not end a retire leaves the domains. -/
theorem stepResult_domains (s : State) (src : StepSource) (g : Nat) (h : ¬ s.lastOfRetire src) :
    (s.stepResult src g none).domains = s.domains ∧ (s.stepResult src g none).retire.running = s.retire.running := by
  cases src with
  | direct =>
    unfold State.stepResult
    cases s.directQueue with
    | nil => exact ⟨rfl, rfl⟩
    | cons e rest =>
      obtain ⟨domains, retire⟩ := directResult_domains s
        ({ e with inFence := e.inFence - 1 }.countResult (g - e.first) none) rest
      exact ⟨domains, by dsimp only; rw [retire]⟩
  | chain c =>
    obtain ⟨domains, retire⟩ := onlyChains_domains (State.OnlyChannel.trans (onlyChannel_updChan s c
      fun k => { k with inFence := k.inFence - 1 }.countResult (g - k.rangeFirst) none)
        (onlyChannel_settleChannel _ c)).1
    exact ⟨domains, congrArg RetireScanner.running retire⟩
  | retire =>
    have waits : ¬ (s.stepLeft.retire.running = true ∧ s.stepLeft.retire.position = none ∧
        s.stepLeft.retire.held = none ∧ s.stepLeft.retire.stepsInFence = 0) := fun ⟨running, walked, held, steps⟩ =>
      h ⟨rfl, running, walked, held, Nat.sub_eq_zero_iff_le.mp steps⟩
    rw [stepResult_retire, retireTest_waits _ waits]
    exact ⟨rfl, rfl⟩
  | sweep => exact ⟨rfl, rfl⟩

/-- The result that ends a retire (R113). -/
theorem stepResult_ends (s : State) (src : StepSource) (g : Nat) (h : s.lastOfRetire src) (ok : s.TablesOk)
    (nonzero : s.retire.domain ≠ 0) :
    let t := s.stepResult src g none
    StatusSet.has t.reports.status .retireDone = true ∧ t.retire.running = false ∧
      t.domainEntry s.retire.domain = { state := .absent, owned := 0 } ∧
      (∀ x : DomainNo, x ≠ s.retire.domain → t.domainEntry x = s.domainEntry x) ∧
      t.reports.q1 = s.stepLeft.residueTold.reports.q1 := by
  obtain ⟨rfl, running, walked, held, steps⟩ := h
  obtain ⟨has, reset, own, others, queue, _⟩ := retireTest_effect s.stepLeft
    ⟨running, walked, held, Nat.sub_eq_zero_iff_le.mpr steps⟩ ok nonzero
  exact ⟨has, congrArg RetireScanner.running reset, own, others, queue⟩

theorem residueTold_none (s : State) (h : (s.domainEntry s.retire.domain).owned = 0) : s.residueTold = s :=
  if_pos h

theorem residueTold_room (s : State) (h : (s.domainEntry s.retire.domain).owned ≠ 0)
    (room : s.reports.q1.fill < s.reports.q1.size) : s.residueTold.reports.q1.records = s.reports.q1.records ++
      [{ time := s.timeBase, kind := .countResidue, link := none, granule := none
         domain := some s.retire.domain, detail := .count (s.domainEntry s.retire.domain).owned }] := by
  unfold State.residueTold
  rw [if_neg h, storeEvent_room s _ room]
  split
  · rw [raise_q1]
    rfl
  · rfl

/-- What the result that ends a retire leaves at the end of its event (R113). -/
theorem endedRetire_told (s : State) (src : StepSource) (g : Nat) (h : s.lastOfRetire src) (ok : s.TablesOk)
    (nonzero : s.retire.domain ≠ 0) :
    let t := (s.stepResult src g none).closeEvent
    t.domainEntry s.retire.domain = { state := .absent, owned := 0 } ∧
      (∀ x : DomainNo, x ≠ s.retire.domain → t.domainEntry x = s.domainEntry x) ∧ t.retire.running = false ∧
      StatusSet.has t.reports.status .retireDone = true ∧
      ((s.domainEntry s.retire.domain).owned = 0 → t.reports.q1 = s.reports.q1) ∧
      ((s.domainEntry s.retire.domain).owned ≠ 0 → s.reports.q1.fill < s.reports.q1.size →
        t.reports.q1.records = s.reports.q1.records ++
          [{ time := s.timeBase, kind := .countResidue, link := none, granule := none
             domain := some s.retire.domain, detail := .count (s.domainEntry s.retire.domain).owned }]) := by
  obtain ⟨has, running, own, others, told⟩ := stepResult_ends s src g h ok nonzero
  generalize s.stepResult src g none = v at *
  have close := closeEvent_eq v
  generalize v.closeEvent = t at *
  have domains : t.domains = v.domains := by rw [close]
  have retire : t.retire = v.retire := by rw [close]
  have status : t.reports.status = v.reports.status := by rw [close]
  have queue : t.reports.q1 = v.reports.q1 := by rw [close]
  refine ⟨?_, fun x other => ?_, by rw [retire, running], by rw [status]; exact has, fun none => ?_,
    fun some room => ?_⟩
  · rw [domainEntry_congr domains, own]
  · rw [domainEntry_congr domains, others x other]
  · rw [queue, told, residueTold_none s.stepLeft none]
    rfl
  · rw [queue, told]
    exact residueTold_room s.stepLeft some room

theorem placeSharer_generation (r : TagRecord) (w : Half) : (placeSharer r w).generation = r.generation := by
  unfold placeSharer
  split
  · rfl
  · split <;> rfl

theorem finalRecord_generation (k : StepKind) (p : ReadRecord) :
    (finalRecord k p).generation = finalGeneration k p := by
  cases k with
  | share d e rights => exact placeSharer_generation _ _
  | unshare d e =>
    unfold finalRecord
    dsimp only
    split <;> rfl
  | _ => rfl

/-- A granted final write as a whole state before the event's end, its parts named. -/
theorem finalWrite_stages (s : State) (g : Nat) (e : FenceEntry) (p : ReadRecord) (rest : List CommandRequest) :
    let w := finalRecord e.kind p
    let u := ((((s.granted rest).writeRecord g w).freeGranule g).adjustOwned e.kind p w).freeFence g
    u = { s with
        dram := (s.writeRecord g w).dram, directory := (s.freeGranule g).directory
        domains := (s.adjustOwned e.kind p w).domains
        fence := s.fence.filter (fun x => x.granule != g), retire := u.retire
        store := { s.store with commandQ := rest, passOver := u.store.passOver, retireQ := u.store.retireQ } } ∧
      u.retire = { s.retire with setAside := u.retire.setAside } := by
  intro w
  have record : (s.granted rest).writeRecord g w = { s with
      dram := (s.writeRecord g w).dram
      store := { s.store with commandQ := rest, passOver := (s.granted rest).store.passOver } } := rfl
  generalize (s.granted rest).writeRecord g w = r at *
  have freed := freeGranule_whole r g
  have directory := freeGranule_directory (s := s) (t := r) (by rw [record]) g
  generalize r.freeGranule g = a at *
  have counted := adjustOwned_whole a e.kind p w
  have domains := adjustOwned_domains s a e.kind p w (by rw [freed, record]) (by rw [freed, record]; rfl)
  generalize a.adjustOwned e.kind p w = b at *
  have left := freeFence_eq b g
  have scanner := freeFence_scanner b g
  generalize b.freeFence g = u at *
  refine ⟨?_, ?_⟩
  · rw [left, counted, domains, freed, directory, record]
  · rw [scanner, counted, freed, record]

/-- Settles O32: the final write is followed stage by stage (record, directory, counts, fence entry, result), and the
owned counts by the prior and the written counted owner. -/
theorem finalWriteGrant : Obligations.FinalWriteGrant := by
  unfold Obligations.FinalWriteGrant
  refine ⟨fun s g e p rest pick queue found prior inside memory => ?_, fun k p => ?_,
    fun s k p w d ok kind nonzero => owned_adjustOwned s k p w d ok kind nonzero,
    fun s p w d ok nonzero domain => owned_adjustOwned_quarantine s p w d ok nonzero domain⟩
  · intro a d ends
    have event := exec_finalWriteGrant s g e p rest pick queue found prior inside
    obtain ⟨whole, scanner⟩ := finalWrite_stages s g e p rest
    dsimp only at event whole scanner
    rw [event]
    change ∃ t, Host.Outcome.next (State.closeEvent (State.stepResult (State.freeFence (State.adjustOwned
      (State.freeGranule (State.writeRecord (s.granted rest) g _) g) _ _ _) g) _ _ _)) = _ ∧ _
    generalize ((((s.granted rest).writeRecord g (finalRecord e.kind p)).freeGranule g).adjustOwned e.kind p
      (finalRecord e.kind p)).freeFence g = u at *
    have tables (ok : s.TablesOk) : u.TablesOk := by
      rw [whole]
      exact ⟨ok.1, ((form_adjustOwned s e.kind p (finalRecord e.kind p)).tables ok).2.1,
        ((form_freeGranule s g).tables ok).2.2⟩
    have entry (x : DomainNo) : u.domainEntry x = a.domainEntry x := by
      rw [whole]
      rfl
    have last : u.lastOfRetire e.source ↔ ends := by
      unfold State.lastOfRetire
      rw [scanner]
    have domain : u.retire.domain = d := by rw [scanner]
    have quiet := stepResult_domains u e.source g
    have ended := endedRetire_told u e.source g
    obtain ⟨result, send⟩ := onlyResult_stepResult u e.source g none
    unfold State.OnlyResult at result
    dsimp only at ended
    generalize u.stepResult e.source g none = v at *
    have close := closeEvent_eq v
    have told := linksSend_closeEvent v
    generalize v.closeEvent = t at *
    have outer : u.domains = a.domains ∧ u.retire.running = s.retire.running := by
      rw [scanner, whole]
      exact ⟨rfl, rfl⟩
    have written : t.dram = (s.writeRecord g (finalRecord e.kind p)).dram := by rw [close, result, whole]
    have ways : t.directory = (s.freeGranule g).directory := by rw [close, result, whole]
    have domains : t.domains = v.domains := by rw [close]
    have retire : t.retire = v.retire := by rw [close]
    refine ⟨t, rfl, ?_, fun b outside => ?_, ways, fun ok w => ?_, ?_, fun going => ?_, fun finished ok nonzero => ?_,
      ?_, ?_⟩
    · rw [written, readImage_writeRecord s g _ memory]
    · rw [written]
      exact Memory.read_writeImage_outside s.dram g b _ memory outside
    · rw [dirWay_congr ways, dirWay_freeGranule s g w ok]
    · rw [close, result, whole]
    · obtain ⟨same, running⟩ := quiet (mt last.mp going)
      exact ⟨(domains.trans same).trans outer.1, by rw [retire, running, outer.2]⟩
    · obtain ⟨own, others, running, has, silent, told⟩ := ended (last.mpr finished) (tables ok) (by rw [domain]; exact nonzero)
      rw [domain, entry] at silent told
      rw [domain] at own others
      have reports : u.reports = s.reports := by rw [whole]
      have time : u.timeBase = s.timeBase := by rw [whole]
      rw [reports] at silent told
      rw [time] at told
      exact ⟨own, fun x other => (others x other).trans (entry x), running, has, silent, told⟩
    · exact ((State.LinksSend.of_eq (by rw [whole])).trans send).trans told
    · rw [close, result, whole]
  · exact finalRecord_generation _ _

end Sys2Proof.Machine
end

section
/-! SUPPORT. The arbiter of the store port, the writes of TABLE_INIT and the software reads (R13, R16 to R19). -/

namespace Sys2Proof.Machine

/-! ### The arbiter (R16) -/

/-- The class is ready and passed over as often as the arbiter allows. -/
def State.promoted (s : State) (c : ArbClass) : Bool :=
  s.classReady c && decide (64 ≤ s.store.passOver.count c)

theorem mem_arbOrder (c : ArbClass) : c ∈ arbOrder := by
  cases c <;> decide

theorem promoted_iff (s : State) (c : ArbClass) :
    s.promoted c = true ↔ s.classReady c = true ∧ 64 ≤ s.store.passOver.count c := by
  unfold State.promoted
  rw [Bool.and_eq_true, decide_eq_true_eq]

theorem arbPick_eq (s : State) : s.arbPick = match arbOrder.find? s.promoted with
    | some c => some c
    | none => arbOrder.find? s.classReady := by
  unfold State.arbPick
  dsimp only
  rw [List.find?_filter, List.head?_filter]
  have promoted : s.promoted = fun c => decide (s.classReady c = true ∧
      decide (Config.passOverMax ≤ s.store.passOver.count c) = true) := by
    funext c
    rw [Bool.eq_iff_iff, promoted_iff, decide_eq_true_eq, decide_eq_true_eq]
    rfl
  rw [promoted] <;> rfl

theorem not_promoted_iff (s : State) (c : ArbClass) :
    (!s.promoted c) = true ↔ (s.classReady c = true → s.store.passOver.count c < 64) := by
  rw [Bool.not_eq_true', ← Bool.not_eq_true, promoted_iff, not_and, Nat.not_le]

/-- What the arbiter's choice says of the classes (R16). -/
theorem arbPick_some (s : State) (c : ArbClass) (h : s.arbPick = some c) : s.classReady c = true ∧
    ∃ pre post : List ArbClass, arbOrder = pre ++ c :: post ∧
      (64 ≤ s.store.passOver.count c → ∀ d ∈ pre, s.classReady d = true → s.store.passOver.count d < 64) ∧
      (s.store.passOver.count c < 64 → (∀ d ∈ pre, s.classReady d = false) ∧
        ∀ d : ArbClass, s.classReady d = true → s.store.passOver.count d < 64) := by
  rw [arbPick_eq] at h
  cases pick : arbOrder.find? s.promoted with
  | some x =>
    rw [pick] at h
    obtain rfl : x = c := Option.some.inj h
    obtain ⟨own, pre, post, order, before⟩ := List.find?_eq_some_iff_append.mp pick
    obtain ⟨ready, count⟩ := (promoted_iff s x).mp own
    exact ⟨ready, pre, post, order, fun _ d m => (not_promoted_iff s d).mp (before d m), fun low => by omega⟩
  | none =>
    rw [pick] at h
    have low (d : ArbClass) : s.classReady d = true → s.store.passOver.count d < 64 :=
      (not_promoted_iff s d).mp (by rw [Bool.not_eq_true', ← Bool.not_eq_true]; exact List.find?_eq_none.mp pick d (mem_arbOrder d))
    obtain ⟨ready, pre, post, order, before⟩ := List.find?_eq_some_iff_append.mp h
    have idle (d : ArbClass) (m : d ∈ pre) : s.classReady d = false := (Bool.not_eq_true' _).mp (before d m)
    exact ⟨ready, pre, post, order, fun _ d _ => low d, fun _ => ⟨idle, low⟩⟩

theorem countGrant_count (s : State) (c d : ArbClass) : (s.countGrant c).store.passOver.count d =
    if d = c then 0
    else if s.classReady d = true ∧ s.store.passOver.count d < 64 then s.store.passOver.count d + 1
    else s.store.passOver.count d := by
  have after : (s.countGrant c).store.passOver.count d = s.passOverAfter c d := by cases d <;> rfl
  rw [after]
  unfold State.passOverAfter satInc
  dsimp only
  by_cases own : d = c
  · rw [if_pos own, if_pos own]
  · rw [if_neg own, if_neg own]
    by_cases ready : s.classReady d = true
    · rw [if_pos ready]
      simp only [ready, true_and]
      rfl
    · rw [if_neg ready, if_neg fun h => ready h.1]

/-- When each class is ready (R14, R16). -/
theorem classReady_iff (s : State) :
    (s.classReady .verdict = true ↔ s.store.verdictQ ≠ []) ∧
    (s.classReady .command = true ↔ s.store.commandQ ≠ [] ∧ s.store.initRunning = false) ∧
    (s.classReady .retire = true ↔ s.store.retireQ ≠ none ∧ s.store.initRunning = false) ∧
    (s.classReady .software = true ↔ s.store.softRead ≠ none ∨ s.store.initRunning = true) ∧
    (s.classReady .sweep = true ↔ s.store.sweepQ ≠ none ∧ s.store.initRunning = false) := by
  unfold State.classReady State.classWaiting State.classHeld State.softOffer
  refine ⟨?_, ?_, ?_, ?_, ?_⟩
  · simp
  · simp
  · simp [Option.isSome_iff_ne_none]
  · cases s.store.initRunning <;> cases s.store.softRead <;> simp
  · simp [Option.isSome_iff_ne_none]

/-- Settles O40: the choice is the first promoted class of the fixed order, or else its first ready one. -/
theorem arbiterChoice : Obligations.ArbiterChoice := by
  unfold Obligations.ArbiterChoice
  refine ⟨arbPick_some, countGrant_count, fun s running => ?_, arbPick_of_ready, classReady_iff,
    fun s => ⟨fun quiet none => ?_, fun quiet some => ?_, fun running none => ?_, fun running some => ?_⟩⟩
  · have held (c : ArbClass) (h : s.classHeld c = s.store.initRunning) : s.classReady c = false := by
      unfold State.classReady
      rw [h, running, Bool.not_true, Bool.and_false]
    exact ⟨held .command rfl, held .retire rfl, held .sweep rfl⟩
  · simp [State.softOffer, quiet, none]
  · obtain ⟨r, found⟩ := Option.ne_none_iff_exists'.mp some
    simp [State.softOffer, quiet, found]
  · simp [State.softOffer, running, none]
  · obtain ⟨r, found⟩ := Option.ne_none_iff_exists'.mp some
    simp [State.softOffer, running, found]

/-! ### The writes of TABLE_INIT (R13) -/

theorem freeRecord_image : recordImage freeRecord = #v[0, 0, 0, 0, 0, 0, 0, 0, 0, 0, 0, 0, 0, 0, 0, 255] := by
  decide +kernel

/-- The part after a write of TABLE_INIT that is not the last. -/
def State.initWritten (s : State) : State :=
  { s.writeRecord s.store.initProgress freeRecord with
    store := { s.store with initProgress := s.store.initProgress + 1, softTurn := .softwareRead } }

/-- TABLE_INIT over: the table is valid. -/
def State.initEnded (s : State) : State :=
  { s with store := { s.store with initRunning := false, tableValid := true } }

theorem initWrite_goes_on (s : State) (h : s.store.initProgress + 1 ≠ s.capacity) : s.initWrite = s.initWritten :=
  if_neg h

theorem initWrite_ends (s : State) (h : s.store.initProgress + 1 = s.capacity) :
    s.initWrite = s.initWritten.initEnded.raise .tableInitDone := if_pos h

theorem exec_tableInitWriteGrant (s : State) (offer : s.softOffer = some .initWrite) (pick : s.arbPick = some .software)
    (inside : s.store.initProgress < s.capacity) :
    exec .tableInitWriteGrant s = .next (s.countGrant .software).initWrite.closeEvent := by
  show execTableInitWriteGrant s = _
  unfold execTableInitWriteGrant
  rw [if_pos offer, onGrant_due s .software _ pick]
  exact onRecord_inside _ _ _ inside

theorem outbound_of_raise (s : State) (st : Status) (l : LinkId) :
    (((s.raise st).closeEvent).link l).outbound.filter (fun m => !m.isNotify) =
      (s.link l).outbound.filter fun m => !m.isNotify := by
  rw [closeEvent_others]
  unfold State.link
  rw [raise_links]

theorem writeRecord_granted (s : State) (c : ArbClass) (g : Nat) (r : TagRecord) :
    (s.countGrant c).writeRecord g r = { s.countGrant c with dram := (s.writeRecord g r).dram } := by
  unfold State.writeRecord State.countGrant
  rfl

theorem initWritten_whole (s : State) : (s.countGrant .software).initWritten = { s with
    dram := (s.writeRecord s.store.initProgress freeRecord).dram
    store := { s.store with
      initProgress := s.store.initProgress + 1, softTurn := .softwareRead
      passOver := (s.countGrant .software).store.passOver } } := by
  unfold State.initWritten
  rw [writeRecord_granted]
  rfl

theorem initWritten_again (s t : State) (h : t.dram = (s.writeRecord s.store.initProgress freeRecord).dram) :
    ({ s.countGrant .software with
      dram := t.dram
      store := { (s.countGrant .software).store with
        initProgress := s.store.initProgress + 1, softTurn := .softwareRead } } : State) =
      (s.countGrant .software).initWritten := by
  rw [h, initWritten_whole]
  rfl

/-- What a write of TABLE_INIT leaves at the end of its event, the last one and the others. -/
theorem initWrite_closed (s : State) (t : State) (event : t = (s.countGrant .software).initWrite.closeEvent) :
    t.dram = (s.writeRecord s.store.initProgress freeRecord).dram ∧
      t.store.initProgress = s.store.initProgress + 1 ∧
      (s.store.initProgress + 1 = s.capacity → t.store.initRunning = false ∧
        t.store.tableValid = true ∧ t.reports.status = s.reports.status ||| Status.tableInitDone.mask) ∧
      (s.store.initProgress + 1 ≠ s.capacity → t.store.initRunning = s.store.initRunning ∧
        t.store.tableValid = s.store.tableValid ∧ t.reports.status = s.reports.status) ∧
      s.LinksSend t ∧ t = { s with
        dram := t.dram, links := t.links
        store := { s.store with
          initProgress := t.store.initProgress, softTurn := .softwareRead
          initRunning := t.store.initRunning, tableValid := t.store.tableValid
          passOver := t.store.passOver }
        reports := { s.reports with status := t.reports.status, notifyDue := t.reports.notifyDue } } := by
  have whole := initWritten_whole s
  by_cases last : s.store.initProgress + 1 = s.capacity
  · rw [initWrite_ends (s.countGrant .software) last] at event
    generalize (s.countGrant .software).initWritten = w at *
    have raised := raise_eq w.initEnded .tableInitDone
    have links := raise_links w.initEnded .tableInitDone
    have status := raise_status w.initEnded .tableInitDone
    have ended : w.initEnded = { s with
        dram := w.dram
        store := { w.store with initRunning := false, tableValid := true } } := by
      rw [whole]
      rfl
    generalize w.initEnded.raise .tableInitDone = v at *
    generalize w.initEnded = x at *
    have close := closeEvent_eq v
    have told := linksSend_closeEvent v
    rw [← event] at close told
    refine ⟨by rw [close, raised, ended, whole], by rw [close, raised, ended, whole],
      fun _ => ⟨by rw [close, raised, ended], by rw [close, raised, ended], by rw [close]; dsimp only; rw [status, ended]⟩,
      fun other => absurd last other, (State.LinksSend.of_eq (by rw [links, ended])).trans told, ?_⟩
    rw [close, raised, ended, whole]
  · rw [initWrite_goes_on (s.countGrant .software) last] at event
    generalize (s.countGrant .software).initWritten = w at *
    have close := closeEvent_eq w
    have told := linksSend_closeEvent w
    rw [← event] at close told
    refine ⟨by rw [close, whole], by rw [close, whole], fun first => absurd first last,
      fun _ => ⟨by rw [close, whole], by rw [close, whole], by rw [close, whole]⟩,
      (State.LinksSend.of_eq (by rw [whole])).trans told, ?_⟩
    rw [close, whole]

theorem initWrite_outbound (s : State) (l : LinkId) :
    (s.initWrite.closeEvent.link l).outbound.filter (fun m => !m.isNotify) =
      (s.link l).outbound.filter fun m => !m.isNotify := by
  have start : s.initWritten.link l = s.link l := by
    have links : s.initWritten.links = s.links := by dsimp only [State.initWritten, State.writeRecord]
    unfold State.link
    rw [links]
  by_cases last : s.store.initProgress + 1 = s.capacity
  · rw [initWrite_ends s last]
    generalize s.initWritten = w at *
    have ended : w.initEnded.link l = w.link l := rfl
    rw [outbound_of_raise, ended, start]
  · rw [initWrite_goes_on s last]
    generalize s.initWritten = w at *
    rw [closeEvent_others, start]

/-- Settles O39: the last write is told from the others, and each part is read off the state that the write leaves. -/
theorem tableInitWriteGrant : Obligations.TableInitWriteGrant := by
  unfold Obligations.TableInitWriteGrant
  intro s offer pick inside memory
  obtain ⟨dram, progress, ends, goes, send, whole⟩ := initWrite_closed s _ rfl
  have again := initWritten_again s _ dram
  have quiet := initWrite_outbound (s.countGrant .software)
  have last := initWrite_ends (s.countGrant .software)
  have other := initWrite_goes_on (s.countGrant .software)
  refine ⟨(s.countGrant .software).initWrite.closeEvent, exec_tableInitWriteGrant s offer pick inside, ?_,
    fun a outside => ?_, progress, fun h => ?_, goes, send, whole, quiet, fun h => ?_, fun h => ?_⟩
  · rw [dram, readImage_writeRecord s _ _ memory, freeRecord_image]
  · rw [dram]
    exact Memory.read_writeImage_outside s.dram _ a _ memory outside
  · obtain ⟨running, valid, status⟩ := ends h
    refine ⟨running, valid, ?_, status⟩
    rw [last h, (closeEvent_parts _).2.2.2.1]
    exact raise_has _ _
  · rw [again, last h]
    rfl
  · rw [again, other h]

/-! ### TAG_READ and TAG_SCAN (R17 to R19) -/

theorem queueSoftware_noGeometry (s : State) (h : MgmtHeader) (i : Nat) (r : SoftRequest)
    (unset : s.store.geometry = none) :
    s.queueSoftware h i r = s.hand h.link (.refuse { kind := .management, tag := h.tag } .noGeometry) := if_pos unset

theorem queueSoftware_outOfRange (s : State) (h : MgmtHeader) (i : Nat) (r : SoftRequest)
    (set : s.store.geometry ≠ none) (beyond : s.capacity ≤ i) :
    s.queueSoftware h i r = s.hand h.link (.refuse { kind := .management, tag := h.tag } .outOfRange) :=
  (if_neg set).trans (if_pos beyond)

theorem queueSoftware_queued (s : State) (h : MgmtHeader) (i : Nat) (r : SoftRequest)
    (set : s.store.geometry ≠ none) (inside : i < s.capacity) :
    s.queueSoftware h i r =
      ({ s with store := { s.store with softQueue := s.store.softQueue ++ [r] } } : State).placeSoftRead :=
  (if_neg set).trans (if_neg (Nat.not_le.mpr inside))

/-- Settles O41: both requests pass the same two tests before they enter the queue. -/
theorem softwareRequests : Obligations.SoftwareRequests := by
  unfold Obligations.SoftwareRequests
  intro s t h i frame r names carried
  have event : exec frame s = .next (t.queueSoftware h i r).closeEvent := by
    rcases names with ⟨n, rfl, rfl⟩ | ⟨w, o, rfl, rfl⟩
    · exact congrArg Host.Outcome.next (deliver_carries s t h (.tagRead h i n)
        (fun u => u.queueSoftware h i (u.readRequest h i n)) carried)
    · exact congrArg Host.Outcome.next (deliver_carries s t h (.tagScan h i w o)
        (fun u => u.queueSoftware h i (u.scanRequest h i w o)) carried)
  refine ⟨fun unset => ?_, fun set beyond => ?_, fun set inside => ?_⟩
  · rw [event, queueSoftware_noGeometry t h i r unset]
  · rw [event, queueSoftware_outOfRange t h i r set beyond]
  · rw [event, queueSoftware_queued t h i r set inside]

/-! ### The grant of a software read -/

theorem placeSoftRead_stays (s : State) (h : s.store.softQueue = [] ∨ s.store.softRead ≠ none) :
    s.placeSoftRead = s := by
  unfold State.placeSoftRead
  split
  next r rest none queue => simp [none, queue] at h
  next => rfl

theorem placeSoftRead_places (s : State) (r : SoftRequest) (rest : List SoftRequest)
    (queue : s.store.softQueue = r :: rest) (none : s.store.softRead = none) :
    s.placeSoftRead =
      { s with store := { s.store with softRead := some { granule := r.next, live := true } } } := by
  unfold State.placeSoftRead
  rw [queue, none]

theorem scanMatches_verified (w : WantedState) (o : Option DomainNo) (r : TagRecord) :
    scanMatches w o (.verified r) = true ↔
      ((w = .free ∧ r.state = .free) ∨ (w = .owned ∧ r.state = .owned) ∨
        (w = .shared ∧ r.state = .shared) ∨ (w = .fenced ∧ r.state = .fenced) ∨
        (w = .quarantined ∧ r.state = .quarantined)) ∧
      ∀ d : DomainNo, o = some d → r.owner = d := by
  cases o with
  | none => cases w <;> simp [scanMatches]
  | some d => cases w <;> simp [scanMatches]

theorem sharers_bits (r : TagRecord) : r.sharers =
    ([r.slot1, r.slot2, r.slot3].filter fun x => decide (2 ^ 15 ≤ x.toNat)).map fun x =>
      (BitVec.ofNat 16 (x.toNat % 1024), if x.toNat / 2 ^ 14 % 2 = 1 then .readWrite else .read) := by
  have present : slotPresent = fun x : Half => decide (2 ^ 15 ≤ x.toNat) := by
    funext x
    rw [Bool.eq_iff_iff, slotPresent_iff, decide_eq_true_eq]
  have domain (x : Half) : slotDomain x = BitVec.ofNat 16 (x.toNat % 1024) :=
    BitVec.eq_of_toNat_eq ((toNat_and_low10 x).trans (by rw [BitVec.toNat_ofNat]; omega))
  unfold TagRecord.sharers TagRecord.slots
  rw [present]
  simp only [domain, slotRights_eq]

theorem readImage_check (m : List Host.Cell) (i : Nat) : (Memory.readImage m i)[15] = Memory.read m (16 * i + 15) := rfl

theorem tagEntry_verified (s : State) (i : Nat) (r : TagRecord) (read : s.readRecord i = .verified r) :
    s.tagEntry i = .verified (tagView r (Memory.readImage s.dram i)) := by
  have found : verify (Memory.readImage s.dram i) = .verified r := read
  unfold State.tagEntry
  dsimp only
  rw [found]

theorem tagEntry_unverifiable (s : State) (i : Nat) (img : Image) (read : s.readRecord i = .unverifiable img) :
    s.tagEntry i = .unverifiable img := by
  have found : verify (Memory.readImage s.dram i) = .unverifiable img := read
  unfold State.tagEntry
  dsimp only
  rw [found]

/-- The part after the grant of a software read. -/
def State.softGranted (s : State) : State :=
  { s.countGrant .software with store := { (s.countGrant .software).store with
    softRead := none, softTurn := .initWrite } }

theorem exec_softwareReadGrant (s : State) (q : SoftRead) (offer : s.softOffer = some .softwareRead)
    (pick : s.arbPick = some .software) (read : s.store.softRead = some q) : exec .softwareReadGrant s =
      if q.live then s.softGranted.onRecord q.granule s.softGranted.headRead.closeEvent
      else .next s.softGranted.placeSoftRead := by
  show execSoftwareReadGrant s = _
  unfold execSoftwareReadGrant
  rw [if_pos offer, onGrant_due s .software _ pick]
  have same : (s.countGrant .software).store.softRead = some q := read
  rw [same]
  rfl

theorem headRead_goesOn (s : State) (r q : SoftRequest) (rest : List SoftRequest) (queue : s.store.softQueue = r :: rest)
    (result : s.softResult r = .goesOn q) :
    s.headRead = ({ s with store := { s.store with softQueue := q :: rest } } : State).placeSoftRead := by
  unfold State.headRead
  rw [queue]
  dsimp only
  rw [result]

theorem headRead_ends (s : State) (r : SoftRequest) (d : TagData) (rest : List SoftRequest)
    (queue : s.store.softQueue = r :: rest) (result : s.softResult r = .finished d) :
    s.headRead = (if s.isActive r.link then
        ({ s with store := { s.store with softQueue := rest } } : State).hand r.link (.tagData r.tag d)
      else ({ s with store := { s.store with softQueue := rest } } : State)).placeSoftRead := by
  unfold State.headRead
  rw [queue]
  dsimp only
  rw [result]
  rfl

/-- Settles O42: a dead read places the next one; a live one is decided by the result for its record. -/
theorem softwareReadGrant : Obligations.SoftwareReadGrant := by
  unfold Obligations.SoftwareReadGrant
  refine ⟨fun s g offer pick read => exec_softwareReadGrant s _ offer pick read,
    fun s => ⟨placeSoftRead_stays s, placeSoftRead_places s⟩,
    fun w o img r => ⟨?_, scanMatches_verified w o r⟩,
    fun s i => ⟨tagEntry_unverifiable s i, fun r read => ?_⟩,
    fun s r rest offer pick read queue inside => ?_⟩
  · cases w <;> simp [scanMatches]
  · rw [tagEntry_verified s i r read, tagView, sharers_bits, readImage_check]
    cases r.state <;> rfl
  · have event := exec_softwareReadGrant s _ offer pick read
    have granted : exec .softwareReadGrant s = .next s.softGranted.headRead.closeEvent :=
      event.trans (onRecord_inside s.softGranted r.next _ inside)
    have goes (q : SoftRequest) (h : s.softGranted.softResult r = .goesOn q) :=
      granted.trans (congrArg (fun t => Host.Outcome.next t.closeEvent)
        (headRead_goesOn s.softGranted r q rest queue h))
    have finishes (d : TagData) (h : s.softGranted.softResult r = .finished d) :=
      granted.trans (congrArg (fun t => Host.Outcome.next t.closeEvent)
        (headRead_ends s.softGranted r d rest queue h))
    have result : s.softGranted.softResult r = s.softResult r := rfl
    rw [result] at goes finishes
    intro u goesOn ends
    refine ⟨fun got kind more => goes _ ?_, fun got kind last => finishes _ ?_,
      fun w o kind => ⟨fun found => finishes _ ?_, fun other more => goes _ ?_, fun other last => finishes _ ?_⟩⟩
    · unfold State.softResult
      rw [kind]
      exact if_pos more
    · unfold State.softResult
      rw [kind]
      exact if_neg (Nat.not_lt.mpr last)
    · unfold State.softResult
      rw [kind]
      exact if_pos found
    · unfold State.softResult
      rw [kind]
      dsimp only
      rw [if_neg (by rw [other]; exact Bool.false_ne_true), if_pos more]
    · unfold State.softResult
      rw [kind]
      dsimp only
      rw [if_neg (by rw [other]; exact Bool.false_ne_true), if_neg (Nat.not_lt.mpr last)]

end Sys2Proof.Machine
end

section
/-! SUPPORT. CONTROL START: its tests, the trial's watched match report and the links that it makes ACTIVE (R191, R192,
R41, R43). -/

namespace Sys2Proof.Machine

theorem exec_start (s t : State) (h : MgmtHeader) (c : s.Carries h (.start h) t) :
    exec (.start h) s = .next ((t.startOp h.source).1.hand h.link
      (.controlReply h.tag (t.startOp h.source).2)).closeEvent :=
  congrArg Host.Outcome.next (deliver_control s t h (.start h) (fun u => u.startOp h.source) c)

/-! ### The tests before the trial -/

theorem startOp_operating (s : State) (src : SourceId) (m : s.mode = .operating) :
    s.startOp src = (s, .refused .notStartup) := if_pos (by rw [m]; simp)

theorem startOp_startup (s : State) (src : SourceId) (m : s.mode = .startup) : s.startOp src =
    if s.store.geometry = none then (s, .refused .noGeometry)
    else if s.store.initRunning then (s, .refused .tableBusy)
    else if !s.store.tableValid then (s, .refused .tableNotValid)
    else if s.epoch = 0 then (s, .refused .noPolicy)
    else if (s.trial src).result = .domain 0 then ((s.watchTrial src).startPart, .accepted)
    else (s.watchTrial src, .refused .noPlatformRoute) := if_neg (by rw [m]; exact fun n => n rfl)

/-- A state that START carries to its trial. -/
def State.StartReady (s : State) : Prop :=
  s.mode = .startup ∧ s.store.geometry ≠ none ∧ s.store.initRunning = false ∧ s.store.tableValid = true ∧ s.epoch ≠ 0

theorem startOp_trial (s : State) (src : SourceId) (ready : s.StartReady) : s.startOp src =
    if (s.trial src).result = .domain 0 then ((s.watchTrial src).startPart, .accepted)
    else (s.watchTrial src, .refused .noPlatformRoute) := by
  obtain ⟨mode, geometry, idle, valid, epoch⟩ := ready
  rw [startOp_startup s src mode, if_neg geometry, if_neg (by rw [idle]; exact Bool.false_ne_true), valid]
  exact (if_neg Bool.false_ne_true).trans (if_neg epoch)

/-! ### The trial -/

/-- The watched match report of a trial that element `n` decided. -/
def State.trialReport (s : State) (src : SourceId) (n : Nat) : WatchReport :=
  { element := n, message := .management, link := s.leadLink, source := src
    domain := (s.trial src).result.domain?, placement := .none }

theorem watchTrial_none (s : State) (src : SourceId) (h : (s.trial src).watched = none) : s.watchTrial src = s := by
  unfold State.watchTrial
  rw [h]

theorem watchTrial_some (s : State) (src : SourceId) (n : Nat) (h : (s.trial src).watched = some n) :
    s.watchTrial src = s.writeWatch (s.trialReport src n) := by
  unfold State.watchTrial
  rw [h]
  rfl

theorem watchTrial_whole (s : State) (src : SourceId) : s.watchTrial src = { s with
    watchReport := (s.watchTrial src).watchReport
    reports := { s.reports with
      status := (s.watchTrial src).reports.status, notifyDue := (s.watchTrial src).reports.notifyDue } } := by
  cases h : (s.trial src).watched with
  | none => rw [watchTrial_none s src h]
  | some n =>
    have raised := raise_eq s .watchHit
    rw [watchTrial_some s src n h, writeWatch_whole]
    generalize s.raise .watchHit = v at *
    rw [raised]

theorem watchTrial_report (s : State) (src : SourceId) (n : Nat) (h : (s.trial src).watched = some n) :
    (s.watchTrial src).watchReport = some (s.trialReport src n) ∧
      (s.watchTrial src).reports.status = s.reports.status ||| Status.watchHit.mask := by
  rw [watchTrial_some s src n h]
  refine ⟨?_, raise_status { s with watchReport := some (s.trialReport src n) } .watchHit⟩
  unfold State.writeWatch
  rw [raise_eq]

theorem domain?_eq (c : ClassResult) : c.domain? = match c with
    | .domain d => some d
    | .block | .unclassified => none := by
  cases c <;> rfl

theorem domain?_iff (c : ClassResult) (d : DomainNo) : c.domain? = some d ↔ c = .domain d := by
  cases c <;> simp [ClassResult.domain?]

/-- The end of an event that hands a message keeps the watched match report and the statuses. -/
theorem answered_report (s : State) (l : LinkId) (m : OutMsg) : (s.hand l m).closeEvent.watchReport = s.watchReport ∧
    (s.hand l m).closeEvent.reports.status = s.reports.status := by
  rw [closeEvent_eq]
  exact ⟨rfl, rfl⟩

/-! ### START accepted -/

theorem atStart_eq (k : Link) : k.atStart =
    { k with state := if k.state = .admitWait ∧ k.admission = true then .active else k.state } := by
  unfold Link.atStart
  split <;> rfl

/-- Settles O45: the tests give the refusals in order; the trial is then read off the watched match report that it
writes and off the links that the start makes ACTIVE. -/
theorem startControl : Obligations.StartControl := by
  unfold Obligations.StartControl
  intro s t h carried refused
  have event := exec_start s t h carried
  have refuse (r : ControlReason) (op : t.startOp h.source = (t, .refused r)) : refused r := by
    rw [op] at event
    exact event
  refine ⟨fun mode => refuse _ (startOp_operating t _ mode), fun mode => ⟨fun unset => refuse _ ?_,
    fun set => ⟨fun busy => refuse _ ?_, fun idle => ⟨fun invalid => refuse _ ?_, fun valid =>
      ⟨fun zero => refuse _ ?_, fun epoch => ?_⟩⟩⟩⟩⟩
  · rw [startOp_startup t _ mode, if_pos unset]
  · rw [startOp_startup t _ mode, if_neg set, if_pos busy]
  · rw [startOp_startup t _ mode, if_neg set, if_neg (by rw [idle]; exact Bool.false_ne_true), invalid]
    rfl
  · rw [startOp_startup t _ mode, if_neg set, if_neg (by rw [idle]; exact Bool.false_ne_true), valid]
    exact (if_neg Bool.false_ne_true).trans (if_pos zero)
  have op := startOp_trial t h.source ⟨mode, set, idle, valid, epoch⟩
  refine ⟨fun other silent => refuse _ ?_, ?_, fun platform => ?_⟩
  · rw [op, watchTrial_none t h.source silent]
    exact if_neg other
  · intro c w
    have report (n : Nat) : t.trialReport h.source n =
        { element := n, message := .management, link := t.leadLink, source := h.source
          domain := (match c.result with
            | .domain d => some d
            | .block | .unclassified => none)
          placement := .none } :=
      congrArg (fun d : Option DomainNo => ({ element := n, message := .management, link := t.leadLink
                                              source := h.source, domain := d, placement := .none } : WatchReport))
        (domain?_eq (t.trial h.source).result)
    have same : w = t.watchTrial h.source := by
      unfold State.watchTrial State.writeWatch
      show (match (t.trial h.source).watched with | none => _ | some n => _ : State) = _
      cases (t.trial h.source).watched with
      | none => rfl
      | some n =>
        exact congrArg (fun r => State.raise { t with watchReport := some r } .watchHit) (report n).symm
    have trial : c = t.trial h.source := rfl
    clear_value w c
    subst same trial
    have answer (u : State) (next : exec (.start h) s = .next u) :
        u.watchReport = (t.watchTrial h.source).watchReport ∧
          u.reports.status = (t.watchTrial h.source).reports.status := by
      rw [event] at next
      obtain rfl := Host.Outcome.next.inj next
      rw [op]
      split
      · exact answered_report (t.watchTrial h.source).startPart _ _
      · exact answered_report (t.watchTrial h.source) _ _
    refine ⟨fun other => ?_, fun platform => ?_, fun u next => ⟨fun silent => ?_, fun n watched => ?_⟩⟩
    · rw [event, op, if_neg other]
    · rw [event, op, if_pos platform]
      rfl
    · obtain ⟨own, status⟩ := answer u next
      rw [own, status, watchTrial_none t h.source silent]
      exact ⟨rfl, rfl⟩
    · obtain ⟨own, status⟩ := answer u next
      obtain ⟨found, raised⟩ := watchTrial_report t h.source n watched
      exact ⟨status.trans raised, t.trialReport h.source n, own.trans found, rfl, rfl, rfl, rfl, rfl,
        fun d => domain?_iff _ d⟩
  · have whole := watchTrial_whole t h.source
    have passed : (t.trial h.source).result = .domain 0 := platform
    rw [event, op, if_pos passed]
    have handed := replied_mem (t.watchTrial h.source).startPart h.link (.controlReply h.tag .accepted) rfl
    have sent := (linksSend_hand (t.watchTrial h.source).startPart h.link (.controlReply h.tag .accepted)).trans
      (linksSend_closeEvent _)
    have close := closeEvent_eq ((t.watchTrial h.source).startPart.hand h.link (.controlReply h.tag .accepted))
    have started (l : LinkId) : (t.watchTrial h.source).startPart.link l = (t.link l).atStart := by
      rw [link_startPart, whole]
      rfl
    refine ⟨_, rfl, fun l => ?_, handed, ?_⟩
    · rw [sent l, started, atStart_eq]
    · generalize State.closeEvent _ = u at *
      rw [close]
      generalize t.watchTrial h.source = w at *
      rw [whole]
      rfl

end Sys2Proof.Machine
end

section
/-! SUPPORT. CONTROL COMMIT: its tests, the commit flush set and the flushes of the switch (R65, R83, R139 to R144). -/

namespace Sys2Proof.Machine

/-! ### The commit flush set (R141) -/

/-- A commit flush waits for the link. -/
def Link.commitWaits (k : Link) : Prop :=
  k.state = .active ∨ (k.state = .held ∧ k.flushOutstanding = true)

/-- The step that forms the commit flush set. -/
def State.commitStep (s : State) (x : LinkSet) (l : LinkId) : LinkSet :=
  match (s.link l).state with
  | .active => LinkSet.add x l
  | .held => if (s.link l).flushOutstanding then LinkSet.add x l else x
  | _ => x

theorem commitSet_eq (s : State) : s.commitSet = allLinks.foldl s.commitStep 0 := rfl

theorem commitStep_has (s : State) (x : LinkSet) (l m : LinkId) :
    LinkSet.has (s.commitStep x l) m = true ↔ LinkSet.has x m = true ∨ (m = l ∧ (s.link l).commitWaits) := by
  have added : LinkSet.has (LinkSet.add x l) m = true ↔ LinkSet.has x m = true ∨ m = l :=
    (linkSet_members x l m).2.1.trans or_comm
  unfold Link.commitWaits State.commitStep
  cases state : (s.link l).state with
  | active => simp [added]
  | held => cases out : (s.link l).flushOutstanding <;> simp [added]
  | _ => simp

theorem commitSteps_has (s : State) (ls : List LinkId) (x : LinkSet) (m : LinkId) :
    LinkSet.has (ls.foldl s.commitStep x) m = true ↔
      LinkSet.has x m = true ∨ (m ∈ ls ∧ (s.link m).commitWaits) := by
  induction ls generalizing x with
  | nil => simp
  | cons l ls ih =>
    rw [List.foldl_cons, ih, commitStep_has, List.mem_cons]
    by_cases own : m = l
    · subst own
      tauto
    · tauto

theorem commitSet_has (s : State) (m : LinkId) : LinkSet.has s.commitSet m = true ↔ (s.link m).commitWaits := by
  rw [commitSet_eq, commitSteps_has, LinkSet.has_zero]
  simp only [Bool.false_eq_true, false_or, mem_allLinks, true_and]

/-! ### The flushes of the switch (R83, R141) -/

/-- A link for which a flush became due. -/
def Link.flushed (k : Link) (expiry : Time) : Link :=
  if k.state = .active ∧ k.flushOutstanding = false then
    { k with outbound := k.outbound ++ [.flushAll], flushOutstanding := true, flushTimer := some expiry }
  else k

theorem flushed_due (k : Link) (x : Time) (h : k.state = .active ∧ k.flushOutstanding = false) : k.flushed x =
    { k with outbound := k.outbound ++ [.flushAll], flushOutstanding := true, flushTimer := some x } := if_pos h

theorem flushed_none (k : Link) (x : Time) (h : ¬ (k.state = .active ∧ k.flushOutstanding = false)) :
    k.flushed x = k := if_neg h

theorem flushed_again (k : Link) (x : Time) : (k.flushed x).flushed x = k.flushed x := by
  by_cases due : k.state = .active ∧ k.flushOutstanding = false
  · rw [flushed_due k x due]
    exact if_neg fun h => Bool.noConfusion h.2
  · rw [flushed_none k x due, flushed_none k x due]

/-- The step of the flushes of a commit switch. -/
def State.flushIfActive (s : State) (l : LinkId) : State := if s.isActive l then s.flushDue l else s

/-- When a flush due now expires. -/
def State.flushExpiry (s : State) : Time := s.timeBase + BitVec.ofNat 48 s.revokeTimeout

theorem flushIfActive_whole (s : State) (l : LinkId) :
    s.flushIfActive l = { s with links := (s.flushIfActive l).links } := by
  unfold State.flushIfActive State.flushDue
  split
  · split <;> rfl
  · rfl

theorem flushIfActive_link (s : State) (l m : LinkId) :
    (s.flushIfActive l).link m = if m = l then (s.link m).flushed s.flushExpiry else s.link m := by
  unfold State.flushIfActive State.flushDue
  by_cases active : s.isActive l = true
  · rw [if_pos active]
    rw [isActive_iff] at active
    by_cases out : (s.link l).flushOutstanding = true
    · rw [if_pos out]
      split
      · rename_i own
        rw [own, flushed_none _ _ fun h => by simp [out] at h]
      · rfl
    · rw [if_neg out]
      split
      · rename_i own
        rw [own, State.link_updLink_same, flushed_due _ _ ⟨active, Bool.eq_false_iff.mpr out⟩]
        rfl
      · rename_i other
        rw [State.link_updLink_ne s _ other]
  · rw [if_neg active]
    rw [isActive_iff] at active
    split
    · rename_i own
      rw [own, flushed_none _ _ fun h => active h.1]
    · rfl

theorem flushes_effect (ls : List LinkId) (s : State) (m : LinkId) :
    (ls.foldl State.flushIfActive s).link m = (if m ∈ ls then (s.link m).flushed s.flushExpiry else s.link m) ∧
      ls.foldl State.flushIfActive s = { s with links := (ls.foldl State.flushIfActive s).links } := by
  induction ls generalizing s with
  | nil => exact ⟨rfl, rfl⟩
  | cons l ls ih =>
    rw [List.foldl_cons]
    obtain ⟨link, whole⟩ := ih (s.flushIfActive l)
    have first := flushIfActive_whole s l
    have own := flushIfActive_link s l m
    have expiry : (s.flushIfActive l).flushExpiry = s.flushExpiry := by
      rw [first]
      rfl
    rw [expiry, own] at link
    refine ⟨?_, ?_⟩
    · rw [link]
      simp only [List.mem_cons]
      by_cases named : m = l
      · by_cases later : m ∈ ls
        · rw [if_pos later, if_pos named, if_pos (Or.inl named), flushed_again]
        · rw [if_neg later, if_pos named, if_pos (Or.inl named)]
      · by_cases later : m ∈ ls
        · rw [if_pos later, if_neg named, if_pos (Or.inr later)]
        · rw [if_neg later, if_neg named, if_neg (by tauto)]
    · generalize ls.foldl State.flushIfActive (s.flushIfActive l) = t at *
      rw [whole, first]

theorem flushActive_link (s : State) (m : LinkId) : s.flushActive.link m = (s.link m).flushed s.flushExpiry :=
  (flushes_effect allLinks s m).1.trans (if_pos (mem_allLinks m))

theorem flushActive_whole (s : State) : s.flushActive = { s with links := s.flushActive.links } :=
  (flushes_effect allLinks s 0).2

/-! ### A commit flush that is complete (R144) -/

theorem completeCommit_done (s : State) (phase : s.phase = .flushing) (set : s.flushSet = 0)
    (count : s.oldEpochCount = 0) : s.completeCommit = ({ s with phase := .idle } : State).raise .commitDone :=
  if_pos ⟨phase, set, count⟩

theorem completeCommit_waits (s : State) (h : s.phase ≠ .flushing ∨ s.flushSet ≠ 0 ∨ s.oldEpochCount ≠ 0) :
    s.completeCommit = s := if_neg (by tauto)

theorem completeCommit_phase (s : State) (flushing : s.phase = .flushing) : s.completeCommit.phase =
    if s.flushSet = 0 ∧ s.oldEpochCount = 0 then .idle else .flushing := by
  unfold State.completeCommit
  simp only [flushing, true_and]
  split
  · rw [raise_eq]
  · exact flushing

theorem completeCommit_whole (s : State) : s.completeCommit = { s with
    phase := s.completeCommit.phase
    reports := { s.reports with
      status := s.completeCommit.reports.status, notifyDue := s.completeCommit.reports.notifyDue } } := by
  unfold State.completeCommit
  split
  · have raised := raise_eq { s with phase := .idle } .commitDone
    generalize State.raise { s with phase := .idle } .commitDone = u at *
    rw [raised]
  · rfl

/-! ### The switch (R141) -/

/-- The state of a switch before its flushes. -/
def State.switched (s : State) : State :=
  { s with
    active := s.shadow, epoch := s.epoch + 1, openChecks := s.openChecks.map OpenCheck.markOld
    oldEpochCount := s.openChecks.length, flushSet := s.commitSet, phase := .flushing }

theorem commitSwitch_eq (s : State) : s.commitSwitch = s.switched.flushActive.completeCommit := rfl

theorem commitSwitch_link (s : State) (l : LinkId) : s.commitSwitch.link l = (s.link l).flushed s.flushExpiry := by
  rw [commitSwitch_eq]
  unfold State.link
  rw [completeCommit_links]
  exact flushActive_link s.switched l

theorem commitSwitch_whole (s : State) : s.commitSwitch = { s with
    links := s.commitSwitch.links, active := s.shadow, epoch := s.epoch + 1
    openChecks := s.openChecks.map fun e => { e with oldEpoch := true }
    oldEpochCount := s.openChecks.length, flushSet := s.commitSet, phase := s.commitSwitch.phase
    reports := { s.reports with
      status := s.commitSwitch.reports.status, notifyDue := s.commitSwitch.reports.notifyDue } } := by
  have flushes := flushActive_whole s.switched
  rw [commitSwitch_eq]
  generalize s.switched.flushActive = v at *
  have done := completeCommit_whole v
  generalize v.completeCommit = u at *
  rw [done, flushes]
  rfl

theorem commitSwitch_phase (s : State) :
    s.commitSwitch.phase = if s.commitSet = 0 ∧ s.openChecks = [] then .idle else .flushing := by
  have flushes := flushActive_whole s.switched
  rw [commitSwitch_eq]
  generalize s.switched.flushActive = v at *
  have set : v.flushSet = s.commitSet := by rw [flushes]; rfl
  have count : v.oldEpochCount = s.openChecks.length := by rw [flushes]; rfl
  rw [completeCommit_phase v (by rw [flushes]; rfl), set, count]
  simp only [List.length_eq_zero_iff]

/-! ### The operation (R139) -/

theorem exec_commit (s t : State) (h : MgmtHeader) (c : s.Carries h (.commit h) t) :
    exec (.commit h) s =
      .next (t.commitOp.1.hand h.link (.controlReply h.tag t.commitOp.2)).closeEvent :=
  congrArg Host.Outcome.next (deliver_control s t h (.commit h) State.commitOp c)

theorem commitOp_busy (s : State) (flushing : s.phase = .flushing) : s.commitOp = (s, .refused .commitBusy) :=
  if_pos (by rw [flushing]; simp)

theorem commitOp_limit (s : State) (idle : s.phase = .idle) (limit : s.epoch = 4294967295) :
    s.commitOp = (s, .refused .epochLimit) := (if_neg (by rw [idle]; simp)).trans (if_pos limit)

theorem commitOp_validated (s : State) (idle : s.phase = .idle) (below : s.epoch ≠ 4294967295) :
    s.commitOp = match s.shadow.validate s.capacity with
      | some r => (s, .refused r)
      | none => (s.commitSwitch, .acceptedEpoch (s.epoch + 1)) :=
  (if_neg (by rw [idle]; simp)).trans (if_neg below)

theorem commitOp_accepted (s : State) (idle : s.phase = .idle) (below : s.epoch ≠ 4294967295)
    (valid : s.shadow.validate s.capacity = none) :
    s.commitOp = (s.commitSwitch, .acceptedEpoch (s.epoch + 1)) := by
  rw [commitOp_validated s idle below, valid]

theorem reply_congr (u : State) (l : LinkId) (tag : Nat) (p : State × ControlOutcome) (o : ControlOutcome)
    (h : p = (u, o)) :
    (p.1.hand l (.controlReply tag p.2)).closeEvent = (u.hand l (.controlReply tag o)).closeEvent := by
  subst h
  with_reducible rfl

theorem exec_commit_accepted (s t : State) (h : MgmtHeader) (c : s.Carries h (.commit h) t)
    (accepted : t.commitOp = (t.commitSwitch, .acceptedEpoch (t.epoch + 1))) : exec (.commit h) s =
      .next (t.commitSwitch.hand h.link (.controlReply h.tag (.acceptedEpoch (t.epoch + 1)))).closeEvent :=
  (exec_commit s t h c).trans (congrArg Host.Outcome.next (reply_congr t.commitSwitch h.link h.tag _ _ accepted))

/-- A link after an accepted COMMIT, at the end of the event. -/
theorem committed_link (s : State) (l m : LinkId) (msg : OutMsg) : ((s.commitSwitch.hand l msg).closeEvent).link m =
    { (s.link m).flushed s.flushExpiry with
      outbound := (((s.commitSwitch.hand l msg).closeEvent).link m).outbound } := by
  have sent := (linksSend_hand s.commitSwitch l msg).trans (linksSend_closeEvent _)
  rw [sent m, commitSwitch_link]

theorem committed_outbound (s : State) (l m : LinkId) (msg : OutMsg) (own : msg.isNotify = false) :
    (((s.commitSwitch.hand l msg).closeEvent).link m).outbound.filter (fun x => !x.isNotify) =
      (s.link m).outbound.filter (fun x => !x.isNotify) ++
        (if (s.link m).state = .active ∧ (s.link m).flushOutstanding = false then [.flushAll] else []) ++
        (if m = l then [msg] else []) := by
  have flushes : ((s.link m).flushed s.flushExpiry).outbound.filter (fun x => !x.isNotify) =
      (s.link m).outbound.filter (fun x => !x.isNotify) ++
        (if (s.link m).state = .active ∧ (s.link m).flushOutstanding = false then [.flushAll] else []) := by
    by_cases due : (s.link m).state = .active ∧ (s.link m).flushOutstanding = false
    · rw [flushed_due _ _ due, if_pos due, List.filter_append]
      rfl
    · rw [flushed_none _ _ due, if_neg due, List.append_nil]
  rw [closeEvent_others]
  unfold State.hand
  by_cases named : m = l
  · subst named
    rw [State.link_updLink_same, if_pos rfl, commitSwitch_link, ← flushes]
    simp [own]
  · rw [State.link_updLink_ne _ _ named, if_neg named, List.append_nil, commitSwitch_link, flushes]

theorem flushed_fields (k : Link) (x : Time) : k.flushed x =
    { k with
      outbound := (k.flushed x).outbound
      flushOutstanding := k.flushOutstanding || decide (k.state = .active)
      flushTimer := if k.state = .active ∧ k.flushOutstanding = false then some x else k.flushTimer } := by
  by_cases due : k.state = .active ∧ k.flushOutstanding = false
  · rw [flushed_due k x due, if_pos due]
    simp [due.1]
  · have keeps : (k.flushOutstanding || decide (k.state = .active)) = k.flushOutstanding := by
      cases out : k.flushOutstanding
      · have idle : k.state ≠ .active := fun active => due ⟨active, out⟩
        simp [idle]
      · rfl
    rw [flushed_none k x due, if_neg due, keeps]

/-- What an accepted COMMIT leaves at the end of its event. -/
theorem committed_effect (t : State) (h : MgmtHeader) :
    let u := (t.commitSwitch.hand h.link (.controlReply h.tag (.acceptedEpoch (t.epoch + 1)))).closeEvent
    u.openChecks = t.openChecks.map (fun e => { e with oldEpoch := true }) ∧
      (∀ l : LinkId, LinkSet.has u.flushSet l = true ↔ (t.link l).state = .active ∨
        ((t.link l).state = .held ∧ (t.link l).flushOutstanding = true)) ∧
      u.phase = (if u.flushSet = 0 ∧ t.openChecks = [] then .idle else .flushing) ∧
      u.reports.status = (if u.flushSet = 0 ∧ t.openChecks = []
        then t.reports.status ||| Status.commitDone.mask else t.reports.status) ∧
      (∀ l : LinkId, (t.link l).state = .active → (t.link l).flushOutstanding = false →
        .flushAll ∈ (u.link l).outbound ∧ (u.link l).flushOutstanding = true ∧
          (u.link l).flushTimer = some (t.timeBase + BitVec.ofNat 48 t.revokeTimeout)) ∧
      (∀ l : LinkId, (t.link l).state ≠ .active ∨ (t.link l).flushOutstanding = true →
        (u.link l).flushTimer = (t.link l).flushTimer) ∧
      (∀ l : LinkId, u.link l = { t.link l with
        flushOutstanding := (u.link l).flushOutstanding, flushTimer := (u.link l).flushTimer
        outbound := (u.link l).outbound }) ∧
      (∀ l : LinkId, (u.link l).flushOutstanding = true ↔
        (t.link l).flushOutstanding = true ∨ (t.link l).state = .active) ∧
      (∀ l : LinkId, (u.link l).outbound.filter (fun m => !m.isNotify) =
        (t.link l).outbound.filter (fun m => !m.isNotify) ++
          (if (t.link l).state = .active ∧ (t.link l).flushOutstanding = false
            then [.flushAll] else []) ++
          (if l = h.link then [.controlReply h.tag (.acceptedEpoch (t.epoch + 1))] else [])) ∧
      .controlReply h.tag (.acceptedEpoch (t.epoch + 1)) ∈ (u.link h.link).outbound ∧
      u = { t with
        links := u.links, active := t.shadow, epoch := t.epoch + 1, openChecks := u.openChecks
        oldEpochCount := t.openChecks.length, flushSet := u.flushSet, phase := u.phase
        reports := { t.reports with
          status := u.reports.status, notifyDue := u.reports.notifyDue } } := by
  intro u
  have link := fun m => committed_link t h.link m (.controlReply h.tag (.acceptedEpoch (t.epoch + 1)))
  have outbound := fun m => committed_outbound t h.link m (.controlReply h.tag (.acceptedEpoch (t.epoch + 1))) rfl
  have handed := replied_mem t.commitSwitch h.link (.controlReply h.tag (.acceptedEpoch (t.epoch + 1))) rfl
  have close := closeEvent_eq (t.commitSwitch.hand h.link (.controlReply h.tag (.acceptedEpoch (t.epoch + 1))))
  have start : t.commitSwitch.hand h.link (.controlReply h.tag (.acceptedEpoch (t.epoch + 1))) = { t.commitSwitch with
      links := (t.commitSwitch.hand h.link (.controlReply h.tag (.acceptedEpoch (t.epoch + 1)))).links } := rfl
  have whole := commitSwitch_whole t
  have phase := commitSwitch_phase t
  have status := commitSwitch_status t
  have members := commitSet_has t
  change ∀ m, u.link m = _ at link
  change ∀ m, (u.link m).outbound.filter _ = _ at outbound
  change _ ∈ (u.link h.link).outbound at handed
  change u = _ at close
  clear_value u
  generalize t.commitSwitch.hand h.link (.controlReply h.tag (.acceptedEpoch (t.epoch + 1))) = v at *
  generalize t.commitSwitch = w at *
  have checks : u.openChecks = t.openChecks.map (fun e => { e with oldEpoch := true }) := by
    rw [close, start, whole]
  have set : w.flushSet = t.commitSet := by rw [whole]
  have same : u.flushSet = t.commitSet := by rw [close, start, set]
  have fields := fun m => flushed_fields (t.link m) t.flushExpiry
  have outstanding (m : LinkId) : (u.link m).flushOutstanding =
      ((t.link m).flushOutstanding || decide ((t.link m).state = .active)) := by rw [link m, fields]
  have timer (m : LinkId) : (u.link m).flushTimer =
      if (t.link m).state = .active ∧ (t.link m).flushOutstanding = false then some t.flushExpiry
      else (t.link m).flushTimer := by rw [link m, fields]
  refine ⟨checks, fun l => ?_, ?_, ?_, fun l active fresh => ⟨?_, ?_, ?_⟩, fun l other => ?_, fun l => ?_, fun l => ?_,
    outbound, handed, ?_⟩
  · rw [same]
    exact members l
  · rw [same, ← phase, close, start]
  · rw [same, ← set, ← status, close, start]
  · refine List.mem_of_mem_filter (p := fun x => !x.isNotify) ?_
    rw [outbound l, if_pos ⟨active, fresh⟩]
    simp
  · rw [outstanding l, active]
    simp
  · rw [timer l, if_pos ⟨active, fresh⟩]
    rfl
  · rw [timer l, if_neg fun ⟨active, fresh⟩ => by simp [active, fresh] at other]
  · rw [link l, fields]
  · rw [outstanding l]
    simp
  · rw [close, start, whole]

/-- Settles O44: the tests give the refusals in order; the switch is followed through the commit flush set, the
flushes and the completion of a flush that waits for nothing. -/
theorem commitControl : Obligations.CommitControl := by
  unfold Obligations.CommitControl
  refine ⟨fun s => ⟨fun phase set count => ?_, completeCommit_waits s, rfl⟩, fun s t h carried => ?_⟩
  · have done := completeCommit_done s phase set count
    refine ⟨done, ?_, ?_⟩
    · rw [completeCommit_phase s phase, if_pos ⟨set, count⟩]
    · rw [done]
      exact raise_has _ _
  · have event := exec_commit s t h carried
    refine ⟨fun flushing => ?_, fun idle limit => ?_, fun r idle below invalid => ?_, fun idle below valid => ?_⟩
    · rw [event, commitOp_busy t flushing]
    · rw [event, commitOp_limit t idle limit]
    · rw [event, commitOp_validated t idle below, invalid]
    · exact ⟨_, exec_commit_accepted s t h carried (commitOp_accepted t idle below valid), committed_effect t h⟩

end Sys2Proof.Machine
end

section
/-! SUPPORT. CONTROL DOMAIN_RETIRE, the tagged index sequence and the scanning read (R29, R109 to R113). -/

namespace Sys2Proof.Machine

/-! ### DOMAIN_RETIRE (R109) -/

theorem retireDomain_bad (s : State) (d : DomainNo) (h : 1023 < d.toNat) :
    s.retireDomain d = (s, .refused .badArgument) := if_pos h

theorem retireDomain_inRange (s : State) (d : DomainNo) (h : d.toNat ≤ 1023) : s.retireDomain d =
    if d = 0 then (s, .refused .domainState)
    else if s.retire.running then (s, .refused .retireBusy)
    else if (s.domainEntry d).state = .absent then (s, .refused .domainState)
    else (s.startRetire d, .accepted) := if_neg (Nat.not_lt.mpr h)

theorem retireDomain_tenant (s : State) (d : DomainNo) (h : d.toNat ≤ 1023) (nonzero : d ≠ 0)
    (idle : s.retire.running = false) : s.retireDomain d =
    if (s.domainEntry d).state = .absent then (s, .refused .domainState) else (s.startRetire d, .accepted) := by
  rw [retireDomain_inRange s d h, if_neg nonzero, if_neg (by rw [idle]; exact Bool.false_ne_true)]

theorem exec_domainRetire (s t u : State) (h : MgmtHeader) (d : DomainNo) (o : ControlOutcome)
    (c : s.Carries h (.domainRetire h d) t) (op : t.retireDomain d = (u, o)) :
    exec (.domainRetire h d) s = .next (u.hand h.link (.controlReply h.tag o)).closeEvent :=
  (congrArg Host.Outcome.next (deliver_control s t h (.domainRetire h d) (fun x => x.retireDomain d) c)).trans
    (congrArg Host.Outcome.next (reply_congr u h.link h.tag _ _ op))

/-- The retire of a domain as it starts, before the scanner stands at a position. -/
def State.retiring (s : State) (d : DomainNo) : State :=
  { s.setDomain d { s.domainEntry d with state := .retiring } with
    retire := { RetireScanner.reset with running := true, domain := d } }

theorem retiring_whole (s : State) (d : DomainNo) : s.retiring d = { s with
    domains := (s.retiring d).domains
    retire := { running := true, domain := d, position := none, held := none, setAside := none
                stepsInFence := 0 } } := by
  unfold State.retiring
  rw [setDomain_whole]
  rfl

theorem startRetire_eq (s : State) (d : DomainNo) :
    s.startRetire d = (s.retiring d).scannerAt (s.active.firstTagged 0) := by
  have active : (s.setDomain d { s.domainEntry d with state := .retiring }).active = s.active := by
    rw [setDomain_whole]
  exact congrArg (fun p => (s.retiring d).scannerAt (p.firstTagged 0)) active

theorem retiring_entry (s : State) (d e : DomainNo) (nonzero : d ≠ 0) (ok : s.TablesOk) :
    (s.retiring d).domainEntry e = if e = d then { s.domainEntry d with state := .retiring } else s.domainEntry e :=
  domainEntry_setDomain s d e _ nonzero ok

/-- A retire whose walk has a position. -/
theorem startRetire_walks (s : State) (d : DomainNo) (w o : Nat) (first : s.active.firstTagged 0 = some (w, o)) :
    s.startRetire d = { s with
      domains := (s.retiring d).domains
      retire := { running := true, domain := d, position := some (w, o), held := none
                  setAside := none, stepsInFence := 0 }
      store := { s.store with retireQ := some (s.active.positionIndex w o) } } := by
  have whole := retiring_whole s d
  rw [startRetire_eq, first]
  unfold State.scannerAt
  generalize s.retiring d = t at *
  rw [whole]

theorem storeEvent_whole (s : State) (r : EventRecord) :
    s.storeEvent r = { s with reports := (s.storeEvent r).reports } := by
  have only := onlyReports_storeEvent s r
  have links := storeEvent_links s r
  unfold State.OnlyReports at only
  generalize s.storeEvent r = t at *
  rw [only, links]

theorem storeEvent_reports_congr {s t : State} (h : t.reports = s.reports) (r : EventRecord) :
    (t.storeEvent r).reports = (s.storeEvent r).reports := by
  have q1 (q : ReportQueue EventRecord) (st : Status) : (({ t with reports := { t.reports with q1 := q } } :
      State).raise st).reports = (({ s with reports := { s.reports with q1 := q } } : State).raise st).reports :=
    raise_reports_congr (by rw [h]) st
  unfold State.storeEvent
  rw [h]
  dsimp only
  rw [h] at q1
  split
  · exact q1 _ _
  · split
    · exact q1 _ _
    · rfl

/-- The residue of a domain that a retire without a walk tells. -/
def State.residueOf (s : State) (d : DomainNo) : State :=
  if (s.domainEntry d).owned = 0 then s else s.storeEvent
    { time := s.timeBase, kind := .countResidue, link := none, granule := none, domain := some d
      detail := .count (s.domainEntry d).owned }

theorem residueOf_whole (s : State) (d : DomainNo) : s.residueOf d = { s with reports := (s.residueOf d).reports } := by
  unfold State.residueOf
  split
  · rfl
  · exact storeEvent_whole s _

/-- The residue is told from the reports, the time and the count alone. -/
theorem residueTold_reports (s t : State) (d : DomainNo) (reports : t.reports = s.reports)
    (time : t.timeBase = s.timeBase) (domain : t.retire.domain = d)
    (owned : (t.domainEntry d).owned = (s.domainEntry d).owned) :
    t.residueTold.reports = (s.residueOf d).reports := by
  unfold State.residueTold State.residueOf
  rw [domain, owned, time]
  split
  · exact reports
  · exact storeEvent_reports_congr reports _

theorem residueTold_whole (s : State) : s.residueTold = { s with reports := s.residueTold.reports } := by
  unfold State.residueTold
  split
  · rfl
  · exact storeEvent_whole s _

/-- A retire whose walk is empty ends in the event that starts it (R113). -/
theorem startRetire_ends (s : State) (d : DomainNo) (nonzero : d ≠ 0) (ok : s.TablesOk)
    (empty : s.active.firstTagged 0 = none) : ∃ domains,
      s.startRetire d = ({ s.residueOf d with domains := domains, retire := RetireScanner.reset } : State).raise
        .retireDone ∧
      ∀ e : DomainNo, ({ s with domains := domains } : State).domainEntry e =
        if e = d then { state := .absent, owned := 0 } else s.domainEntry e := by
  have start : s.startRetire d = (s.retiring d).retireTest := by
    rw [startRetire_eq, empty]
    rfl
  have entry := fun e => retiring_entry s d e nonzero ok
  have tables : (s.retiring d).TablesOk := (form_setDomain s d _).tables ok
  have test := retireTest_ends (s.retiring d) ⟨rfl, rfl, rfl, rfl⟩
  have told := residueTold_reports s (s.retiring d) d (by rw [retiring_whole]) (by rw [retiring_whole]) rfl
    (by rw [entry d, if_pos rfl])
  have only := residueTold_whole (s.retiring d)
  have kept := residueOf_whole s d
  have domain : (s.retiring d).retire.domain = d := rfl
  rw [told] at only
  rw [domain] at test
  have sound : (s.retiring d).residueTold.TablesOk := (residueTold_only _).sameForm.form.tables tables
  have base := retiring_whole s d
  generalize (s.retiring d).residueTold = v at *
  have absent := fun e => domainEntry_setDomain v d e { state := .absent, owned := 0 } nonzero sound
  have set := setDomain_whole v d { state := .absent, owned := 0 }
  rw [start, test]
  generalize v.setDomain d { state := .absent, owned := 0 } = x at *
  refine ⟨x.domains, ?_, fun e => ?_⟩
  · congr 1
    rw [set, only, base, kept]
  · have same : ({ s with domains := x.domains } : State).domainEntry e = x.domainEntry e := rfl
    have before : v.domainEntry e = (s.retiring d).domainEntry e := by rw [only]; rfl
    rw [same, absent e, before, entry e]
    split <;> rfl

/-- An event that ends with a message handed, as a whole state. -/
theorem answered_whole (s : State) (l : LinkId) (m : OutMsg) : (s.hand l m).closeEvent = { s with
    links := (s.hand l m).closeEvent.links, reports := { s.reports with notifyDue := 0 } } := by
  have close := closeEvent_eq (s.hand l m)
  have start : s.hand l m = { s with links := (s.hand l m).links } := rfl
  generalize (s.hand l m).closeEvent = t at *
  generalize s.hand l m = u at *
  rw [close, start]

theorem answered_send (s : State) (l : LinkId) (m : OutMsg) : s.LinksSend (s.hand l m).closeEvent :=
  (linksSend_hand s l m).trans (linksSend_closeEvent _)

/-- A retire that walks, at the end of the event that starts it. -/
theorem retireStarted (t : State) (h : MgmtHeader) (d : DomainNo) (w o : Nat) (nonzero : d ≠ 0) (ok : t.TablesOk)
    (walk : t.active.firstTagged 0 = some (w, o)) :
    let u := ((t.startRetire d).hand h.link (.controlReply h.tag .accepted)).closeEvent
    (u.domainEntry d = { t.domainEntry d with state := .retiring } ∧ u.retire.running = true ∧
      u.retire.domain = d ∧ u.retire.position = some (w, o) ∧ u.retire.held = none ∧
      u.retire.stepsInFence = 0 ∧ u.store.retireQ = some (t.active.positionIndex w o) ∧
      u = (({ t with
        domains := u.domains
        retire := { running := true, domain := d, position := some (w, o), held := none
                    setAside := none, stepsInFence := 0 }
        store := { t.store with retireQ := some (t.active.positionIndex w o) } } : State).hand
          h.link (.controlReply h.tag .accepted)).closeEvent) ∧
    (∀ e : DomainNo, e ≠ d → u.domainEntry e = t.domainEntry e) ∧ t.LinksSend u ∧
    u = { t with
      links := u.links, domains := u.domains, retire := u.retire
      store := { t.store with retireQ := u.store.retireQ }
      reports := { t.reports with
        q1 := u.reports.q1, status := u.reports.status, notifyDue := u.reports.notifyDue } } := by
  intro u
  have start := startRetire_walks t d w o walk
  have close : u = _ := answered_whole (t.startRetire d) h.link (.controlReply h.tag .accepted)
  have send : (t.startRetire d).LinksSend u := answered_send _ _ _
  have again : u = ((t.startRetire d).hand h.link (.controlReply h.tag .accepted)).closeEvent := rfl
  have entries := fun e => retiring_entry t d e nonzero ok
  clear_value u
  generalize t.retiring d = r at *
  have domains : u.domains = r.domains := by rw [close, start]
  have entry (e : DomainNo) : u.domainEntry e =
      if e = d then { t.domainEntry d with state := .retiring } else t.domainEntry e :=
    (domainEntry_congr domains e).trans (entries e)
  refine ⟨⟨?_, ?_, ?_, ?_, ?_, ?_, ?_, ?_⟩, fun e other => ?_, ?_, ?_⟩
  · rw [entry d, if_pos rfl]
  · rw [close, start]
  · rw [close, start]
  · rw [close, start]
  · rw [close, start]
  · rw [close, start]
  · rw [close, start]
  · rw [domains, ← start]
    exact again
  · rw [entry e, if_neg other]
  · exact (State.LinksSend.of_eq (by rw [start])).trans send
  · rw [close, start]

/-- A retire without a walk, at the end of the event that starts and ends it. -/
theorem retireEnded (t : State) (h : MgmtHeader) (d : DomainNo) (nonzero : d ≠ 0) (ok : t.TablesOk)
    (empty : t.active.firstTagged 0 = none) :
    let u := ((t.startRetire d).hand h.link (.controlReply h.tag .accepted)).closeEvent
    (u.domainEntry d = { state := .absent, owned := 0 } ∧ u.retire.running = false ∧
      StatusSet.has u.reports.status .retireDone = true ∧
      u = ((({ t.residueOf d with
        domains := u.domains
        retire := { running := false, domain := 0, position := none, held := none
                    setAside := none, stepsInFence := 0 } } : State).raise .retireDone).hand
          h.link (.controlReply h.tag .accepted)).closeEvent) ∧
    (∀ e : DomainNo, e ≠ d → u.domainEntry e = t.domainEntry e) ∧ t.LinksSend u ∧
    u = { t with
      links := u.links, domains := u.domains, retire := u.retire
      store := { t.store with retireQ := u.store.retireQ }
      reports := { t.reports with
        q1 := u.reports.q1, status := u.reports.status, notifyDue := u.reports.notifyDue } } := by
  intro u
  obtain ⟨domains, start, entries⟩ := startRetire_ends t d nonzero ok empty
  have close : u = _ := answered_whole (t.startRetire d) h.link (.controlReply h.tag .accepted)
  have send : (t.startRetire d).LinksSend u := answered_send _ _ _
  have again : u = ((t.startRetire d).hand h.link (.controlReply h.tag .accepted)).closeEvent := rfl
  clear_value u
  have told : t.OnlyReports (t.residueOf d) := by
    unfold State.residueOf
    split
    · exact State.OnlyReports.refl t
    · exact onlyReports_storeEvent t _
  unfold State.OnlyReports at told
  have links : (t.residueOf d).links = t.links := by rw [residueOf_whole]
  rw [links] at told
  have raised := raise_eq { t.residueOf d with domains := domains, retire := RetireScanner.reset } .retireDone
  have has := raise_has { t.residueOf d with domains := domains, retire := RetireScanner.reset } .retireDone
  rw [← start] at raised has
  generalize t.startRetire d = x at *
  have same : u.domains = domains := by rw [close, raised]
  have entry (e : DomainNo) : u.domainEntry e = if e = d then { state := .absent, owned := 0 } else t.domainEntry e :=
    (domainEntry_congr (s := { t with domains := domains }) same e).trans (entries e)
  refine ⟨⟨?_, ?_, ?_, ?_⟩, fun e other => ?_, ?_, ?_⟩
  · rw [entry d, if_pos rfl]
  · rw [close, raised]
    rfl
  · rw [close]
    exact has
  · rw [same, again, start]
    rfl
  · rw [entry e, if_neg other]
  · exact (State.LinksSend.of_eq (by rw [raised, links])).trans send
  · generalize t.residueOf d = v at *
    rw [close, raised, told]

/-- Settles O35: the refusals come in order; an accepted retire walks from the first tagged granule, or ends at once. -/
theorem domainRetire : Obligations.DomainRetire := by
  unfold Obligations.DomainRetire
  intro s t h d carried
  refine ⟨fun bad => ?_, fun range zero => ?_, fun range nonzero busy => ?_, fun range nonzero idle absent => ?_,
    fun range nonzero idle present ok => ?_⟩
  · exact exec_domainRetire s t t h d _ carried (retireDomain_bad t d bad)
  · exact exec_domainRetire s t t h d _ carried ((retireDomain_inRange t d range).trans (if_pos zero))
  · refine exec_domainRetire s t t h d _ carried ?_
    rw [retireDomain_inRange t d range, if_neg nonzero, if_pos busy]
  · exact exec_domainRetire s t t h d _ carried ((retireDomain_tenant t d range nonzero idle).trans (if_pos absent))
  · have event := exec_domainRetire s t _ h d _ carried
      ((retireDomain_tenant t d range nonzero idle).trans (if_neg present))
    have handed := replied_mem (t.startRetire d) h.link (.controlReply h.tag .accepted) rfl
    cases walk : t.active.firstTagged 0 with
    | some p =>
      obtain ⟨w, o⟩ := p
      obtain ⟨started, others, send, whole⟩ := retireStarted t h d w o nonzero ok walk
      refine ⟨_, event, handed, fun x y found => ?_, nofun, others, send, whole⟩
      cases found
      exact started
    | none =>
      obtain ⟨ended, others, send, whole⟩ := retireEnded t h d nonzero ok walk
      exact ⟨_, event, handed, nofun, fun _ => ended, others, send, whole⟩

end Sys2Proof.Machine
end

section
/-! SUPPORT. The tagged index sequence, the scanning read and the sweep's reads (R29, R110 to R112, R150, R151). -/

namespace Sys2Proof.Machine

/-! ### The tagged index sequence (R29) -/

theorem firstTagged_some (p : PolicyCopy) (n x y : Nat) (h : p.firstTagged n = some (x, y)) : y = 0 ∧ n ≤ x ∧
    (∃ i : Fin 16, i.val = x ∧ (p.windows[i]).walks = true) ∧
      ∀ i : Fin 16, n ≤ i.val → i.val < x → (p.windows[i]).walks = false := by
  unfold PolicyCopy.firstTagged at h
  cases found : p.windowList.find? fun x => decide (n ≤ x.1) && x.2.walks with
  | none => rw [found] at h; cases h
  | some v =>
    obtain ⟨k, w⟩ := v
    rw [found] at h
    cases h
    obtain ⟨m, holds, low⟩ := find_rising _ _ _ (windowList_rising p) found
    obtain ⟨i, rfl, rfl⟩ := (mem_windowList p k w).mp m
    rw [Bool.and_eq_true, decide_eq_true_eq] at holds
    refine ⟨rfl, holds.1, ⟨i, rfl, holds.2⟩, fun j from_ before => ?_⟩
    have fails := low (j.val, p.windows[j]) ((mem_windowList p _ _).mpr ⟨j, rfl, rfl⟩) before
    rw [decide_eq_true (by exact from_), Bool.true_and] at fails
    exact fails

theorem firstTagged_none (p : PolicyCopy) (n : Nat) (h : p.firstTagged n = none) (i : Fin 16) (from_ : n ≤ i.val) :
    (p.windows[i]).walks = false := by
  unfold PolicyCopy.firstTagged at h
  cases found : p.windowList.find? fun x => decide (n ≤ x.1) && x.2.walks with
  | some v => rw [found] at h; cases h
  | none =>
    have fails := List.find?_eq_none.mp found (i.val, p.windows[i]) ((mem_windowList p _ _).mpr ⟨i, rfl, rfl⟩)
    rw [decide_eq_true (by exact from_), Bool.true_and, Bool.not_eq_true] at fails
    exact fails

theorem window_getElem (p : PolicyCopy) (i : Fin 16) : p.window i.val = p.windows[i] := by
  unfold PolicyCopy.window
  simp

theorem positionStands_iff (p : PolicyCopy) (i : Fin 16) (o : Nat) :
    p.positionStands i.val o = true ↔ (p.windows[i]).walks = true ∧ o < (p.windows[i]).effSize := by
  unfold PolicyCopy.positionStands
  rw [window_getElem, Bool.and_eq_true, decide_eq_true_eq]

theorem nextPosition_eq (p : PolicyCopy) (i : Fin 16) (o : Nat) : p.nextPosition i.val o =
    if (p.windows[i]).walks = true ∧ o + 1 < (p.windows[i]).effSize then some (i.val, o + 1)
    else p.firstTagged (i.val + 1) := by
  unfold PolicyCopy.nextPosition
  rw [window_getElem]
  simp only [Bool.and_eq_true, decide_eq_true_eq]

/-! ### The scanner's position (R110) -/

theorem scannerMoves_on (s : State) (w o : Nat) (p : s.retire.position = some (w, o)) :
    s.scannerMoves = s.scannerAt (s.active.nextPosition w o) := by
  unfold State.scannerMoves
  rw [p]

/-! ### A scanning read that was set aside (R112) -/

theorem freeFence_aside (s : State) (g : Nat) (aside : s.retire.setAside = some g) : s.freeFence g = { s with
    fence := s.fence.filter fun e => e.granule != g, retire := { s.retire with setAside := none }
    store := { s.store with retireQ := some g } } := if_pos aside

theorem freeFence_plain (s : State) (g : Nat) (other : s.retire.setAside ≠ some g) :
    s.freeFence g = { s with fence := s.fence.filter fun e => e.granule != g } := if_neg other

/-- The result of another source's step leaves the scanner. -/
theorem stepResult_scanner (s : State) (src : StepSource) (g : Nat) (r : Option FailReason) (h : src ≠ .retire) :
    (s.stepResult src g r).retire = s.retire := by
  cases src with
  | direct =>
    unfold State.stepResult
    cases s.directQueue with
    | nil => rfl
    | cons e rest => exact (directResult_domains s _ rest).2
  | chain c =>
    exact (onlyChains_domains (State.OnlyChannel.trans (onlyChannel_updChan s c
      fun k => { k with inFence := k.inFence - 1 }.countResult (g - k.rangeFirst) r)
        (onlyChannel_settleChannel _ c)).1).2
  | retire => exact absurd rfl h
  | sweep => rfl

/-- A step that ends in the entry of a granule whose scanning read was set aside. -/
theorem freed_places_read (s : State) (src : StepSource) (g : Nat) (r : Option FailReason)
    (aside : s.retire.setAside = some g) :
    (((s.freeFence g).stepResult src g r).closeEvent).store.retireQ = some g ∧
      (src ≠ .retire → (((s.freeFence g).stepResult src g r).closeEvent).retire = { s.retire with setAside := none }) := by
  have freed := freeFence_aside s g aside
  generalize s.freeFence g = u at *
  obtain ⟨result, -⟩ := onlyResult_stepResult u src g r
  have scanner := stepResult_scanner u src g r
  unfold State.OnlyResult at result
  generalize u.stepResult src g r = v at *
  have close := closeEvent_eq v
  generalize v.closeEvent = t at *
  refine ⟨?_, fun other => ?_⟩
  · rw [close, result, freed]
  · have same : t.retire = v.retire := by rw [close]
    rw [same, scanner other, freed]

theorem freed_places_after (s x : State) (o : Host.Outcome State Fault Refusal) (src : StepSource) (g : Nat)
    (r : Option FailReason) (kept : x.retire = s.retire) (aside : s.retire.setAside = some g)
    (event : o = .next ((x.freeFence g).stepResult src g r).closeEvent) :
    ∃ t, o = .next t ∧ t.store.retireQ = some g ∧ (src ≠ .retire → t.retire = { s.retire with setAside := none }) := by
  obtain ⟨queue, scanner⟩ := freed_places_read x src g r (by rw [kept]; exact aside)
  rw [kept] at scanner
  exact ⟨_, event, queue, scanner⟩

/-! ### The scanning read (R111) -/

/-- The part after the grant of a scanning read. -/
def State.scanGranted (s : State) : State :=
  { s.countGrant .retire with store := { (s.countGrant .retire).store with retireQ := none } }

theorem exec_scanningReadGrant (s : State) (g : Nat) (pick : s.arbPick = some .retire) (queue : s.store.retireQ = some g)
    (inside : g < s.capacity) : exec .scanningReadGrant s = .next (s.scanGranted.scanRead g).closeEvent := by
  show execScanningReadGrant s = _
  unfold execScanningReadGrant
  rw [onGrant_due s .retire _ pick]
  have same : (s.countGrant .retire).store.retireQ = some g := queue
  rw [same]
  exact onRecord_inside s.scanGranted g _ inside

theorem scanRead_aside (s : State) (g : Nat) (fenced : s.fenced g = true) :
    s.scanRead g = { s with retire := { s.retire with setAside := some g } } := if_pos fenced

theorem scanRead_judges (s : State) (g : Nat) (free : s.fenced g = false) : s.scanRead g = s.judgeScan g :=
  if_neg (by rw [free]; exact Bool.false_ne_true)

theorem judgeScan_steps (s : State) (g : Nat) (r : TagRecord) (k : StepKind) (read : s.readRecord g = .verified r)
    (step : scannerStep s.retire.domain r = some k) :
    s.judgeScan g = { s with retire := { s.retire with held := some (g, k) } } := by
  unfold State.judgeScan
  rw [read]
  dsimp only
  rw [step]

theorem judgeScan_moves (s : State) (g : Nat) (r : TagRecord) (read : s.readRecord g = .verified r)
    (step : scannerStep s.retire.domain r = none) : s.judgeScan g = s.scannerMoves := by
  unfold State.judgeScan
  rw [read]
  dsimp only
  rw [step]

theorem judgeScan_unverifiable (s : State) (g : Nat) (img : Image) (read : s.readRecord g = .unverifiable img) :
    s.judgeScan g = ((s.fileRequest g).capture g .retire img).scannerMoves := by
  unfold State.judgeScan
  rw [read]
  rfl

theorem scannerStep_own (d : DomainNo) (r : TagRecord) (own : r.countedOwner = some d) :
    scannerStep d r = some (.release d) := if_pos own

theorem scannerStep_shared (d o : DomainNo) (r : TagRecord) (owner : r.countedOwner = some o) (other : o ≠ d)
    (shared : r.hasSharer d = true) : scannerStep d r = some (.unshare o d) := by
  obtain ⟨same, -⟩ := (countedOwner_iff r o).mp owner
  unfold scannerStep
  rw [owner, if_neg fun h => other (Option.some.inj h), shared, same]
  rfl

theorem scannerStep_none (d : DomainNo) (r : TagRecord) (other : r.countedOwner ≠ some d)
    (free : r.countedOwner = none ∨ r.hasSharer d = false) : scannerStep d r = none := by
  unfold scannerStep
  rw [if_neg other]
  rcases free with none | unshared
  · rw [none]
    rfl
  · rw [unshared, Bool.and_false]
    rfl

/-- Settles O36: the sequence is the tagged windows in ascending number; a scanning read is judged by the record, and
one set aside is placed again when the entry of its granule is freed. -/
theorem scanningReadGrant : Obligations.ScanningReadGrant := by
  unfold Obligations.ScanningReadGrant
  refine ⟨fun p n => ⟨firstTagged_some p n, firstTagged_none p n⟩,
    fun p i o => ⟨positionStands_iff p i o, ?_, nextPosition_eq p i o⟩,
    fun s w o at_ => ⟨fun x y next => ?_, fun last => ?_⟩,
    fun s g => ⟨freeFence_aside s g, freeFence_plain s g⟩,
    fun s g e rest pick found inside aside => ⟨fun queue prior => ?_, fun queue kind fails => ?_⟩,
    fun s g pick queue inside => ?_⟩
  · unfold PolicyCopy.positionIndex
    rw [window_getElem]
  · rw [scannerMoves_on s w o at_, next, scannerAt_some]
  · rw [scannerMoves_on s w o at_, last]
    rfl
  · obtain ⟨p, known⟩ := Option.isSome_iff_exists.mp prior
    have event := exec_finalWriteGrant s g e p rest pick queue found known inside
    have kept : (((((s.granted rest).writeRecord g (finalRecord e.kind p)).freeGranule g).adjustOwned e.kind p
        (finalRecord e.kind p))).retire = s.retire := by
      rw [adjustOwned_whole, freeGranule_whole]
      rfl
    exact freed_places_after s _ _ e.source g none kept aside event
  · obtain ⟨r, failed⟩ := Option.ne_none_iff_exists'.mp fails
    have event := exec_commandReadGrant_fails s g e r rest pick queue found kind failed inside
    have kept : ((s.granted rest).fileFailureOf e.kind g (s.readRecord g)).retire = s.retire := by
      rw [fileFailureOf_whole]
      rfl
    rw [fileFailureOf_eq] at kept
    exact freed_places_after s _ _ e.source g (some r) kept aside event
  · have event := exec_scanningReadGrant s g pick queue inside
    intro u
    refine ⟨fun fenced => ?_, fun free r read => ⟨fun own => ?_, fun d owner other shared => ?_, fun other none => ?_⟩,
      fun free img read => ?_⟩
    · rw [event, scanRead_aside s.scanGranted g fenced]
      rfl
    · rw [event, scanRead_judges s.scanGranted g free,
        judgeScan_steps s.scanGranted g r _ read (scannerStep_own _ r own)]
      rfl
    · rw [event, scanRead_judges s.scanGranted g free,
        judgeScan_steps s.scanGranted g r _ read (scannerStep_shared _ d r owner other shared)]
      rfl
    · rw [event, scanRead_judges s.scanGranted g free,
        judgeScan_moves s.scanGranted g r read (scannerStep_none _ r other none)]
      rfl
    · rw [event, scanRead_judges s.scanGranted g free, judgeScan_unverifiable s.scanGranted g img read]
      rfl

end Sys2Proof.Machine
end

section
/-! SUPPORT. The sweep's moves, the placement of its reads and their grants (R150, R151, R156). -/

namespace Sys2Proof.Machine

/-! ### Moves (R151) -/

theorem sweepMoves_next (s : State) (w o : Nat)
    (next : s.active.nextPosition s.sweep.window s.sweep.offset = some (w, o)) :
    s.sweepMoves = { s with sweep := { s.sweep with window := w, offset := o } } := by
  unfold State.sweepMoves State.sweepNext
  rw [next]
  rfl

theorem sweepMoves_wraps (s : State) (next : s.active.nextPosition s.sweep.window s.sweep.offset = none) :
    s.sweepMoves = { s with sweep := { s.sweep with
      window := ((s.active.firstTagged 0).getD (0, 0)).1, offset := ((s.active.firstTagged 0).getD (0, 0)).2
      passes := (s.sweep.passes + 1) % 2 ^ 32 } } := by
  unfold State.sweepMoves State.sweepNext
  rw [next]
  rfl

/-! ### Placement (R150) -/

theorem sweepDue_of (s : State) (credit : s.sweep.creditPending = true) (idle : s.store.sweepQ = none)
    (free : s.sweep.held = none) (empty : s.sweep.requests = []) : s.sweepDue = true := by
  simp [State.sweepDue, credit, idle, free, empty]

theorem exec_sweepReadPlacement_empty (s : State) (due : s.sweepDue = true) (empty : s.active.firstTagged 0 = none) :
    exec .sweepReadPlacement s = .next { s with sweep := { s.sweep with creditPending := false } } := by
  show execSweepReadPlacement s = _
  unfold execSweepReadPlacement
  rw [if_pos due, empty]

theorem exec_sweepReadPlacement_some (s : State) (due : s.sweepDue = true) (walks : s.active.firstTagged 0 ≠ none) :
    exec .sweepReadPlacement s = .next s.sweepChecked.placeSweepRead := by
  obtain ⟨p, first⟩ := Option.ne_none_iff_exists'.mp walks
  show execSweepReadPlacement s = _
  unfold execSweepReadPlacement
  rw [if_pos due, first]

theorem sweepChecked_stands (s : State) (h : s.active.positionStands s.sweep.window s.sweep.offset = true) :
    s.sweepChecked = s := if_pos h

theorem sweepChecked_moves (s : State) (h : s.active.positionStands s.sweep.window s.sweep.offset = false) :
    s.sweepChecked = s.sweepMoves := if_neg (by rw [h]; exact Bool.false_ne_true)

/-! ### The grant (R151) -/

/-- The part after the grant of a sweep read. -/
def State.sweepGranted (s : State) : State :=
  { s.countGrant .sweep with store := { (s.countGrant .sweep).store with sweepQ := none } }

theorem exec_sweepReadGrant (s : State) (g : Nat) (pick : s.arbPick = some .sweep) (queue : s.store.sweepQ = some g)
    (inside : g < s.capacity) : exec .sweepReadGrant s = .next (s.sweepGranted.sweepRead g).closeEvent := by
  show execSweepReadGrant s = _
  unfold execSweepReadGrant
  rw [onGrant_due s .sweep _ pick]
  have same : (s.countGrant .sweep).store.sweepQ = some g := queue
  rw [same]
  exact onRecord_inside s.sweepGranted g _ inside

theorem sweepRead_moves (s : State) (g : Nat)
    (h : s.fenced g = true ∨ ∃ r : TagRecord, s.readRecord g = .verified r) : s.sweepRead g = s.sweepMoves := by
  unfold State.sweepRead
  rcases h with fenced | ⟨r, read⟩
  · rw [if_pos fenced]
  · split
    · rfl
    · rw [read]

theorem sweepRead_finds (s : State) (g : Nat) (img : Image) (free : s.fenced g = false)
    (read : s.readRecord g = .unverifiable img) : s.sweepRead g = s.sweepFound g img := by
  unfold State.sweepRead
  rw [if_neg (by rw [free]; exact Bool.false_ne_true), read]

/-- The event record of an unverifiable record that the sweep found. -/
def State.sweepRecord (s : State) (g : Nat) (img : Image) : EventRecord :=
  { time := s.timeBase, kind := .integrity, link := none, granule := some g, domain := none
    detail := .checks img[15] (checkByte img.toList) }

/-- The part after the failure is captured and told. -/
def State.sweepTold (s : State) (g : Nat) (img : Image) : State :=
  ((s.capture g .sweep img).storeEvent (s.sweepRecord g img)).raise .integrityError

theorem sweepTold_whole (s : State) (g : Nat) (img : Image) : s.sweepTold g img = { s with
    sweep := (s.capture g .sweep img).sweep
    reports := { s.reports with
      q1 := (s.sweepTold g img).reports.q1, status := (s.sweepTold g img).reports.status
      notifyDue := (s.sweepTold g img).reports.notifyDue } } := by
  have captured := capture_eq s g .sweep img
  unfold State.sweepTold
  generalize s.capture g .sweep img = t at *
  have told := onlyReports_storeEvent t (s.sweepRecord g img)
  have links := storeEvent_links t (s.sweepRecord g img)
  unfold State.OnlyReports at told
  generalize t.storeEvent (s.sweepRecord g img) = v at *
  have raised := raise_eq v .integrityError
  generalize v.raise .integrityError = x at *
  rw [raised, told, links, captured]

theorem capture_requests (s : State) (g : Nat) (who : FoundBy) (img : Image) :
    (s.capture g who img).sweep.requests = s.sweep.requests := by
  rw [capture_eq]

theorem capture_first (s : State) (g : Nat) (who : FoundBy) (img : Image) (empty : s.sweep.capture = none) :
    (s.capture g who img).sweep.capture = some
      { granule := g, foundBy := who, stored := img[15], computed := checkByte img.toList } := by
  unfold State.capture
  rw [empty]

theorem capture_later (s : State) (g : Nat) (who : FoundBy) (img : Image) (c : Capture)
    (taken : s.sweep.capture = some c) : (s.capture g who img).sweep.capture = some c ∧
      (s.capture g who img).sweep.overflow =
        if s.sweep.overflow < 255 then s.sweep.overflow + 1 else s.sweep.overflow := by
  unfold State.capture
  rw [taken]
  exact ⟨taken, rfl⟩

theorem sweepTold_q1 (s : State) (g : Nat) (img : Image) (room : s.reports.q1.fill < s.reports.q1.size) :
    (s.sweepTold g img).reports.q1.records = s.reports.q1.records ++ [s.sweepRecord g img] := by
  have captured : (s.capture g .sweep img).reports = s.reports := by rw [capture_eq]
  unfold State.sweepTold
  rw [raise_q1, storeEvent_room _ _ (by rw [captured]; exact room), captured]
  split
  · rw [raise_q1]
    rfl
  · rfl

/-- The part after the record that the sweep found is held for quarantine. -/
theorem sweepFound_eq (s : State) (g : Nat) (img : Image) : s.sweepFound g img = { s.sweepTold g img with
    sweep := { (s.sweepTold g img).sweep with
      held := some g, requests := s.sweep.requests.filter fun i => i != g } } := by
  have time : (s.capture g .sweep img).timeBase = s.timeBase := by rw [capture_eq]
  have found : s.sweepFound g img = { s.sweepTold g img with
      sweep := { (s.sweepTold g img).sweep with
        held := some g, requests := (s.sweepTold g img).sweep.requests.filter fun i => i != g } } := by
    unfold State.sweepFound State.report State.sweepTold State.sweepRecord
    rw [time]
  have requests : (s.sweepTold g img).sweep.requests = s.sweep.requests := by
    rw [sweepTold_whole, ← capture_requests s g .sweep img]
  rw [found, requests]

/-- What the sweep's find leaves at the end of its event. -/
theorem sweepFound_effect (s : State) (g : Nat) (img : Image) :
    let t := (s.sweepFound g img).closeEvent
    t.sweep.held = some g ∧ t.sweep.requests = s.sweep.requests.filter (fun i => i != g) ∧
      StatusSet.has t.reports.status .integrityError = true ∧
      t.sweep.capture = (s.capture g .sweep img).sweep.capture ∧
      t.sweep.overflow = (s.capture g .sweep img).sweep.overflow ∧
      t.reports.q1 = (s.sweepTold g img).reports.q1 ∧ s.LinksSend t ∧
      t = { s with
        links := t.links
        sweep := { s.sweep with
          held := some g, requests := t.sweep.requests, capture := t.sweep.capture, overflow := t.sweep.overflow }
        reports := { s.reports with
          q1 := t.reports.q1, status := t.reports.status, notifyDue := t.reports.notifyDue } } ∧
      ∀ l : LinkId, (t.link l).outbound.filter (fun m => !m.isNotify) =
        (s.link l).outbound.filter (fun m => !m.isNotify) := by
  have whole := sweepTold_whole s g img
  have has : StatusSet.has (s.sweepTold g img).reports.status .integrityError = true := raise_has _ _
  have captured := capture_eq s g .sweep img
  rw [sweepFound_eq]
  generalize s.sweepTold g img = v at *
  intro t
  have close : t = _ := closeEvent_eq { v with
    sweep := { v.sweep with held := some g, requests := s.sweep.requests.filter fun i => i != g } }
  have send : State.LinksSend _ t := linksSend_closeEvent { v with
    sweep := { v.sweep with held := some g, requests := s.sweep.requests.filter fun i => i != g } }
  have others : ∀ l, (t.link l).outbound.filter _ = _ := closeEvent_others { v with
    sweep := { v.sweep with held := some g, requests := s.sweep.requests.filter fun i => i != g } }
  clear_value t
  have links : v.links = s.links := by rw [whole]
  have link (l : LinkId) : v.link l = s.link l := by
    unfold State.link
    rw [links]
  generalize s.capture g .sweep img = c at *
  refine ⟨by rw [close], by rw [close], by rw [close]; exact has, by rw [close, whole], by rw [close, whole],
    by rw [close], (State.LinksSend.of_eq links).trans send, ?_, fun l => (others l).trans ?_⟩
  · rw [close, whole, captured]
  · rw [← link l]
    rfl

/-- Settles O37: a sweep read moves the sweep or finds an unverifiable record, whose event is followed part by part. -/
theorem sweepReads : Obligations.SweepReads := by
  unfold Obligations.SweepReads
  refine ⟨fun s => ⟨sweepMoves_next s, fun last => ⟨fun w o first => ?_, fun empty => ?_⟩⟩,
    fun s credit idle free empty => ?_, fun s g pick queue inside => ?_⟩
  · rw [sweepMoves_wraps s last, first]
    rfl
  · rw [sweepMoves_wraps s last, empty]
    rfl
  · have due := sweepDue_of s credit idle free empty
    refine ⟨exec_sweepReadPlacement_empty s due, fun walks stands => ?_, fun w o walks stands next => ?_,
      fun w o first stands last => ?_⟩
    · rw [exec_sweepReadPlacement_some s due walks, sweepChecked_stands s stands]
      rfl
    · rw [exec_sweepReadPlacement_some s due walks, sweepChecked_moves s stands, sweepMoves_next s w o next]
      rfl
    · rw [exec_sweepReadPlacement_some s due (by rw [first]; simp), sweepChecked_moves s stands,
        sweepMoves_wraps s last, first]
      rfl
  · have event := exec_sweepReadGrant s g pick queue inside
    intro u
    refine ⟨fun h => ?_, fun free img read => ?_⟩
    · rw [event, sweepRead_moves s.sweepGranted g h]
      rfl
    · obtain ⟨held, requests, status, capture, overflow, q1, send, whole, others⟩ :=
        sweepFound_effect s.sweepGranted g img
      have told := sweepFound_eq s.sweepGranted g img
      have room := sweepTold_q1 s.sweepGranted g img
      have first := capture_first s.sweepGranted g .sweep img
      have later := capture_later s.sweepGranted g .sweep img
      have next : exec .sweepReadGrant s = .next (s.sweepGranted.sweepFound g img).closeEvent := by
        rw [event, sweepRead_finds s.sweepGranted g img free read]
      have closed := congrArg State.closeEvent told
      generalize (s.sweepGranted.sweepFound g img).closeEvent = t at *
      have store : t.store = s.sweepGranted.store := by rw [whole]
      refine ⟨t, next, held, requests, status, fun empty => capture.trans (first empty), fun c taken => ?_,
        fun h => ?_, send, ?_, others, closed⟩
      · obtain ⟨kept, counted⟩ := later c taken
        exact ⟨capture.trans kept, overflow.trans counted⟩
      · rw [q1]
        exact room h
      · rw [store]
        exact whole

end Sys2Proof.Machine
end

section
/-! SUPPORT. The sending of a message and the frames that a link held (R181, R184). -/

namespace Sys2Proof.Machine

theorem sends_announcing (k : Link) (m : OutMsg) (state : k.state = .announcing)
    (first : k.outbound.find? OutMsg.isAnnounceReply = some m) : k.sends = some m := by
  unfold Link.sends
  rw [state]
  exact first

theorem sends_oldest (k : Link) (m : OutMsg)
    (state : k.state = .admitWait ∨ k.state = .active ∨ k.state = .held ∨ k.state = .refused)
    (first : k.outbound.head? = some m) : k.sends = some m := by
  unfold Link.sends
  rcases state with state | state | state | state <;> rw [state] <;> exact first

/-- The part after a message left its path. -/
def State.sent (s : State) (l : LinkId) (m : OutMsg) : State := s.updLink l fun k => k.afterSend m

theorem exec_outboundMessageSent (s : State) (l : LinkId) (m : OutMsg) (sends : (s.link l).sends = some m) :
    exec (.outboundMessageSent l) s = .next (if (s.link l).held.head?.any (s.freesFor l m)
      then drainHeld l (s.link l).held (s.sent l m) else s.sent l m) := by
  show execOutboundMessageSent l s = _
  unfold execOutboundMessageSent
  rw [sends]
  rfl

theorem freesFor_iff (s : State) (l : LinkId) (m : OutMsg) (f : Instr) : s.freesFor l m f = true ↔
    (m.isReply = true ∧ repliesTo f = true) ∨
      (m.isVerdict = true ∧ isCheck f = true ∧ 64 ≤ s.verdictPlacesUsed l) := by
  unfold State.freesFor
  rw [Bool.or_eq_true, Bool.and_eq_true, Bool.and_eq_true, Bool.and_eq_true, decide_eq_true_eq, and_assoc]
  rfl

theorem exec_sent_quiet (s : State) (l : LinkId) (m : OutMsg) (sends : (s.link l).sends = some m)
    (quiet : ∀ f ∈ (s.link l).held.head?, ¬ s.freesFor l m f = true) :
    exec (.outboundMessageSent l) s = .next (s.sent l m) := by
  rw [exec_outboundMessageSent s l m sends, if_neg]
  intro h
  obtain ⟨f, first, frees⟩ := Option.any_eq_true _ _ |>.mp h
  exact quiet f first frees

theorem exec_sent_frees (s : State) (l : LinkId) (m : OutMsg) (f : Instr) (rest : List Instr)
    (sends : (s.link l).sends = some m) (held : (s.link l).held = f :: rest) (frees : s.freesFor l m f = true) :
    exec (.outboundMessageSent l) s = .next (drainHeld l (f :: rest) (s.sent l m)) := by
  rw [exec_outboundMessageSent s l m sends, held]
  exact congrArg Host.Outcome.next (if_pos frees)

theorem drainHeld_outside (s : State) (l : LinkId) (f : Instr) (rest : List Instr)
    (out : (s.link l).state.inSession = false) : drainHeld l (f :: rest) s = s :=
  if_neg (by rw [out]; exact Bool.false_ne_true)

theorem drainHeld_holds (s : State) (l : LinkId) (f : Instr) (rest : List Instr)
    (session : (s.link l).state.inSession = true) (waits : s.mustHold l f = true) :
    drainHeld l (f :: rest) s = s.setHeld l (f :: rest) := (if_pos session).trans (if_pos waits)

theorem drainHeld_takes (s : State) (l : LinkId) (f : Instr) (rest : List Instr)
    (session : (s.link l).state.inSession = true) (free : s.mustHold l f = false) :
    drainHeld l (f :: rest) s = drainHeld l rest (s.takeFrame f).closeEvent :=
  (if_pos session).trans (if_neg (by rw [free]; exact Bool.false_ne_true))

theorem sent_link (s : State) (l : LinkId) (m : OutMsg) :
    (s.sent l m).link l = { s.link l with outbound := (s.link l).outbound.erase m } :=
  State.link_updLink_same s l _

/-- A frame is taken in an event of its own by its command. -/
theorem exec_takes (s : State) (l : LinkId) (f : Instr) (frame : frameLink f = some l) (takes : s.Takes l f) :
    exec f s = .next (s.takeFrame f).closeEvent := by
  rw [exec_frame f l s frame, deliver_takes s l f _ takes]

theorem frameLink_managed (f : Instr) (h : MgmtHeader) (managed : managedHeader f = some h) :
    frameLink f = some h.link := by
  cases f <;> cases managed <;> rfl

/-- Settles O43: the message that leaves is told by the link's state, and whether the first held frame is taken by the
place that the message frees; each held frame is then taken in an event of its own. -/
theorem outboundMessageSent : Obligations.OutboundMessageSent := by
  unfold Obligations.OutboundMessageSent
  refine ⟨fun s l m oldest => ?_, fun s l f rest => ⟨fun fs => rfl, rfl, drainHeld_outside s l f rest,
    drainHeld_holds s l f rest, drainHeld_takes s l f rest⟩, fun s l f takes kinds => ?_⟩
  · have sends : (s.link l).sends = some m := by
      rcases oldest with ⟨state, first⟩ | ⟨state, first⟩
      · exact sends_announcing _ m state first
      · exact sends_oldest _ m state first
    have link := sent_link s l m
    have session (serves : (s.link l).state ≠ .refused) : ((s.sent l m).link l).state.inSession = true := by
      rw [link]
      rcases oldest with ⟨state, -⟩ | ⟨state | state | state | state, -⟩
      · simp [state, LinkState.inSession]
      · simp [state, LinkState.inSession]
      · simp [state, LinkState.inSession]
      · simp [state, LinkState.inSession]
      · exact absurd state serves
    intro u frees
    have start : u = s.sent l m := rfl
    have places (f : Instr) : s.freesFor l m f = true ↔ frees f := freesFor_iff s l m f
    clear_value u frees
    subst start
    refine ⟨fun empty => ?_, fun f held serves free takes => ?_, fun f rest held stays => ?_,
      fun f rest held free => ⟨?_, fun serves takes => ?_⟩⟩
    · exact exec_sent_quiet s l m sends fun f first => by rw [empty] at first; cases first
    · rw [exec_sent_frees s l m f [] sends held ((places f).mpr free),
        drainHeld_takes _ l f [] (session serves) takes]
      rfl
    · by_cases free : s.freesFor l m f = true
      · have waits : (s.sent l m).mustHold l f = true := stays.resolve_left fun h => h ((places f).mp free)
        rw [exec_sent_frees s l m f rest sends held free, drainHeld_waits _ l f rest (by rw [link]; exact held) waits]
      · refine exec_sent_quiet s l m sends fun g first => ?_
        rw [held] at first
        cases first
        exact free
    · exact exec_sent_frees s l m f rest sends held ((places f).mpr free)
    · rw [exec_sent_frees s l m f rest sends held ((places f).mpr free),
        drainHeld_takes _ l f rest (session serves) takes]
  · refine exec_takes s l f ?_ takes
    rcases kinds with ⟨h, managed, rfl⟩ | ⟨_, rfl⟩ | ⟨_, rfl⟩ | ⟨_, rfl⟩ | ⟨_, rfl⟩ | ⟨_, _, rfl⟩ | rfl | ⟨_, _, rfl⟩ |
      ⟨_, rfl⟩
    · exact frameLink_managed f h managed
    all_goals rfl

end Sys2Proof.Machine
end

section
/-! SUPPORT. The loss of a link: what its event leaves of the link, of its session and of the channels that fetch on it
(R87, R131, R143, R173, R182). -/

namespace Sys2Proof.Machine

/-! ### The event of a loss -/

/-- The end of an event leaves a link alone that is not ACTIVE. -/
theorem closeEvent_link_idle (s : State) (l : LinkId) (idle : (s.link l).state ≠ .active) :
    s.closeEvent.link l = s.link l := by
  by_cases due : s.reports.notifyDue = 0
  · rw [closeEvent_quiet s due]
  · rw [closeEvent_link s l due, if_neg fun h => idle h.2]

theorem settled_link_idle (s : State) (l : LinkId) (idle : (s.link l).state ≠ .active) :
    s.settle.closeEvent.link l = s.link l := by
  have settled : s.settle.link l = s.link l := by
    unfold State.link
    rw [settle_links]
  rw [closeEvent_link_idle _ l (by rw [settled]; exact idle), settled]

/-- A link whose state changed leaves its session, and its event ends. -/
def State.left (s : State) (l : LinkId) (f : Link → Link) (kept : List OutMsg) : State :=
  (((s.updLink l f).linkLeaves l kept).settle).closeEvent

theorem left_cleared (s : State) (l : LinkId) (f : Link → Link) (kept : List OutMsg) : s.Cleared (s.left l f kept) l :=
  (linkLeaves_cleared (s.updLink l f) l kept).before.settle.closeEvent

theorem drainsWait_updLink (s : State) (l : LinkId) (f : Link → Link) : s.DrainsWait (s.updLink l f) :=
  State.DrainsWait.refl s

theorem left_settles (s : State) (l : LinkId) (f : Link → Link) (kept : List OutMsg) : s.Settles (s.left l f kept) :=
  settles_of_drainsWait ((drainsWait_updLink s l f).trans (drainsWait_linkLeaves _ l kept))

theorem left_link (s : State) (l : LinkId) (f : Link → Link) (kept : List OutMsg) (idle : (f (s.link l)).state ≠ .active) :
    (s.left l f kept).link l = { f (s.link l) with
      outbound := kept, held := [], announceTimer := none, flushOutstanding := false, flushTimer := none } := by
  have leaves := linkLeaves_link (s.updLink l f) l kept
  rw [State.link_updLink_same] at leaves
  unfold State.left
  rw [settled_link_idle _ l (by rw [leaves]; exact idle), leaves]

/-! ### The channels that fetch on the link (R131) -/

theorem chainLinkLost_waits (s : State) (c : ChannelId)
    (waits : (s.chan c).state = .fetching ∨ (s.chan c).state = .posting ∨ (s.chan c).state = .stopped) :
    s.chainLinkLost c = s.restChannel c .idle .linkLost (s.chan c).offsetReached := by
  unfold State.chainLinkLost
  rcases waits with state | state | state <;> simp only [state]

theorem chainLinkLost_executing (s : State) (c : ChannelId) (executing : (s.chan c).state = .executing) :
    s.chainLinkLost c = (s.updChan c fun k => { k with linkLost := true }).settleChannel c := by
  unfold State.chainLinkLost
  simp only [executing]

theorem chainLinkLost_idle (s : State) (c : ChannelId) (idle : (s.chan c).state = .idle) : s.chainLinkLost c = s := by
  unfold State.chainLinkLost
  simp only [idle]

/-- What the loss of a link makes of a channel that fetches on it. -/
def Channel.linkGone (k : Channel) : Channel :=
  match k.state with
  | .idle => k
  | .fetching | .posting | .stopped => k.atRest .idle .linkLost k.offsetReached
  | .executing =>
    if k.block.isSome ∧ k.inFence = 0 then k.atRest .idle .linkLost k.nextOffset else { k with linkLost := true }

theorem blockFailure_chan (s : State) (c : ChannelId) (b : Block) : (s.blockFailure c b).chan c = s.chan c := by
  have only : s.OnlyReports (s.blockFailure c b) := by
    unfold State.blockFailure
    split
    · exact onlyReports_report ..
    · exact State.OnlyReports.refl s
  unfold State.OnlyReports at only
  unfold State.chan
  rw [only]

/-- A channel in EXECUTING that its link left behind. -/
theorem settleChannel_lost (s : State) (c : ChannelId) (executing : (s.chan c).state = .executing)
    (lost : (s.chan c).linkLost = true) : (s.settleChannel c).chan c =
      if (s.chan c).block.isSome ∧ (s.chan c).inFence = 0 then (s.chan c).atRest .idle .linkLost (s.chan c).nextOffset
      else s.chan c := by
  by_cases free : (s.chan c).inFence = 0
  · cases held : (s.chan c).block with
    | none =>
      rw [if_neg (by simp)]
      unfold State.settleChannel
      simp only [held, executing]
    | some b =>
      rw [if_pos ⟨rfl, free⟩, settleChannel_held s c b executing held free, if_pos lost, if_pos lost]
      split
      · rw [restChannel_chan, blockFailure_chan]
      · rw [restChannel_chan]
  · rw [settleChannel_busy s c free, if_neg fun h => free h.2]

theorem chainLinkLost_chan (s : State) (c : ChannelId) : (s.chainLinkLost c).chan c = (s.chan c).linkGone := by
  unfold Channel.linkGone
  split
  next state => rw [chainLinkLost_idle s c state]
  next state => rw [chainLinkLost_waits s c (Or.inl state), restChannel_chan]
  next state => rw [chainLinkLost_waits s c (Or.inr (Or.inl state)), restChannel_chan]
  next state => rw [chainLinkLost_waits s c (Or.inr (Or.inr state)), restChannel_chan]
  next state =>
    have lost := settleChannel_lost (s.updChan c fun k => { k with linkLost := true }) c
    rw [State.chan_updChan_same] at lost
    rw [chainLinkLost_executing s c state, lost state rfl]
    rfl

/-- The step of a lost link for one channel. -/
def State.chainStep (s : State) (l : LinkId) (c : ChannelId) : State :=
  if (s.chan c).fetchLink = l then s.chainLinkLost c else s

theorem chainsLinkLost_eq (s : State) (l : LinkId) : s.chainsLinkLost l = (s.chainStep l 0).chainStep l 1 := rfl

theorem chainStep_other (s : State) (l : LinkId) (c d : ChannelId) (h : d ≠ c) : (s.chainStep l c).chan d = s.chan d := by
  unfold State.chainStep
  split
  · exact (onlyChannel_chainLinkLost s c).2.2 d h
  · rfl

theorem chainStep_own (s : State) (l : LinkId) (c : ChannelId) (own : (s.chan c).fetchLink = l) :
    (s.chainStep l c).chan c = (s.chan c).linkGone := by
  unfold State.chainStep
  rw [if_pos own, chainLinkLost_chan]

theorem chainsLinkLost_chan (s : State) (l : LinkId) (c : ChannelId) (own : (s.chan c).fetchLink = l) :
    (s.chainsLinkLost l).chan c = (s.chan c).linkGone := by
  rw [chainsLinkLost_eq]
  have cases : c = 0 ∨ c = 1 := (by decide : ∀ d : ChannelId, d = 0 ∨ d = 1) c
  rcases cases with rfl | rfl
  · rw [chainStep_other _ l 1 0 (by decide), chainStep_own s l 0 own]
  · have same := chainStep_other s l 0 1 (by decide)
    rw [chainStep_own _ l 1 (by rw [same]; exact own), same]

theorem linkLeaves_chan (s : State) (l : LinkId) (kept : List OutMsg) (c : ChannelId)
    (own : (s.chan c).fetchLink = l) : (s.linkLeaves l kept).chan c = (s.chan c).linkGone := by
  obtain ⟨u, whole, -, -, leaves⟩ := linkLeaves_eq s l kept
  have same : u.chan c = s.chan c := by
    unfold State.chan
    rw [whole]
  dsimp only at leaves
  rw [leaves]
  show (u.chainsLinkLost l).chan c = _
  rw [chainsLinkLost_chan u l c (by rw [same]; exact own), same]

theorem left_chan (s : State) (l : LinkId) (f : Link → Link) (kept : List OutMsg) (c : ChannelId)
    (own : (s.chan c).fetchLink = l) : (s.left l f kept).chan c = (s.chan c).linkGone := by
  have leaves := linkLeaves_chan (s.updLink l f) l kept c own
  have chains : (s.left l f kept).chains = ((s.updLink l f).linkLeaves l kept).chains := by
    unfold State.left
    rw [closeEvent_eq, settle_eq]
  exact (chan_of_chains chains c).trans leaves

/-! ### LINK_SIGNAL_LOSS (R173) -/

/-- A link that goes to DOWN. -/
def Link.lost (k : Link) : Link := { k with state := .down, outbound := [] }

theorem exec_linkSignalLoss (s : State) (l : LinkId) (session : (s.link l).state.inSession = true) :
    exec (.linkSignalLoss l) s = .next (s.left l Link.lost []) := by
  show Host.Outcome.next (s.loseSignal l).closeEvent = _
  unfold State.loseSignal
  dsimp only
  rw [if_pos session]
  rfl

theorem exec_linkSignalLoss_outside (s : State) (l : LinkId) (between : s.Between)
    (out : (s.link l).state.inSession = false) :
    exec (.linkSignalLoss l) s = .next (s.setLink l { s.link l with state := .down, outbound := [] }) := by
  show Host.Outcome.next (s.loseSignal l).closeEvent = _
  unfold State.loseSignal
  dsimp only
  rw [if_neg (by rw [out]; exact Bool.false_ne_true)]
  exact congrArg Host.Outcome.next (closeEvent_quiet _ between)

/-- Settles O8: the event of a loss is read as the link's leaving, then the drains and the flush it completes. -/
theorem signalLossClearsLink : Obligations.SignalLossClearsLink := by
  unfold Obligations.SignalLossClearsLink
  refine ⟨fun s l session => ?_, fun s l between out => exec_linkSignalLoss_outside s l between out,
    fun s l c session own waits => ?_, fun s l c b session own executing held => ?_, linkLeaves_eq, fun s l => ?_,
    fun s c => ⟨chainLinkLost_idle s c, chainLinkLost_waits s c, chainLinkLost_executing s c⟩⟩
  · exact ⟨_, exec_linkSignalLoss s l session, left_cleared s l _ [], left_link s l _ [] (by simp [Link.lost]),
      left_settles s l _ [], rfl⟩
  · have chan := left_chan s l Link.lost [] c own
    have rests : (s.chan c).linkGone = (s.chan c).atRest .idle .linkLost (s.chan c).offsetReached := by
      unfold Channel.linkGone
      rcases waits with state | state | state <;> simp only [state]
    rw [rests] at chan
    refine ⟨_, exec_linkSignalLoss s l session, ?_, ?_, ?_⟩ <;> rw [chan] <;> rfl
  · have chan := left_chan s l Link.lost [] c own
    refine ⟨_, exec_linkSignalLoss s l session, fun busy => ?_, fun free => ?_⟩
    · rw [chan]
      unfold Channel.linkGone
      simp only [executing]
      exact if_neg fun h => busy h.2
    · rw [chan]
      unfold Channel.linkGone
      simp only [executing]
      exact if_pos ⟨by rw [held]; rfl, free⟩
  · exact chainsLinkLost_eq s l

end Sys2Proof.Machine
end

section
/-! SUPPORT. The taking of an ANNOUNCE: when it is sound, which role and revision a link accepts, and its answers
(R175, R177, R185). -/

namespace Sys2Proof.Machine

/-! ### Sound bytes, roles and revisions -/

theorem announceSound_iff (m : AnnounceMsg) : AnnounceSound m = true ↔
    (m.role.toNat + m.revision.toNat + m.maxOpen.toNat + m.capacity.toNat % 256 +
      m.capacity.toNat / 256 + m.cacheEmpty.toNat + m.sum.toNat) % 256 = 255 := by
  have low : (lowByte m.capacity).toNat = m.capacity.toNat % 256 := by
    unfold lowByte
    simp
  have high : (highByte m.capacity).toNat = m.capacity.toNat / 256 := by
    unfold highByte
    simp [Nat.shiftRight_eq_div_pow]
    omega
  unfold AnnounceSound
  rw [beq_iff_eq, ← BitVec.toNat_inj]
  have whole : (255 : Byte).toNat = 255 := rfl
  simp only [BitVec.toNat_add, low, high, whole]
  omega

theorem roleOfCode_iff (b : Byte) (r : Role) : roleOfCode b = some r ↔ (b = 1 ∧ r = .socket) ∨ (b = 2 ∧ r = .ioRoot) := by
  unfold roleOfCode
  by_cases one : b = 1
  · subst one
    cases r <;> simp
  · by_cases two : b = 2
    · subst two
      cases r <;> simp
    · rw [if_neg one, if_neg two]
      refine ⟨nofun, ?_⟩
      rintro (⟨h, -⟩ | ⟨h, -⟩)
      · exact absurd h one
      · exact absurd h two

theorem acceptsRole_iff (k : Link) (m : AnnounceMsg) (r : Role) : k.acceptsRole m = some r ↔
    ((m.role = 1 ∧ r = .socket) ∨ (m.role = 2 ∧ r = .ioRoot)) ∧
      (k.expectRole = none ∨ k.expectRole = some r) ∧ 1 ≤ m.revision.toNat ∧
      m.revision.toNat ≤ 15 ∧ k.minRevision ≤ m.revision.toNat := by
  rw [← roleOfCode_iff]
  unfold Link.acceptsRole
  cases code : roleOfCode m.role with
  | none => simp
  | some x =>
    simp only [Option.ite_none_right_eq_some, Option.some.injEq]
    constructor
    · rintro ⟨fits, rfl⟩
      exact ⟨rfl, fits⟩
    · rintro ⟨rfl, fits⟩
      exact ⟨fits, rfl⟩

/-- The role and revision tests of a role that a code names. -/
def Link.fits (k : Link) (m : AnnounceMsg) (r : Role) : Prop :=
  (k.expectRole = none ∨ k.expectRole = some r) ∧ 1 ≤ m.revision.toNat ∧ m.revision.toNat ≤ 15 ∧
    k.minRevision ≤ m.revision.toNat

theorem not_fits_iff (k : Link) (m : AnnounceMsg) (r x : Role) (other : ∀ y, y = r ∨ y = x) (ne : x ≠ r) :
    ¬ k.fits m r ↔ k.expectRole = some x ∨ m.revision.toNat = 0 ∨ 15 < m.revision.toNat ∨
      m.revision.toNat < k.minRevision := by
  have expects : (k.expectRole = none ∨ k.expectRole = some r) ↔ k.expectRole ≠ some x := by
    cases k.expectRole with
    | none => simp
    | some y => rcases other y with rfl | rfl <;> simp [ne, Ne.symm ne]
  unfold Link.fits
  rw [expects]
  by_cases fixed : k.expectRole = some x
  · simp [fixed]
  · simp only [fixed, ne_eq, not_false_eq_true, true_and, false_or]
    omega

theorem acceptsRole_none_of (k : Link) (m : AnnounceMsg) (r : Role) (code : roleOfCode m.role = some r) :
    k.acceptsRole m = none ↔ ¬ k.fits m r := by
  unfold Link.acceptsRole Link.fits
  rw [code]
  dsimp only
  split
  next fits => exact ⟨nofun, fun no => absurd fits no⟩
  next no => exact ⟨fun _ => no, fun _ => rfl⟩

theorem acceptsRole_none_iff (k : Link) (m : AnnounceMsg) : k.acceptsRole m = none ↔ (m.role ≠ 1 ∧ m.role ≠ 2) ∨
    (m.role = 1 ∧ k.expectRole = some .ioRoot) ∨ (m.role = 2 ∧ k.expectRole = some .socket) ∨
      m.revision.toNat = 0 ∨ 15 < m.revision.toNat ∨ m.revision.toNat < k.minRevision := by
  have differ : (1 : Byte) ≠ 2 := by decide
  by_cases one : m.role = 1
  · rw [acceptsRole_none_of k m .socket ((roleOfCode_iff _ _).mpr (Or.inl ⟨one, rfl⟩)),
      not_fits_iff k m .socket .ioRoot (fun y => by cases y <;> simp) (by simp)]
    have other : m.role ≠ 2 := one ▸ differ
    tauto
  · by_cases two : m.role = 2
    · rw [acceptsRole_none_of k m .ioRoot ((roleOfCode_iff _ _).mpr (Or.inr ⟨two, rfl⟩)),
        not_fits_iff k m .ioRoot .socket (fun y => by cases y <;> simp) (by simp)]
      tauto
    · have never : k.acceptsRole m = none := by
        cases accepted : k.acceptsRole m with
        | none => rfl
        | some r =>
          obtain ⟨(⟨h, -⟩ | ⟨h, -⟩), -⟩ := (acceptsRole_iff k m r).mp accepted
          · exact absurd h one
          · exact absurd h two
      simp only [never, true_iff]
      exact Or.inl ⟨one, two⟩

/-! ### Answers (R175) -/

theorem updLink_updLink (s : State) (l : LinkId) (f g : Link → Link) :
    (s.updLink l f).updLink l g = s.updLink l fun k => g (f k) := by
  have link := State.link_updLink_same s l f
  show ((s.updLink l f).setLink l (g ((s.updLink l f).link l))) = _
  rw [link]
  unfold State.updLink State.setLink
  dsimp only
  rw [Vector.set_set]

theorem setLink_updLink (s : State) (l : LinkId) (k : Link) (f : Link → Link) :
    (s.setLink l k).updLink l f = s.setLink l (f k) := updLink_updLink s l (fun _ => k) f

/-- An ANNOUNCE that its link takes in ANNOUNCING, by what the tests say of it. -/
theorem exec_announce (s : State) (l : LinkId) (m : AnnounceMsg) (takes : s.Takes l (.announce l m))
    (state : (s.link l).state = .announcing) : exec (.announce l m) s = .next
      (if AnnounceSound m then
        match (s.link l).acceptsRole m with
        | none => s.refuseLink l .mismatch
        | some r => if m.cacheEmpty = 1 then s.acceptAnnounce l m r else s.refuseLink l .cacheNotEmpty
      else s.badSum l).closeEvent := by
  have taken := deliver_takes s l (.announce l m) (fun t => t.takeAnnounce l m) takes
  refine (congrArg Host.Outcome.next taken).trans ?_
  unfold State.takeAnnounce
  simp only [state] <;> rfl

theorem acceptAnnounce_eq (s : State) (l : LinkId) (m : AnnounceMsg) (r : Role) : s.acceptAnnounce l m r =
    s.setLink l { s.link l with
      state := s.acceptedState l
      announced := some { role := r, revision := m.revision.toNat
                          maxOpen := min (max m.maxOpen.toNat 1) 64, capacity := m.capacity }
      announceTimer := none, lastReply := some .accepted
      outbound := (s.link l).outbound ++
        [.announceReply .accepted (some (min (max m.maxOpen.toNat 1) 64))] } := by
  unfold State.acceptAnnounce State.hand
  dsimp only
  rw [updLink_updLink]
  rfl

theorem badSum_eq (s : State) (l : LinkId) : s.badSum l = (s.setLink l { s.link l with
    announceTimer := some (s.timeBase + 1000#48), lastReply := some .badSum
    outbound := (s.link l).outbound ++ [.announceReply .badSum none] }).countError l .malformed := by
  unfold State.badSum State.startAnnounceTimer State.hand
  rw [updLink_updLink, updLink_updLink]
  rfl

/-- A counter that neither reaches the threshold nor stands at its largest value advances, and nothing else happens. -/
theorem countError_counts (s : State) (l : LinkId) (ty : CounterType) (room : ((s.link l).counters.get ty).value < 255)
    (below : ((s.link l).counters.get ty).value + 1 ≠ s.errorThreshold) : s.countError l ty =
      s.updLink l fun k => { k with counters := (k.counters.set ty
        { value := ((s.link l).counters.get ty).value + 1, reached := ((s.link l).counters.get ty).reached }) } := by
  have next (wrap : Bool) : counterNext wrap ((s.link l).counters.get ty).value =
      ((s.link l).counters.get ty).value + 1 := if_pos room
  unfold State.countError
  dsimp only
  rw [next, if_neg fun h => below h.2, decide_eq_false fun h => below h.2, Bool.false_or]

theorem refuseLink_eq (s : State) (l : LinkId) (r : AnnounceResult) : (s.refuseLink l r).closeEvent =
    s.left l (fun k => { k with state := .refused, lastReply := some r }) [.announceReply r none] := rfl

/-- Settles O11: the tests of a taken ANNOUNCE decide between its three answers. -/
theorem announceAnswered : Obligations.AnnounceAnswered := by
  unfold Obligations.AnnounceAnswered
  refine ⟨fun s l m r takes state sound role expect low high minimum empty => ?_,
    fun s l m takes state sound fails => ?_, fun s l m takes state unsound => ?_,
    fun k m => ⟨announceSound_iff m, acceptsRole_iff k m, acceptsRole_none_iff k m⟩,
    fun s l m takes state unsound room below => ?_⟩
  · have accepts := (acceptsRole_iff (s.link l) m r).mpr ⟨role, expect, low, high, minimum⟩
    rw [exec_announce s l m takes state, if_pos ((announceSound_iff m).mpr sound), accepts]
    dsimp only
    rw [if_pos empty, acceptAnnounce_eq]
    unfold State.acceptedState
    cases s.mode <;> rfl
  · intro r
    have event : exec (.announce l m) s = .next (s.left l (fun k => { k with state := .refused, lastReply := some r })
        [.announceReply r none]) := by
      rw [exec_announce s l m takes state, if_pos sound]
      cases accepts : (s.link l).acceptsRole m with
      | none =>
        have mismatch : r = .mismatch := if_pos accepts
        rw [mismatch]
        rfl
      | some x =>
        have full : r = .cacheNotEmpty := if_neg (by rw [accepts]; simp)
        have cached : m.cacheEmpty ≠ 1 := fails.resolve_left (by rw [accepts]; simp)
        dsimp only
        rw [if_neg cached, full]
        rfl
    exact ⟨_, event, left_cleared s l _ _, left_link s l _ _ (by simp), left_settles s l _ _, rfl⟩
  · rw [exec_announce s l m takes state, if_neg (by rw [unsound]; exact Bool.false_ne_true), badSum_eq]
  · rw [exec_announce s l m takes state, if_neg (by rw [unsound]; exact Bool.false_ne_true), badSum_eq]
    have counted := countError_counts (s.setLink l { s.link l with
      announceTimer := some (s.timeBase + 1000#48), lastReply := some .badSum
      outbound := (s.link l).outbound ++ [.announceReply .badSum none] }) l .malformed
    rw [State.link_setLink_same] at counted
    rw [counted room below, setLink_updLink]
    rfl

end Sys2Proof.Machine
end

section
/-! SUPPORT. The stages of a frame before its meaning: the session, the places, the tag tests and the authority test
(R40, R41, R181 to R184). -/

namespace Sys2Proof.Machine

/-! ### Sessions and places -/

theorem inSession_iff (k : LinkState) : k.inSession = true ↔
    k = .announcing ∨ k = .admitWait ∨ k = .active ∨ k = .held := by
  cases k <;> simp [LinkState.inSession]

theorem replyPlacesUsed_eq (s : State) (l : LinkId) : s.replyPlacesUsed l =
    ((s.link l).outbound.filter OutMsg.isReply).length +
      ((s.directQueue.filter fun e => decide (e.link = l ∧ e.inSession = true)).length +
        (s.store.softQueue.filter fun r => decide (r.link = l)).length) := by
  have direct : (fun e : DirectEntry => e.link == l && e.inSession) =
      fun e => decide (e.link = l ∧ e.inSession = true) := by
    funext e
    simp [Bool.decide_and, beq_eq_decide]
  have soft : (fun r : SoftRequest => r.link == l) = fun r => decide (r.link = l) := by
    funext r
    exact beq_eq_decide _ _
  unfold State.replyPlacesUsed State.outstandingCount
  rw [direct, soft, List.countP_eq_length_filter, List.countP_eq_length_filter, List.countP_eq_length_filter]

theorem verdictPlacesUsed_eq (s : State) (l : LinkId) : s.verdictPlacesUsed l =
    (s.openChecks.filter fun e => decide (e.link = l)).length +
      ((s.link l).outbound.filter OutMsg.isVerdict).length := by
  have own : (fun e : OpenCheck => e.link == l) = fun e => decide (e.link = l) := by
    funext e
    exact beq_eq_decide _ _
  unfold State.verdictPlacesUsed State.openCount
  rw [own, List.countP_eq_length_filter, List.countP_eq_length_filter]

theorem mustHold_iff (s : State) (l : LinkId) (f : Instr) : s.mustHold l f = true ↔
    (repliesTo f = true ∧ 32 ≤ s.replyPlacesUsed l) ∨ (isCheck f = true ∧ 64 ≤ s.verdictPlacesUsed l) := by
  unfold State.mustHold
  rw [Bool.or_eq_true, Bool.and_eq_true, Bool.and_eq_true, decide_eq_true_eq, decide_eq_true_eq]
  rfl

theorem repliesTo_managed (f : Instr) (h : MgmtHeader) (managed : managedHeader f = some h) : repliesTo f = true := by
  cases f <;> cases managed <;> rfl

theorem isCheck_iff (f : Instr) : isCheck f = true ↔ ∃ l m, f = .check l m := by
  cases f <;> simp [isCheck]

/-- A frame of a kind that may call for a reply. -/
theorem repliesTo_of (f : Instr) (h : (∃ h : MgmtHeader, managedHeader f = some h) ∨ (∃ l m, f = .announce l m) ∨
    (∃ l m, f = .check l m) ∨ (∃ l n, f = .frameRejected l (.undecodable (some n)))) : repliesTo f = true := by
  rcases h with ⟨h, managed⟩ | ⟨_, _, rfl⟩ | ⟨_, _, rfl⟩ | ⟨_, _, rfl⟩
  · exact repliesTo_managed f h managed
  all_goals rfl

theorem not_repliesTo_of (f : Instr) (h : (∃ l g, f = .drop l g) ∨ (∃ l g n, f = .revokeAck l g n) ∨
    (∃ l, f = .flushAck l) ∨ (∃ l n v, f = .memData l n v) ∨ (∃ l n, f = .memDone l n) ∨
    (∃ l, f = .frameRejected l .frameCheck) ∨ (∃ l, f = .frameRejected l (.undecodable none)) ∨
    (∃ l a, f = .frameRejected l (.misplaced a))) : repliesTo f = false := by
  rcases h with ⟨_, _, rfl⟩ | ⟨_, _, _, rfl⟩ | ⟨_, rfl⟩ | ⟨_, _, _, rfl⟩ | ⟨_, _, rfl⟩ | ⟨_, rfl⟩ | ⟨_, rfl⟩ | ⟨_, _, rfl⟩
  all_goals rfl

theorem messageKinds (m : OutMsg) :
    (m.isReply = true ↔ (∃ r n, m = .announceReply r n) ∨ (∃ n r, m = .refuse n r) ∨
      (∃ r, m = .commandReply r) ∨ (∃ n o, m = .controlReply n o) ∨ (∃ n p o v, m = .cfgData n p o v) ∨
      (∃ n q o v rs, m = .logData n q o v rs) ∨ ∃ n d, m = .tagData n d) ∧
    (m.isVerdict = true ↔ ∃ v, m = .verdict v) ∧
    (m.isNotify = true ↔ ∃ a b c, m = .notify a b c) ∧
    (m.isAnnounceReply = true ↔ ∃ r n, m = .announceReply r n) := by
  cases m <;> simp [OutMsg.isReply, OutMsg.isVerdict, OutMsg.isNotify, OutMsg.isAnnounceReply]

/-! ### Delivery (R181, R184) -/

/-- A frame that the link holds, as the whole state. -/
theorem deliver_held (s : State) (l : LinkId) (frame : Instr) (take : State → State)
    (session : (s.link l).state.inSession = true) (waits : s.mustHold l frame = true ∨ (s.link l).held ≠ []) :
    s.deliver l frame take = s.setLink l { s.link l with held := (s.link l).held ++ [frame] } :=
  deliver_holds s l frame take session waits

/-- The counting of a frame that the state of its link does not take. -/
theorem serves_session (s : State) (l : LinkId) (h : s.Serves l) : (s.link l).state ≠ .announcing ∧
    (s.link l).state.inSession = true := by
  rcases h with h | h | h <;> simp [h, LinkState.inSession]

/-! ### Management messages -/

theorem takeManaged_announcing (s : State) (h : MgmtHeader) (f : State → State)
    (state : (s.link h.link).state = .announcing) : s.takeManaged h f = s.countError h.link .malformed := by
  unfold State.takeManaged
  simp only [state]

/-- The tests of a management message on a link that serves. -/
theorem takeManaged_serves (s : State) (h : MgmtHeader) (f : State → State) (serves : s.Serves h.link) :
    s.takeManaged h f =
      if 15 < h.tag then s.refuseTag h.link .management h.tag .malformed
      else if s.tagOutstanding h.link h.tag then s.refuseTag h.link .management h.tag .overLimit
      else if s.isActive h.link then
        match s.authority h with
        | (t, true) => f t
        | (t, false) => t
      else s.refuse h.link .management h.tag .notAdmitted := by
  unfold State.takeManaged
  rcases serves with state | state | state <;> simp only [state] <;> rfl

theorem takeManaged_refused (s : State) (h : MgmtHeader) (f : State → State)
    (active : (s.link h.link).state = .active) (tag : h.tag ≤ 15) (free : s.tagOutstanding h.link h.tag = false)
    (no : (s.authority h).2 = false) : s.takeManaged h f = (s.authority h).1 := by
  rw [takeManaged_serves s h f (Or.inr (Or.inl active)), if_neg (Nat.not_lt.mpr tag),
    if_neg (by rw [free]; exact Bool.false_ne_true), if_pos ((isActive_iff s h.link).mpr active)]
  generalize s.authority h = p at *
  obtain ⟨t, b⟩ := p
  dsimp only at no
  subst no
  rfl

theorem tagOutstanding_iff (s : State) (l : LinkId) (n : Nat) : s.tagOutstanding l n = true ↔
    (∃ e ∈ s.directQueue, e.link = l ∧ e.tag = n ∧ e.inSession = true) ∨
      ∃ r ∈ s.store.softQueue, r.link = l ∧ r.tag = n := by
  unfold State.tagOutstanding
  simp only [Bool.or_eq_true, List.any_eq_true, Bool.and_eq_true, beq_iff_eq, and_assoc]

theorem tagOpen_iff (s : State) (l : LinkId) (n : Nat) :
    s.tagOpen l n = true ↔ ∃ e ∈ s.openChecks, e.link = l ∧ e.tag = n := by
  unfold State.tagOpen
  simp only [List.any_eq_true, Bool.and_eq_true, beq_iff_eq]

/-! ### The authority test (R40, R41, R43) -/

/-- The watched match report of an authority test that element `n` decided. -/
def State.authorityReport (s : State) (h : MgmtHeader) (n : Nat) : WatchReport :=
  { element := n, message := .management, link := h.link, source := h.source
    domain := (s.active.classify h.link h.source).result.domain?, placement := .none }

/-- The part after the watched match report of an authority test. -/
def State.authorityWatched (s : State) (h : MgmtHeader) : State :=
  match (s.active.classify h.link h.source).watched with
  | none => s
  | some n => s.writeWatch (s.authorityReport h n)

/-- The answer of an authority test that fails. -/
def State.authorityRefused (s : State) (h : MgmtHeader) (d : Option DomainNo) (a : AuthDetail) : State × Bool :=
  (((s.authorityWatched h).hand h.link (.refuse { kind := .management, tag := h.tag } .notPlatform)).storeEvent
    { time := s.timeBase, kind := .authRefused, link := some h.link, granule := none, domain := d
      detail := .auth a }, false)

theorem authorityWatched_time (s : State) (h : MgmtHeader) : (s.authorityWatched h).timeBase = s.timeBase := by
  unfold State.authorityWatched
  split
  · rfl
  · rw [writeWatch_whole]

theorem authority_tested (s : State) (h : MgmtHeader) (tested : ¬ (s.mode = .startup ∧ h.link = s.leadLink)) :
    s.authority h = match (s.active.classify h.link h.source).result with
      | .domain d => if d = 0 then (s.authorityWatched h, true) else s.authorityRefused h (some d) .tenant
      | .block => s.authorityRefused h none .blocked
      | .unclassified => s.authorityRefused h none .unclassified := by
  have refused (d : Option DomainNo) (a : AuthDetail) : (((s.authorityWatched h).refuse h.link .management h.tag
      .notPlatform).report .authRefused (some h.link) none d (.auth a), false) = s.authorityRefused h d a := by
    unfold State.authorityRefused
    rw [← authorityWatched_time s h]
    rfl
  simp only [← refused]
  unfold State.authority
  rw [if_neg tested]
  rfl

/-! ### CHECK and the answers of an agent -/

theorem takeCheck_serves (s : State) (l : LinkId) (m : CheckMsg) (serves : s.Serves l) : s.takeCheck l m =
    if s.maxOpen l ≤ m.tag then s.refuseTag l .check m.tag .overLimit
    else if s.tagOpen l m.tag then s.refuseTag l .check m.tag .malformed
    else s.openCheck (s.checkEntry l m) := by
  unfold State.takeCheck
  rcases serves with state | state | state <;> simp only [state]

theorem takeCheck_announcing (s : State) (l : LinkId) (m : CheckMsg) (state : (s.link l).state = .announcing) :
    s.takeCheck l m = s.countError l .malformed := by
  unfold State.takeCheck
  simp only [state]

theorem takeAnnounce_serves (s : State) (l : LinkId) (m : AnnounceMsg) (serves : s.Serves l) :
    s.takeAnnounce l m = s.countError l .malformed := by
  unfold State.takeAnnounce
  rcases serves with state | state | state <;> simp only [state]

/-- The frames of an agent that call for no reply. -/
def isAgentFrame (l : LinkId) (c : Instr) : Prop :=
  (∃ g : Nat, c = .drop l g) ∨ (∃ (g : Nat) (n : Half), c = .revokeAck l g n) ∨ c = .flushAck l ∨
    (∃ (g : Byte) (v : Vector Byte 32), c = .memData l g v) ∨ (∃ g : Byte, c = .memDone l g)

theorem agentFrame_link (l : LinkId) (c : Instr) (h : isAgentFrame l c) : frameLink c = some l := by
  rcases h with ⟨_, rfl⟩ | ⟨_, _, rfl⟩ | rfl | ⟨_, _, rfl⟩ | ⟨_, rfl⟩ <;> rfl

theorem agentFrame_free (s : State) (l : LinkId) (c : Instr) (h : isAgentFrame l c) : s.mustHold l c = false := by
  rcases h with ⟨_, rfl⟩ | ⟨_, _, rfl⟩ | rfl | ⟨_, _, rfl⟩ | ⟨_, rfl⟩ <;> rfl

theorem takeFrame_announcing (s : State) (l : LinkId) (c : Instr) (h : isAgentFrame l c)
    (state : (s.link l).state = .announcing) : s.takeFrame c = s.countError l .malformed := by
  rcases h with ⟨g, rfl⟩ | ⟨g, n, rfl⟩ | rfl | ⟨g, v, rfl⟩ | ⟨g, rfl⟩
  · show s.takeDrop l g = _
    unfold State.takeDrop
    simp only [state]
  · show s.takeRevokeAck l g n = _
    unfold State.takeRevokeAck
    simp only [state]
  · show s.takeFlushAck l = _
    unfold State.takeFlushAck
    simp only [state]
  · show s.takeMemData l g v = _
    unfold State.takeMemData
    simp only [state]
  · show s.takeMemDone l g = _
    unfold State.takeMemDone
    simp only [state]

theorem exec_frame_outside (c : Instr) (l : LinkId) (s : State) (frame : frameLink c = some l)
    (out : (s.link l).state.inSession = false) : exec c s = .next s := by
  rw [exec_frame c l s frame, deliver_outside s l c _ out]

theorem exec_frame_held (c : Instr) (l : LinkId) (s : State) (frame : frameLink c = some l)
    (session : (s.link l).state.inSession = true) (waits : s.mustHold l c = true ∨ (s.link l).held ≠ []) :
    exec c s = .next (s.setLink l { s.link l with held := (s.link l).held ++ [c] }) := by
  rw [exec_frame c l s frame, deliver_held s l c _ session waits]

theorem announcing_session (s : State) (l : LinkId) (state : (s.link l).state = .announcing) :
    (s.link l).state.inSession = true := by rw [state]; rfl

/-- The stages of a management message up to its meaning. -/
theorem managedStages (s : State) (h : MgmtHeader) (c : Instr) (managed : managedHeader c = some h) :
    let refused (r : RefuseReason) : State := s.hand h.link (.refuse { kind := .management, tag := h.tag } r)
    ((s.link h.link).state.inSession = false → exec c s = .next s) ∧
    ((s.link h.link).state.inSession = true →
      (s.link h.link).held ≠ [] ∨ 32 ≤ s.replyPlacesUsed h.link →
      exec c s = .next (s.setLink h.link { s.link h.link with held := (s.link h.link).held ++ [c] })) ∧
    (s.Takes h.link c →
      ((s.link h.link).state = .announcing →
        exec c s = .next (s.countError h.link .malformed).closeEvent) ∧
      (s.Serves h.link → 15 < h.tag →
        exec c s = .next ((refused .malformed).countError h.link .malformed).closeEvent) ∧
      (s.Serves h.link → h.tag ≤ 15 → s.tagOutstanding h.link h.tag = true →
        exec c s = .next ((refused .overLimit).countError h.link .malformed).closeEvent) ∧
      ((s.link h.link).state = .admitWait ∨ (s.link h.link).state = .held → h.tag ≤ 15 →
        s.tagOutstanding h.link h.tag = false → exec c s = .next (refused .notAdmitted).closeEvent) ∧
      ((s.link h.link).state = .active → h.tag ≤ 15 → s.tagOutstanding h.link h.tag = false →
        (s.authority h).2 = false → exec c s = .next (s.authority h).1.closeEvent)) := by
  intro refused
  have frame := frameLink_managed c h managed
  obtain ⟨f, meaning⟩ := exec_managed c h managed
  refine ⟨exec_frame_outside c h.link s frame, fun session waits => ?_, fun takes => ?_⟩
  · refine exec_frame_held c h.link s frame session (waits.symm.imp_left fun places => ?_)
    exact (mustHold_iff s h.link c).mpr (Or.inl ⟨repliesTo_managed c h managed, places⟩)
  · have event : exec c s = .next (s.takeManaged h f).closeEvent := by
      rw [meaning s, deliver_takes s h.link c _ takes]
    refine ⟨fun state => ?_, fun serves tag => ?_, fun serves tag busy => ?_, fun waiting tag free => ?_,
      fun active tag free no => ?_⟩
    · rw [event, takeManaged_announcing s h f state]
    · rw [event, takeManaged_serves s h f serves, if_pos tag]
      rfl
    · rw [event, takeManaged_serves s h f serves, if_neg (Nat.not_lt.mpr tag), if_pos busy]
      rfl
    · have inactive : ¬ s.isActive h.link = true := by
        rw [isActive_iff]
        rcases waiting with state | state <;> simp [state]
      rw [event, takeManaged_serves s h f (waiting.imp_right Or.inr), if_neg (Nat.not_lt.mpr tag),
        if_neg (by rw [free]; exact Bool.false_ne_true), if_neg inactive]
      rfl
    · rw [event, takeManaged_refused s h f active tag free no]

/-- The stages of a CHECK up to its meaning. -/
theorem checkStages (s : State) (l : LinkId) (m : CheckMsg) :
    let refused (r : RefuseReason) : State := s.hand l (.refuse { kind := .check, tag := m.tag } r)
    ((s.link l).state.inSession = false → exec (.check l m) s = .next s) ∧
    ((s.link l).state.inSession = true →
      (s.link l).held ≠ [] ∨ 32 ≤ s.replyPlacesUsed l ∨ 64 ≤ s.verdictPlacesUsed l →
      exec (.check l m) s =
        .next (s.setLink l { s.link l with held := (s.link l).held ++ [.check l m] })) ∧
    (s.Takes l (.check l m) →
      ((s.link l).state = .announcing →
        exec (.check l m) s = .next (s.countError l .malformed).closeEvent) ∧
      (s.Serves l → s.maxOpen l ≤ m.tag →
        exec (.check l m) s = .next ((refused .overLimit).countError l .malformed).closeEvent) ∧
      (s.Serves l → m.tag < s.maxOpen l → s.tagOpen l m.tag = true →
        exec (.check l m) s = .next ((refused .malformed).countError l .malformed).closeEvent)) := by
  intro refused
  refine ⟨exec_frame_outside (.check l m) l s rfl, fun session waits => ?_, fun takes => ?_⟩
  · refine exec_frame_held (.check l m) l s rfl session (waits.symm.imp_left fun places => ?_)
    exact (mustHold_iff s l _).mpr (places.imp (fun h => ⟨rfl, h⟩) fun h => ⟨rfl, h⟩)
  · have event := exec_takes s l (.check l m) rfl takes
    have taken : s.takeFrame (.check l m) = s.takeCheck l m := rfl
    refine ⟨fun state => ?_, fun serves limit => ?_, fun serves below busy => ?_⟩
    · rw [event, taken, takeCheck_announcing s l m state]
    · rw [event, taken, takeCheck_serves s l m serves, if_pos limit]
      rfl
    · rw [event, taken, takeCheck_serves s l m serves, if_neg (Nat.not_le.mpr below), if_pos busy]
      rfl

theorem domain?_or_none (c : ClassResult) : (match c with
    | .domain d => some d
    | _ => none) = c.domain? := by
  cases c <;> rfl

/-- Settles O12: each stage is one test of the delivery or of the taking of the frame. -/
theorem frameStages : Obligations.FrameStages := by
  unfold Obligations.FrameStages
  refine ⟨inSession_iff, fun s l => ⟨replyPlacesUsed_eq s l, verdictPlacesUsed_eq s l, mustHold_iff s l⟩,
    fun f => ⟨repliesTo_of f, not_repliesTo_of f, isCheck_iff f⟩, messageKinds, managedStages,
    fun s l n => ⟨tagOutstanding_iff s l n, tagOpen_iff s l n, ?_⟩, fun s h => ?_, checkStages,
    fun s l c agent => ⟨exec_frame_outside c l s (agentFrame_link l c agent), fun session held =>
      exec_frame_held c l s (agentFrame_link l c agent) session (Or.inr held), fun state held => ?_⟩,
    fun s l m => ⟨exec_frame_outside (.announce l m) l s rfl, fun session waits => ?_, fun takes serves => ?_⟩⟩
  · unfold State.maxOpen
    cases (s.link l).announced <;> rfl
  · intro c report w refused
    have reports (n : Nat) : report n = s.authorityReport h n :=
      congrArg (fun d : Option DomainNo => ({ element := n, message := .management, link := h.link
                                              source := h.source, domain := d, placement := .none } : WatchReport))
        (domain?_or_none (s.active.classify h.link h.source).result)
    have watched : w = s.authorityWatched h := by
      unfold State.authorityWatched
      show (match (s.active.classify h.link h.source).watched with | none => _ | some n => _ : State) = _
      cases (s.active.classify h.link h.source).watched with
      | none => rfl
      | some n => exact congrArg (fun r => State.raise { s with watchReport := some r } .watchHit) (reports n)
    have refusal : refused = s.authorityRefused h := by
      funext d a
      exact congrArg (fun x : State => ((x.hand h.link (.refuse { kind := .management, tag := h.tag }
        .notPlatform)).storeEvent { time := s.timeBase, kind := .authRefused, link := some h.link, granule := none
                                    domain := d, detail := .auth a }, false)) watched
    have test := authority_tested s h
    have result : c = s.active.classify h.link h.source := rfl
    clear_value refused w c
    subst watched refusal result
    refine ⟨fun startup lead => ?_, fun tested => ?_⟩
    · unfold State.authority
      exact if_pos ⟨startup, lead⟩
    · have test := test (by rcases tested with m | l <;> simp [*])
      refine ⟨fun r => ?_, fun d r other => ?_, fun r => ?_, fun r => ?_⟩
      · rw [test, r]
        exact if_pos rfl
      · rw [test, r]
        exact if_neg other
      · rw [test, r]
      · rw [test, r]
  · have takes : s.Takes l c := ⟨announcing_session s l state, held, agentFrame_free s l c agent⟩
    rw [exec_takes s l c (agentFrame_link l c agent) takes, takeFrame_announcing s l c agent state]
  · refine exec_frame_held (.announce l m) l s rfl session (waits.symm.imp_left fun places => ?_)
    exact (mustHold_iff s l _).mpr (Or.inl ⟨rfl, places⟩)
  · have taken : s.takeFrame (.announce l m) = s.takeAnnounce l m := rfl
    rw [exec_takes s l (.announce l m) rfl takes, taken, takeAnnounce_serves s l m serves]

end Sys2Proof.Machine
end

section
/-! SUPPORT. A fault of a link: the records that its event stores, what it leaves of the link, and the error counters
that fault it (R161, R173, R180, R185). -/

namespace Sys2Proof.Machine

/-! ### Event records that an operation stores -/

/-- At most `n` event records are appended to Q1 when it has room for `n`; its size does not change. -/
def State.Files (n : Nat) (s t : State) : Prop :=
  t.reports.q1.size = s.reports.q1.size ∧ (s.reports.q1.fill + n ≤ s.reports.q1.size →
    ∃ rs : List EventRecord, rs.length ≤ n ∧ t.reports.q1.records = s.reports.q1.records ++ rs)

theorem files_of_q1 {s t : State} (n : Nat) (h : t.reports.q1 = s.reports.q1) : State.Files n s t :=
  ⟨by rw [h], fun _ => ⟨[], Nat.zero_le n, by rw [h, List.append_nil]⟩⟩

theorem State.Files.trans {m n : Nat} {s t u : State} (a : State.Files m s t) (b : State.Files n t u) :
    State.Files (m + n) s u := by
  obtain ⟨size, first⟩ := a
  obtain ⟨same, second⟩ := b
  refine ⟨same.trans size, fun room => ?_⟩
  obtain ⟨rs, few, records⟩ := first (by omega)
  have fill : t.reports.q1.fill = s.reports.q1.fill + rs.length := by
    unfold ReportQueue.fill
    rw [records, List.length_append]
  obtain ⟨qs, less, more⟩ := second (by omega)
  exact ⟨rs ++ qs, by rw [List.length_append]; omega, by rw [more, records, List.append_assoc]⟩

theorem State.Files.weaken {m n : Nat} {s t : State} (a : State.Files m s t) (le : m ≤ n) : State.Files n s t :=
  ⟨a.1, fun room => by
    obtain ⟨rs, few, records⟩ := a.2 (by omega)
    exact ⟨rs, by omega, records⟩⟩

theorem storeEvent_records (s : State) (r : EventRecord) (room : s.reports.q1.fill < s.reports.q1.size) :
    (s.storeEvent r).reports.q1.records = s.reports.q1.records ++ [r] := by
  rw [storeEvent_room s r room]
  split
  · rw [withQ1_raise_q1]
  · rfl

theorem files_storeEvent (s : State) (r : EventRecord) : State.Files 1 s (s.storeEvent r) := by
  refine ⟨?_, fun room => ⟨[r], Nat.le_refl 1, storeEvent_records s r (by omega)⟩⟩
  rw [storeEvent_q1]
  unfold ReportQueue.push
  split
  · rfl
  · split
    · rfl
    · cases s.reports.q1.mode <;> rfl

theorem files_raise (s : State) (st : Status) : State.Files 0 s (s.raise st) := files_of_q1 0 (raise_q1 s st)

theorem files_restChannel (s : State) (c : ChannelId) (st : ChannelState) (x : ChainCause) (o : Nat) :
    State.Files 1 s (s.restChannel c st x o) := by
  have rests : State.Files 0 s ((s.updChan c fun k => k.atRest st x o).raise (chainEnd c)) :=
    files_of_q1 0 (raise_q1 _ _)
  unfold State.restChannel
  dsimp only
  split
  · exact rests.trans (files_storeEvent _ _)
  · exact rests.weaken (by omega)

theorem files_blockFailure (s : State) (c : ChannelId) (b : Block) : State.Files 1 s (s.blockFailure c b) := by
  unfold State.blockFailure
  split
  · exact files_storeEvent s _
  · exact files_of_q1 1 rfl

/-- A channel in EXECUTING that its link left behind stores what it stores at its end. -/
theorem files_settleChannel_lost (s : State) (c : ChannelId) (lost : (s.chan c).linkLost = true) :
    State.Files 2 s (s.settleChannel c) := by
  by_cases executing : (s.chan c).state = .executing
  · by_cases free : (s.chan c).inFence = 0
    · cases held : (s.chan c).block with
      | none =>
        unfold State.settleChannel
        simp only [executing, held]
        exact files_of_q1 2 rfl
      | some b =>
        rw [settleChannel_held s c b executing held free, if_pos lost, if_pos lost]
        split
        · exact (files_blockFailure s c b).trans (files_restChannel _ c _ _ _)
        · exact (files_restChannel s c _ _ _).weaken (by omega)
    · rw [settleChannel_busy s c free]
      exact files_of_q1 2 rfl
  · rw [settleChannel_elsewhere s c executing]
    exact files_of_q1 2 rfl

theorem files_chainLinkLost (s : State) (c : ChannelId) : State.Files 2 s (s.chainLinkLost c) := by
  unfold State.chainLinkLost
  dsimp only
  split
  · exact files_of_q1 2 rfl
  · exact (files_restChannel s c _ _ _).weaken (by omega)
  · exact (files_restChannel s c _ _ _).weaken (by omega)
  · exact (files_restChannel s c _ _ _).weaken (by omega)
  · exact files_settleChannel_lost (s.updChan c fun k => { k with linkLost := true }) c
      (by rw [State.chan_updChan_same])

theorem files_chainStep (s : State) (l : LinkId) (c : ChannelId) : State.Files 2 s (s.chainStep l c) := by
  unfold State.chainStep
  split
  · exact files_chainLinkLost s c
  · exact files_of_q1 2 rfl

/-- The loss of a link stores two records at most for each channel. -/
theorem files_linkLeaves (s : State) (l : LinkId) (kept : List OutMsg) : State.Files 4 s (s.linkLeaves l kept) := by
  obtain ⟨u, whole, -, -, leaves⟩ := linkLeaves_eq s l kept
  dsimp only at leaves
  have start : State.Files 0 s u := files_of_q1 0 (by rw [whole])
  have chains : State.Files 4 u (u.chainsLinkLost l) :=
    (files_chainStep u l 0).trans (files_chainStep (u.chainStep l 0) l 1)
  rw [leaves]
  exact start.trans (chains.trans (files_of_q1 0 rfl))

/-! ### A fault (R180) -/

/-- A link that goes to FAULTED. -/
def Link.faulted (k : Link) (cause : FaultCause) : Link := { k with state := .faulted, lastFault := some cause }

/-- The record of a fault. -/
def State.faultRecord (s : State) (l : LinkId) (cause : FaultCause) (counter : Option CounterType)
    (granule : Option Nat) : EventRecord :=
  { time := s.timeBase, kind := .linkFault, link := some l, granule := granule, domain := none
    detail := .fault cause counter }

/-- The part after a faulted link left its session, before its record. -/
def State.faultLeft (s : State) (l : LinkId) (cause : FaultCause) : State :=
  (s.updLink l fun k => k.faulted cause).linkLeaves l []

theorem faultCore_session (s : State) (l : LinkId) (cause : FaultCause) (counter : Option CounterType)
    (granule : Option Nat) (session : (s.link l).state.inSession = true) : s.faultCore l cause counter granule =
      ((s.faultLeft l cause).storeEvent (s.faultRecord l cause counter granule)).raise .linkEvent :=
  (faultCore_eq s l cause counter granule).2 session

theorem faultCore_outside (s : State) (l : LinkId) (cause : FaultCause) (counter : Option CounterType)
    (granule : Option Nat) (out : (s.link l).state.inSession = false) : s.faultCore l cause counter granule = s :=
  (faultCore_eq s l cause counter granule).1 out

theorem faultCore_cleared (s : State) (l : LinkId) (cause : FaultCause) (counter : Option CounterType)
    (granule : Option Nat) (session : (s.link l).state.inSession = true) :
    s.Cleared (s.faultCore l cause counter granule) l := by
  rw [faultCore_session s l cause counter granule session]
  have left : s.Cleared (s.faultLeft l cause) l := (linkLeaves_cleared _ l []).before
  have told := left.reports (onlyReports_storeEvent _ (s.faultRecord l cause counter granule))
    ((State.LinksSend.of_eq (storeEvent_links _ _)).others l)
  exact told.reports (onlyReports_raise _ .linkEvent) ((State.LinksSend.of_eq (raise_links _ _)).others l)

theorem faultCore_own (s : State) (l : LinkId) (cause : FaultCause) (counter : Option CounterType)
    (granule : Option Nat) (session : (s.link l).state.inSession = true) :
    (s.faultCore l cause counter granule).link l = { s.link l with
      state := .faulted, lastFault := some cause, outbound := [], held := []
      announceTimer := none, flushOutstanding := false, flushTimer := none } := by
  have leaves := linkLeaves_link (s.updLink l fun k => k.faulted cause) l []
  rw [State.link_updLink_same] at leaves
  rw [faultCore_session s l cause counter granule session]
  unfold State.link
  rw [raise_links, storeEvent_links]
  exact leaves

theorem faultCore_has (s : State) (l : LinkId) (cause : FaultCause) (counter : Option CounterType)
    (granule : Option Nat) (session : (s.link l).state.inSession = true) :
    StatusSet.has (s.faultCore l cause counter granule).reports.status .linkEvent = true := by
  rw [faultCore_session s l cause counter granule session]
  exact raise_has _ _

theorem files_faultLeft (s : State) (l : LinkId) (cause : FaultCause) : State.Files 4 s (s.faultLeft l cause) :=
  State.Files.trans (m := 0) (files_of_q1 0 rfl) (files_linkLeaves (s.updLink l fun k => k.faulted cause) l [])

/-- The record of a fault is the newest of Q1, behind those of the loss. -/
theorem faultCore_records (s : State) (l : LinkId) (cause : FaultCause) (counter : Option CounterType)
    (granule : Option Nat) (session : (s.link l).state.inSession = true)
    (room : s.reports.q1.fill + 4 < s.reports.q1.size) : ∃ rs : List EventRecord, rs.length ≤ 4 ∧
      (s.faultCore l cause counter granule).reports.q1.records =
        s.reports.q1.records ++ rs ++ [s.faultRecord l cause counter granule] := by
  obtain ⟨size, stores⟩ := files_faultLeft s l cause
  obtain ⟨rs, few, records⟩ := stores (by omega)
  have fill : (s.faultLeft l cause).reports.q1.fill = s.reports.q1.fill + rs.length := by
    unfold ReportQueue.fill
    rw [records, List.length_append]
  refine ⟨rs, few, ?_⟩
  rw [faultCore_session s l cause counter granule session, raise_q1, storeEvent_records _ _ (by omega), records]

theorem files_faultCore (s : State) (l : LinkId) (cause : FaultCause) (counter : Option CounterType)
    (granule : Option Nat) : State.Files 5 s (s.faultCore l cause counter granule) := by
  by_cases session : (s.link l).state.inSession = true
  · rw [faultCore_session s l cause counter granule session]
    exact ((files_faultLeft s l cause).trans (files_storeEvent _ _)).trans (files_raise _ _)
  · rw [faultCore_outside s l cause counter granule (Bool.not_eq_true _ ▸ session)]
    exact files_of_q1 5 rfl

theorem completeDrains_q1 (s : State) : s.completeDrains.reports = s.reports := rfl

theorem settle_q1 (s : State) : s.settle.reports.q1 = s.reports.q1 := by
  rw [settle_eq]

theorem settle_has_of (s : State) (st : Status) (h : StatusSet.has s.reports.status st = true) :
    StatusSet.has s.settle.reports.status st = true := by
  unfold State.settle State.completeCommit
  split
  · exact raise_has_of _ _ st h
  · exact h

/-- The event of a fault, with what it completes. -/
def State.faultEvent (s : State) (l : LinkId) (cause : FaultCause) (counter : Option CounterType) : State :=
  ((s.faultCore l cause counter none).settle).closeEvent

/-- What the event of a fault leaves. -/
theorem faultEvent_effect (s : State) (l : LinkId) (cause : FaultCause) (counter : Option CounterType)
    (session : (s.link l).state.inSession = true) :
    let t := s.faultEvent l cause counter
    s.Cleared t l ∧ t.link l = { s.link l with
      state := .faulted, lastFault := some cause, outbound := [], held := []
      announceTimer := none, flushOutstanding := false, flushTimer := none } ∧
    StatusSet.has t.reports.status .linkEvent = true ∧
    (s.reports.q1.fill + 4 < s.reports.q1.size → t.reports.q1.records.getLast? = some
      { time := s.timeBase, kind := .linkFault, link := some l, granule := none, domain := none
        detail := .fault cause counter }) ∧ s.Settles t := by
  have own := faultCore_own s l cause counter none session
  refine ⟨(faultCore_cleared s l cause counter none session).settle.closeEvent, ?_, ?_, fun room => ?_,
    settles_of_drainsWait (drainsWait_faultCore s l cause counter none)⟩
  · unfold State.faultEvent
    rw [settled_link_idle _ l (by rw [own]; exact LinkState.noConfusion), own]
  · unfold State.faultEvent
    rw [(closeEvent_parts _).2.2.2.1]
    exact settle_has_of _ _ (faultCore_has s l cause counter none session)
  · obtain ⟨rs, -, records⟩ := faultCore_records s l cause counter none session room
    have queue : (s.faultEvent l cause counter).reports.q1 = (s.faultCore l cause counter none).reports.q1 := by
      unfold State.faultEvent
      rw [closeEvent_eq]
      exact settle_q1 _
    rw [queue, records, List.getLast?_append]
    rfl

end Sys2Proof.Machine
end

section
/-! SUPPORT. The error counters and the rejected frames that advance them (R181, stages 1 to 3, R185, R186). -/

namespace Sys2Proof.Machine

/-! ### The advance of a counter (R185) -/

/-- The value of a counter after its advance. -/
def Link.counterAdvanced (k : Link) (ty : CounterType) : Nat :=
  counterNext (k.errorMode.getLsbD (counterBit ty)) (k.counters.get ty).value

/-- The advance reaches the threshold. -/
def State.reaches (s : State) (l : LinkId) (ty : CounterType) : Bool :=
  decide ((s.link l).counterAdvanced ty ≠ ((s.link l).counters.get ty).value ∧
    (s.link l).counterAdvanced ty = s.errorThreshold)

/-- The part after a counter advanced. -/
def State.counted (s : State) (l : LinkId) (ty : CounterType) : State :=
  s.setLink l { s.link l with counters := ((s.link l).counters.set ty
    { value := (s.link l).counterAdvanced ty, reached := s.reaches l ty || ((s.link l).counters.get ty).reached }) }

theorem countError_eq (s : State) (l : LinkId) (ty : CounterType) : s.countError l ty =
    if s.reaches l ty = true then
      if (s.link l).faultMask.getLsbD (counterBit ty) then
        ((s.counted l ty).raise .linkEvent).faultLink l .threshold (some ty)
      else (s.counted l ty).raise .linkEvent
    else s.counted l ty := by
  unfold State.countError State.counted State.reaches
  simp only [decide_eq_true_eq]
  rfl

theorem countError_short (s : State) (l : LinkId) (ty : CounterType) (short : s.reaches l ty = false) :
    s.countError l ty = s.counted l ty := by
  rw [countError_eq, if_neg (by rw [short]; exact Bool.false_ne_true)]

theorem countError_reaches (s : State) (l : LinkId) (ty : CounterType) (reach : s.reaches l ty = true)
    (masked : (s.link l).faultMask.getLsbD (counterBit ty) = false) :
    s.countError l ty = (s.counted l ty).raise .linkEvent := by
  rw [countError_eq, if_pos reach, if_neg (by rw [masked]; exact Bool.false_ne_true)]

theorem countError_faults (s : State) (l : LinkId) (ty : CounterType) (reach : s.reaches l ty = true)
    (faults : (s.link l).faultMask.getLsbD (counterBit ty) = true) : s.countError l ty =
      (((s.counted l ty).raise .linkEvent).faultCore l .threshold (some ty) none).settle := by
  rw [countError_eq, if_pos reach, if_pos faults]
  rfl

theorem counterNext_eq (wrap : Bool) (n : Nat) :
    counterNext wrap n = if n < 255 then n + 1 else if wrap then 0 else n := rfl

/-! ### Rejected frames -/

theorem exec_rejected (s : State) (l : LinkId) (why : FrameFault) (takes : s.Takes l (.frameRejected l why)) :
    exec (.frameRejected l why) s = .next (s.takeRejected l why).closeEvent :=
  exec_takes s l (.frameRejected l why) rfl takes

theorem undecodable_eq (s : State) (l : LinkId) (tag : Option TagName) : s.takeRejected l (.undecodable tag) =
    (s.setLink l { s.link l with
      outbound := (s.link l).outbound ++ (match tag with
        | some t => [.refuse { kind := t.kind, tag := t.tag } .malformed]
        | none => []) }).countError l .malformed := by
  cases tag with
  | some t => rfl
  | none =>
    have same : s.setLink l { s.link l with outbound := (s.link l).outbound ++ [] } = s := by
      rw [List.append_nil]
      exact setHeld_self s l
    exact congrArg (fun u : State => u.countError l .malformed) same.symm

/-- A fault is not affected by what the Report Unit held. -/
theorem State.Cleared.after {s t u : State} {l : LinkId} (o : s.OnlyReports t) (links : t.links = s.links)
    (a : t.Cleared u l) : s.Cleared u l := by
  have loss := o.loss.trans a.1
  unfold State.OnlyReports at o
  rw [links] at o
  generalize hq : t.reports = q at o
  rw [o] at a
  obtain ⟨-, a2⟩ := a
  exact ⟨loss, a2⟩

theorem exec_rejected_outside (s : State) (l : LinkId) (why : FrameFault)
    (state : (s.link l).state = .down ∨ (s.link l).state = .training ∨ (s.link l).state = .faulted ∨
      (s.link l).state = .refused) : exec (.frameRejected l why) s = .next s := by
  refine exec_frame_outside (.frameRejected l why) l s rfl ?_
  rcases state with h | h | h | h <;> simp [h, LinkState.inSession]

theorem rejects_session (s : State) (l : LinkId) (h : s.Serves l ∨ (s.link l).state = .announcing) :
    (s.link l).state.inSession = true :=
  h.elim (fun serves => (serves_session s l serves).2) (announcing_session s l)

/-- A FRAME_CHECK counter that reaches a threshold that faults its link. -/
theorem frameCheck_faults (s : State) (l : LinkId) (session : (s.link l).state.inSession = true) :
    let t := s.counted l .frameCheck
    let u := (((t.raise .linkEvent).faultCore l .threshold (some .frameCheck) none).settle).closeEvent
    t.Cleared u l ∧
      u.link l = { t.link l with
        state := .faulted, lastFault := some .threshold, outbound := [], held := []
        announceTimer := none, flushOutstanding := false, flushTimer := none } ∧
      StatusSet.has u.reports.status .linkEvent = true ∧
      (s.reports.q1.fill + 4 < s.reports.q1.size → u.reports.q1.records.getLast? = some
        { time := s.timeBase, kind := .linkFault, link := some l, granule := none, domain := none
          detail := .fault .threshold (some .frameCheck) }) ∧ t.Settles u := by
  intro t u
  have link : (t.raise .linkEvent).link l = t.link l := by
    unfold State.link
    rw [raise_links]
  have inside : ((t.raise .linkEvent).link l).state.inSession = true := by
    rw [link]
    show ((s.setLink l _).link l).state.inSession = true
    rw [State.link_setLink_same]
    exact session
  obtain ⟨cleared, own, has, last, -⟩ := faultEvent_effect (t.raise .linkEvent) l .threshold (some .frameCheck) inside
  have q1 : (t.raise .linkEvent).reports.q1 = s.reports.q1 := raise_q1 t .linkEvent
  have time : (t.raise .linkEvent).timeBase = s.timeBase := raise_timeBase t .linkEvent
  rw [link] at own
  rw [q1, time] at last
  exact ⟨cleared.after (onlyReports_raise t .linkEvent) (raise_links t .linkEvent), own, has, last,
    settles_of_drainsWait ((drainsWait_onlyReports (onlyReports_raise t .linkEvent)).trans
      (drainsWait_faultCore _ l _ _ _))⟩

/-- Settles O13: the advance of a counter is told once, and each rejected frame is a use of it. -/
theorem rejectedFramesCount : Obligations.RejectedFramesCount := by
  unfold Obligations.RejectedFramesCount
  refine ⟨fun s l why => ⟨exec_rejected_outside s l why, fun state held => ?_, fun state places named => ?_⟩,
    fun s l n takes next => ?_, fun s l ty n => ?_, fun s l takes => exec_rejected s l .frameCheck takes,
    fun s l tag takes => ?_, fun s l tag takes room below => ?_, fun s l isAnnounce takes => ⟨fun counts => ?_,
      fun quiet => ?_⟩⟩
  · exact exec_frame_held (.frameRejected l why) l s rfl (rejects_session s l state) (Or.inr held)
  · obtain ⟨n, rfl⟩ := named
    exact exec_frame_held _ l s rfl (rejects_session s l state)
      (Or.inl ((mustHold_iff s l _).mpr (Or.inl ⟨rfl, places⟩)))
  · have event := exec_rejected s l .frameCheck takes
    have advanced : n = (s.link l).counterAdvanced .frameCheck := next
    subst advanced
    intro old reach t
    have taken : s.takeRejected l .frameCheck = s.countError l .frameCheck := rfl
    have reaches : reach = s.reaches l .frameCheck := rfl
    have start : t = s.counted l .frameCheck := rfl
    clear_value reach t
    subst reaches start
    refine ⟨fun short => ?_, fun reach masked => ?_, fun reach faults => ?_⟩
    · rw [event, taken, countError_short s l _ short]
    · rw [event, taken, countError_reaches s l _ reach masked]
    · have fault := countError_faults s l _ reach faults
      rw [taken, fault] at event
      exact ⟨_, event, frameCheck_faults s l takes.1⟩
  · intro k bit old next reach new t
    have advanced : n = (s.link l).counterAdvanced ty := by
      rw [next]
      cases ty <;> rfl
    have reaches : reach = s.reaches l ty := by
      show decide _ = _
      rw [advanced]
      cases ty <;> rfl
    have start : t = s.counted l ty := by
      show s.setLink l _ = _
      unfold State.counted
      rw [← advanced, ← reaches]
      cases ty <;> rfl
    have which : bit = counterBit ty := by cases ty <;> rfl
    clear_value reach t bit
    subst reaches start which
    exact ⟨countError_short s l ty, countError_reaches s l ty, countError_faults s l ty⟩
  · exact (exec_rejected s l _ takes).trans
      (congrArg (fun t : State => Host.Outcome.next t.closeEvent) (undecodable_eq s l tag))
  · rw [exec_rejected s l _ takes, undecodable_eq]
    have counted := fun os : List OutMsg => countError_counts (s.setLink l { s.link l with outbound := os }) l .malformed
    simp only [State.link_setLink_same] at counted
    rw [counted _ room below, setLink_updLink]
    rfl
  · rw [exec_rejected s l _ takes]
    unfold State.takeRejected
    dsimp only
    rw [if_pos]
    rcases counts with ⟨rfl, state⟩ | ⟨rfl, state | state | state⟩ <;> simp [state, LinkState.misplaces]
  · rw [exec_rejected s l _ takes]
    unfold State.takeRejected
    dsimp only
    rw [if_neg]
    rcases quiet with ⟨rfl, state⟩ | ⟨rfl, state | state | state⟩ <;> simp [state, LinkState.misplaces]

end Sys2Proof.Machine
end

section
/-! SUPPORT. The parameter writes that are commands of their own: STORE_GEOMETRY, ADMISSION, ERROR_COUNTER, the queue
sizes, NOTIFY_ENABLE and the pacer (R10, R149, R166, R169, R178, R179, R186). -/

namespace Sys2Proof.Machine

/-! ### The channels of a link that is lost send nothing -/

theorem restChannel_links (s : State) (c : ChannelId) (st : ChannelState) (x : ChainCause) (o : Nat) :
    (s.restChannel c st x o).links = s.links := by
  have rests : ((s.updChan c fun k => k.atRest st x o).raise (chainEnd c)).links = s.links := raise_links _ _
  unfold State.restChannel
  dsimp only
  split
  · rw [report_links, rests]
  · exact rests

theorem blockFailure_links (s : State) (c : ChannelId) (b : Block) : (s.blockFailure c b).links = s.links := by
  unfold State.blockFailure
  split
  · exact report_links ..
  · rfl

theorem settleChannel_links_lost (s : State) (c : ChannelId) (lost : (s.chan c).linkLost = true) :
    (s.settleChannel c).links = s.links := by
  unfold State.settleChannel
  simp only [lost, if_true]
  split
  · split
    · rfl
    · split
      · rw [restChannel_links, blockFailure_links]
      · exact restChannel_links ..
  · rfl

theorem chainLinkLost_links (s : State) (c : ChannelId) : (s.chainLinkLost c).links = s.links := by
  unfold State.chainLinkLost
  dsimp only
  split
  · rfl
  · exact restChannel_links ..
  · exact restChannel_links ..
  · exact restChannel_links ..
  · rw [settleChannel_links_lost _ c (by rw [State.chan_updChan_same])]
    rfl

theorem chainsLinkLost_links (s : State) (l : LinkId) : (s.chainsLinkLost l).links = s.links := by
  have step (t : State) (c : ChannelId) : (t.chainStep l c).links = t.links := by
    unfold State.chainStep
    split
    · exact chainLinkLost_links t c
    · rfl
  rw [chainsLinkLost_eq, step, step]

/-! ### The answers -/

theorem replyWrite_done (u : State) (h : MgmtHeader) (p : Param) (v : CfgValue) (read : u.readParam p = some v) :
    replyWrite h p (u, .done) = u.hand h.link (.cfgData h.tag p .done (some v)) := by
  unfold replyWrite
  dsimp only
  rw [if_neg CfgOutcome.noConfusion, read]

theorem replyWrite_refused (u : State) (h : MgmtHeader) (p : Param) (r : CfgReason) (v : CfgValue)
    (index : r ≠ .badIndex) (read : u.readParam p = some v) :
    replyWrite h p (u, .refused r) = u.hand h.link (.cfgData h.tag p (.refused r) (some v)) := by
  unfold replyWrite
  dsimp only
  rw [if_neg fun e => index (CfgOutcome.refused.inj e), read]

theorem replyWrite_badIndex (u : State) (h : MgmtHeader) (p : Param) :
    replyWrite h p (u, .refused .badIndex) = u.hand h.link (.cfgData h.tag p (.refused .badIndex) none) := rfl

/-! ### STORE_GEOMETRY (R10) -/

theorem exec_storeGeometry (s t : State) (h : MgmtHeader) (v : Quad) (c : s.Carries h (.storeGeometry h v) t) :
    exec (.storeGeometry h v) s = .next (replyWrite h .storeGeometry (t.writeGeometry v)).closeEvent :=
  congrArg Host.Outcome.next (deliver_carries s t h _ _ c)

theorem windows_beyond (p : PolicyCopy) (n : Nat) : (p.windowList.any fun x => x.2.beyond n) = true ↔
    ∃ i : Fin 16, (p.windows[i]).walks = true ∧ n < (p.windows[i]).tagBase + (p.windows[i]).effSize := by
  simp only [List.any_eq_true, Window.beyond, Bool.and_eq_true, decide_eq_true_eq]
  constructor
  · rintro ⟨⟨n, w⟩, listed, beyond⟩
    obtain ⟨i, -, rfl⟩ := (mem_windowList p n w).mp listed
    exact ⟨i, beyond⟩
  · rintro ⟨i, beyond⟩
    exact ⟨(i.val, p.windows[i]), (mem_windowList p _ _).mpr ⟨i, rfl, rfl⟩, beyond⟩

theorem takeGeometry_domainEntry (s : State) (g : Nat) (d : DomainNo) (ok : s.TablesOk) :
    (s.takeGeometry g).domainEntry d = { s.domainEntry d with owned := min (s.domainEntry d).owned (2 ^ g) } := by
  obtain ⟨-, sorted, -⟩ := ok
  unfold State.domainEntry State.takeGeometry
  split
  · exact congrArg (DomainEntry.mk _) (Nat.zero_min _).symm
  · exact Table.get_mapListed _ _ s.domains d.toNat sorted.1 (congrArg (DomainEntry.mk _) (Nat.zero_min _))

theorem writeGeometry_accepted (s : State) (v : Quad) (startup : s.mode = .startup) (idle : s.store.initRunning = false)
    (inside : (s.active.windowList.any fun x => x.2.beyond (2 ^ clampGeometry v)) = false) (fence : s.fence = [])
    (soft : s.store.softQueue = []) (sweep : s.sweep.requests = []) :
    s.writeGeometry v = (s.takeGeometry (clampGeometry v), .done) := by
  unfold State.writeGeometry
  rw [startup, idle, inside, fence, soft, sweep]
  rfl

theorem writeGeometry_busy (s : State) (v : Quad) (startup : s.mode = .startup) (idle : s.store.initRunning = false)
    (inside : (s.active.windowList.any fun x => x.2.beyond (2 ^ clampGeometry v)) = false)
    (busy : s.fence ≠ [] ∨ s.store.softQueue ≠ [] ∨ s.sweep.requests ≠ []) :
    s.writeGeometry v = (s, .refused .tableBusy) := by
  unfold State.writeGeometry
  rw [startup, idle, inside, if_neg DeviceMode.noConfusion, if_neg Bool.false_ne_true, if_neg Bool.false_ne_true,
    if_pos (by simpa [or_assoc] using busy)]

/-! ### ADMISSION (R178, R179) -/

theorem exec_admission (s t : State) (h : MgmtHeader) (n : Nat) (v : Quad) (c : s.Carries h (.admission h n v) t) :
    exec (.admission h n v) s =
      .next (replyWrite h (.admission n) (t.linkWrite n fun i => t.writeAdmission i v)).closeEvent :=
  congrArg Host.Outcome.next (deliver_carries s t h _ _ c)

theorem linkWrite_link (s : State) (n : Nat) (l : LinkId) (f : LinkId → State) (link : n = l.val) :
    s.linkWrite n f = (f l, .done) := by
  unfold State.linkWrite
  rw [linkOf_link n l link]

theorem linkWrite_above (s : State) (n : Nat) (f : LinkId → State) (above : 4 ≤ n) :
    s.linkWrite n f = (s, .refused .badIndex) := by
  unfold State.linkWrite
  rw [linkOf_above n above]

/-- A value of a link, when the number names it. -/
theorem ofLink_link (s : State) (l : LinkId) (f : Link → CfgValue) : s.ofLink l.val f = some (f (s.link l)) := by
  unfold State.ofLink
  rw [linkOf_link _ l rfl]
  rfl

theorem ofLink_above (s : State) (n : Nat) (f : Link → CfgValue) (above : 4 ≤ n) : s.ofLink n f = none := by
  unfold State.ofLink
  rw [linkOf_above n above]
  rfl

theorem bne_zero (v : Quad) : (v != 0) = decide (v ≠ 0) := by
  by_cases zero : v = 0
  · subst zero
    rfl
  · rw [decide_eq_true zero, bne_iff_ne.mpr zero]

/-- The link as an ADMISSION that takes it to HELD leaves it. -/
def State.heldLink (s : State) (l : LinkId) : Link :=
  { s.link l with
    admission := false, state := .held, flushOutstanding := true
    flushTimer := if (!(s.link l).flushOutstanding) = true then some (s.timeBase + BitVec.ofNat 48 s.revokeTimeout)
      else (s.link l).flushTimer
    outbound := (s.link l).outbound ++ (if (!(s.link l).flushOutstanding) = true then [.flushAll] else []) }

theorem holdLink_eq (s : State) (l : LinkId) : (s.updLink l fun k => { k with admission := false }).holdLink l =
    (s.setLink l (s.heldLink l)).chainsLinkLost l := by
  have due : ((s.updLink l fun k => { k with admission := false }).updLink l fun k => { k with state := .held }).flushDue l =
      s.setLink l (s.heldLink l) := by
    rw [updLink_updLink]
    unfold State.flushDue State.heldLink
    rw [State.link_updLink_same]
    cases flush : (s.link l).flushOutstanding
    · rw [if_neg (by exact Bool.false_ne_true), updLink_updLink]
      rfl
    · rw [if_pos (by rfl)]
      unfold State.updLink
      simp
      rw [← flush]
  unfold State.holdLink
  rw [due]

theorem writeAdmission_startup (s : State) (l : LinkId) (v : Quad) (startup : s.mode = .startup) :
    s.writeAdmission l v = s.setLink l { s.link l with admission := decide (v ≠ 0) } := by
  unfold State.writeAdmission
  dsimp only
  simp only [startup, bne_zero]
  rfl

theorem writeAdmission_set (s : State) (l : LinkId) (v : Quad) (operating : s.mode = .operating) (set : v ≠ 0) :
    s.writeAdmission l v = s.setLink l { s.link l with
      admission := true
      state := if (s.link l).state = .admitWait ∨ (s.link l).state = .held then .active else (s.link l).state } := by
  have on : (v != 0) = true := by rw [bne_zero, decide_eq_true set]
  unfold State.writeAdmission
  simp only [operating, on, if_true, updLink_updLink]
  split
  · next state => simp [State.updLink, state]
  · next state => simp [State.updLink, state]
  · next state => simp [State.updLink, state]
  · next a b c =>
    rw [if_neg (by rintro (state | state); exacts [a rfl state, b rfl state])]
    rfl

theorem writeAdmission_clear (s : State) (l : LinkId) (operating : s.mode = .operating)
    (idle : (s.link l).state ≠ .active) :
    s.writeAdmission l 0 = s.setLink l { s.link l with admission := false } := by
  unfold State.writeAdmission
  simp only [operating, bne_self_eq_false, Bool.false_eq_true, if_false]
  split
  · rfl
  · rfl
  · next state => exact absurd state idle
  · rfl

theorem writeAdmission_hold (s : State) (l : LinkId) (operating : s.mode = .operating)
    (active : (s.link l).state = .active) :
    s.writeAdmission l 0 = (s.setLink l (s.heldLink l)).chainsLinkLost l := by
  unfold State.writeAdmission
  simp only [operating, active, bne_self_eq_false, Bool.false_eq_true, if_false]
  exact holdLink_eq s l

theorem writeAdmission_links (s : State) (l : LinkId) (v : Quad) : ∃ k : Link,
    (s.writeAdmission l v).links = (s.setLink l k).links ∧ k = { s.link l with
      state := k.state, admission := decide (v ≠ 0), outbound := k.outbound
      flushOutstanding := k.flushOutstanding, flushTimer := k.flushTimer } := by
  cases mode : s.mode with
  | startup => exact ⟨_, congrArg State.links (writeAdmission_startup s l v mode), rfl⟩
  | operating =>
    by_cases zero : v = 0
    · subst zero
      by_cases active : (s.link l).state = .active
      · exact ⟨s.heldLink l, by rw [writeAdmission_hold s l mode active, chainsLinkLost_links], rfl⟩
      · exact ⟨_, congrArg State.links (writeAdmission_clear s l mode active), rfl⟩
    · refine ⟨_, congrArg State.links (writeAdmission_set s l v mode zero), ?_⟩
      rw [decide_eq_true zero]

theorem writeAdmission_link (s : State) (l : LinkId) (v : Quad) : (s.writeAdmission l v).link l = { s.link l with
    state := ((s.writeAdmission l v).link l).state, admission := decide (v ≠ 0)
    outbound := ((s.writeAdmission l v).link l).outbound
    flushOutstanding := ((s.writeAdmission l v).link l).flushOutstanding
    flushTimer := ((s.writeAdmission l v).link l).flushTimer } := by
  obtain ⟨k, links, link⟩ := writeAdmission_links s l v
  have own : (s.writeAdmission l v).link l = k := by
    refine Eq.trans ?_ (State.link_setLink_same s l k)
    unfold State.link
    rw [links]
  rw [own]
  exact link

theorem writeAdmission_others (s : State) (l m : LinkId) (v : Quad) (other : m ≠ l) :
    (s.writeAdmission l v).link m = s.link m := by
  obtain ⟨k, links, -⟩ := writeAdmission_links s l v
  refine Eq.trans ?_ (State.link_setLink_ne s k other)
  unfold State.link
  rw [links]

theorem writeAdmission_only (s : State) (l : LinkId) (v : Quad) : s.OnlyChains (s.writeAdmission l v) := by
  cases mode : s.mode with
  | startup =>
    rw [writeAdmission_startup s l v mode]
    rfl
  | operating =>
    by_cases zero : v = 0
    · subst zero
      by_cases active : (s.link l).state = .active
      · rw [writeAdmission_hold s l mode active]
        exact (chainsLinkLost_only (s.setLink l (s.heldLink l)) l).1
      · rw [writeAdmission_clear s l mode active]
        rfl
    · rw [writeAdmission_set s l v mode zero]
      rfl

theorem flagCode_set (v : Quad) : flagCode (decide (v ≠ 0)) = if v = 0 then 0 else 1 := by
  unfold flagCode
  by_cases zero : v = 0 <;> simp [zero]

theorem readParam_admission (s : State) (l : LinkId) :
    s.readParam (.admission l.val) = some (.num (flagCode (s.link l).admission)) :=
  ofLink_link s l fun k => .num (flagCode k.admission)

theorem admission_answered (s t : State) (h : MgmtHeader) (l : LinkId) (v : Quad)
    (c : s.Carries h (.admission h l v) t) : exec (.admission h l v) s = .next ((t.writeAdmission l v).hand h.link
      (.cfgData h.tag (.admission l) .done (some (.num (if v = 0 then 0 else 1))))).closeEvent := by
  have read : (t.writeAdmission l v).readParam (.admission l.val) = some (.num (if v = 0 then 0 else 1)) := by
    rw [readParam_admission, writeAdmission_link, flagCode_set]
  rw [exec_admission s t h l v c, linkWrite_link t l l _ rfl, replyWrite_done _ h _ _ read]

theorem admissionWritten (t : State) (l : LinkId) (v : Quad) :
    let u := t.writeAdmission l v
    (t.mode = .operating → v ≠ 0 → (u.link l).state =
      (if (t.link l).state = .admitWait ∨ (t.link l).state = .held then .active else (t.link l).state)) ∧
    (t.mode = .operating → v = 0 → (u.link l).state =
      (if (t.link l).state = .active then .held else (t.link l).state)) ∧
    (t.mode = .operating → v = 0 → (t.link l).state = .active → (u.link l).flushOutstanding = true) := by
  have held (operating : t.mode = .operating) (active : (t.link l).state = .active) :
      (t.writeAdmission l 0).link l = t.heldLink l := by
    refine Eq.trans ?_ (State.link_setLink_same t l _)
    rw [writeAdmission_hold t l operating active]
    unfold State.link
    rw [chainsLinkLost_links]
  refine ⟨fun operating set => ?_, fun operating clear => ?_, fun operating clear active => ?_⟩
  · rw [writeAdmission_set t l v operating set, State.link_setLink_same]
  · subst clear
    by_cases active : (t.link l).state = .active
    · rw [held operating active, if_pos active]
      rfl
    · rw [writeAdmission_clear t l operating active, State.link_setLink_same, if_neg active]
  · subst clear
    rw [held operating active]
    rfl

/-! ### ERROR_COUNTER, the queues and the pacer (R149, R166, R169, R186) -/

theorem exec_errorCounter (s t : State) (h : MgmtHeader) (n : Nat) (y : CounterType) (v : Quad)
    (c : s.Carries h (.errorCounter h n y v) t) : exec (.errorCounter h n y v) s =
      .next (replyWrite h (.errorCounter n y) (t.linkWrite n fun i => t.writeCounter i y)).closeEvent :=
  congrArg Host.Outcome.next (deliver_carries s t h _ _ c)

theorem exec_queueSizeWrite (s t : State) (h : MgmtHeader) (q : QueueId) (v : Quad)
    (c : s.Carries h (.queueSizeWrite h q v) t) : exec (.queueSizeWrite h q v) s =
      .next (replyWrite h (.queueSize q) (t.writeQueueSize q v, .done)).closeEvent :=
  congrArg Host.Outcome.next (deliver_carries s t h _ _ c)

theorem exec_notifyEnable (s t : State) (h : MgmtHeader) (v : Quad) (c : s.Carries h (.notifyEnable h v) t) :
    exec (.notifyEnable h v) s = .next (replyWrite h .notifyEnable (t.writeEnable v, .done)).closeEvent :=
  congrArg Host.Outcome.next (deliver_carries s t h _ _ c)

theorem exec_pacerParameterWrite (s t : State) (h : MgmtHeader) (p : PacerParam) (v : Quad)
    (c : s.Carries h (.pacerParameterWrite h p v) t) : exec (.pacerParameterWrite h p v) s =
      .next (replyWrite h (.pacer p) (t.writePacer p v, .done)).closeEvent :=
  congrArg Host.Outcome.next (deliver_carries s t h _ _ c)

theorem exec_sweepEnable (s t : State) (h : MgmtHeader) (v : Quad) (c : s.Carries h (.sweepEnable h v) t) :
    exec (.sweepEnable h v) s = .next (replyWrite h .sweepEnable (t.writeSweepEnable v, .done)).closeEvent :=
  congrArg Host.Outcome.next (deliver_carries s t h _ _ c)

theorem readParam_errorCounter (s : State) (l : LinkId) (y : CounterType) :
    s.readParam (.errorCounter l.val y) = some (.counter ((s.link l).counters.get y)) :=
  ofLink_link s l fun k => .counter (k.counters.get y)

theorem errorCounter_answered (s t : State) (h : MgmtHeader) (l : LinkId) (y : CounterType) (v : Quad)
    (c : s.Carries h (.errorCounter h l y v) t) : exec (.errorCounter h l y v) s =
      .next ((t.setLink l { t.link l with
        counters := (t.link l).counters.set y { value := 0, reached := false } }).hand h.link
          (.cfgData h.tag (.errorCounter l y) .done (some (.counter { value := 0, reached := false })))).closeEvent := by
  have read : (t.writeCounter l y).readParam (.errorCounter l.val y) =
      some (.counter { value := 0, reached := false }) := by
    rw [readParam_errorCounter]
    unfold State.writeCounter
    rw [State.link_updLink_same, Counters.get_set, if_pos rfl]
    rfl
  rw [exec_errorCounter s t h l y v c, linkWrite_link t l l _ rfl, replyWrite_done _ h _ _ read]
  rfl

theorem restarted_eq (w : SweepState) : w.restarted =
    { w with phase := if w.restart then 0 else w.phase, residue := if w.restart then 0 else w.residue } := by
  unfold SweepState.restarted
  split <;> rfl

theorem writePacer_eq (s : State) (p : PacerParam) (v : Quad) : s.writePacer p v = { s with sweep := { s.sweep with
    pacerX := if p = .x then v.toNat % 2 ^ 32 else s.sweep.pacerX
    pacerA := if p = .a then v.toNat % 2 ^ 32 else s.sweep.pacerA
    pacerB := if p = .b then v.toNat % 2 ^ 32 else s.sweep.pacerB
    phase := if s.sweep.restart then 0 else s.sweep.phase
    residue := if s.sweep.restart then 0 else s.sweep.residue } } := by
  unfold State.writePacer
  cases p <;> exact congrArg (fun w : SweepState => { s with sweep := w }) (restarted_eq _)

theorem readParam_pacer (s : State) (p : PacerParam) (v : Quad) :
    (s.writePacer p v).readParam (.pacer p) = some (.num (v.toNat % 2 ^ 32)) := by
  rw [writePacer_eq]
  cases p <;> rfl

/-- Settles O54: each write is carried out as the model's operation on the parameter, whose effect has its equation. -/
theorem parameterWrites : Obligations.ParameterWrites := by
  unfold Obligations.ParameterWrites
  refine ⟨?_, ?_, ?_, ?_, ?_, ?_, ?_, ?_, ?_⟩
  · intro s t h v c g answer
    have refused (r : CfgReason) (index : r ≠ .badIndex) (writes : t.writeGeometry v = (t, .refused r)) :
        answer t (.refused r) := by
      show exec _ s = _
      rw [exec_storeGeometry s t h v c, writes, replyWrite_refused t h _ r _ index rfl]
    refine ⟨fun operating => refused _ CfgReason.noConfusion (if_pos operating),
      fun startup => ⟨fun runs => ?_, fun idle => ⟨fun beyond => ?_, fun within => ?_⟩⟩⟩
    all_goals
      have passes : ¬ t.mode = .operating := by rw [startup]; exact DeviceMode.noConfusion
    · exact refused _ CfgReason.noConfusion ((if_neg passes).trans (if_pos runs))
    · exact refused _ CfgReason.noConfusion ((if_neg passes).trans
        ((if_neg (by rw [idle]; exact Bool.false_ne_true)).trans (if_pos ((windows_beyond t.active _).mpr beyond))))
    · have inside : (t.active.windowList.any fun x => x.2.beyond (2 ^ clampGeometry v)) = false := by
        rw [Bool.eq_false_iff]
        intro beyond
        obtain ⟨i, walks, out⟩ := (windows_beyond t.active _).mp beyond
        exact absurd out (Nat.not_lt.mpr (within i walks))
      refine ⟨fun busy => refused _ CfgReason.noConfusion (writeGeometry_busy t v startup idle inside busy),
        fun fence soft sweep ok => ⟨t.takeGeometry g, ?_, rfl, fun d => takeGeometry_domainEntry t g d ok⟩⟩
      show exec _ s = _
      rw [exec_storeGeometry s t h v c, writeGeometry_accepted t v startup idle inside fence soft sweep,
        replyWrite_done _ h .storeGeometry _ rfl]
      rfl
  · intro s t h l v c
    have own := writeAdmission_link t l v
    obtain ⟨set, clear, flush⟩ := admissionWritten t l v
    refine ⟨t.writeAdmission l v, admission_answered s t h l v c, ?_, fun m => writeAdmission_others t l m v, ?_, set,
      clear, flush, fun startup => writeAdmission_startup t l v startup,
      fun operating set => writeAdmission_set t l v operating set, ?_, ?_, own, writeAdmission_only t l v⟩
    · rw [own]
    · intro startup
      rw [writeAdmission_startup t l v startup, State.link_setLink_same]
    · rintro operating rfl idle
      exact writeAdmission_clear t l operating idle
    · rintro operating rfl active
      exact writeAdmission_hold t l operating active
  · exact errorCounter_answered
  · intro s t h n y v above
    refine ⟨fun c => ?_, fun c => ?_⟩
    · rw [exec_admission s t h n v c, linkWrite_above t n _ above, replyWrite_badIndex]
    · rw [exec_errorCounter s t h n y v c, linkWrite_above t n _ above, replyWrite_badIndex]
  · intro s t h v c
    rw [exec_queueSizeWrite s t h .q0 v c, replyWrite_done _ h (.queueSize .q0) _ rfl]
    rfl
  · intro s t h v c
    rw [exec_queueSizeWrite s t h .q1 v c, replyWrite_done _ h (.queueSize .q1) _ rfl]
    rfl
  · intro s t h v c
    have read : (t.writeEnable v).readParam .notifyEnable = some (.num (v.toNat % 2 ^ 13)) :=
      congrArg (fun n => some (CfgValue.num n)) (BitVec.toNat_setWidth 13 v)
    rw [exec_notifyEnable s t h v c, replyWrite_done _ h .notifyEnable _ read]
    rfl
  · intro s t h p v c n
    rw [exec_pacerParameterWrite s t h p v c, replyWrite_done _ h (.pacer p) _ (readParam_pacer t p v), writePacer_eq]
  · intro s t h v c
    have read : (t.writeSweepEnable v).readParam .sweepEnable = some (.num (if v = 0 then 0 else 1)) := by
      refine congrArg (fun n => some (CfgValue.num n)) ?_
      rw [← flagCode_set, ← bne_zero]
      rfl
    have effect : t.writeSweepEnable v = { t with sweep := { t.sweep with
        enable := decide (v ≠ 0)
        creditPending := t.sweep.creditPending && !(t.sweep.enable && decide (v = 0)) } } := by
      have credit : (if (t.sweep.enable && !(v != 0)) = true then false else t.sweep.creditPending) =
          (t.sweep.creditPending && !(t.sweep.enable && decide (v = 0))) := by
        rw [bne_zero]
        cases t.sweep.enable <;> cases t.sweep.creditPending <;> by_cases zero : v = 0 <;> simp [zero]
      unfold State.writeSweepEnable
      dsimp only
      rw [credit, bne_zero]
    rw [exec_sweepEnable s t h v c, replyWrite_done _ h .sweepEnable _ read, effect]

end Sys2Proof.Machine
end

section
/-! SUPPORT. CFG_READ and CFG_WRITE: the value of each parameter, what a write of it stores, and the qualifiers beyond
their ranges (R22, R34, R166, R186, R193, R194). -/

namespace Sys2Proof.Machine

/-! ### Reading (R193) -/

theorem exec_cfgRead (s t : State) (h : MgmtHeader) (p : Param) (c : s.Carries h (.cfgRead h p) t) :
    exec (.cfgRead h p) s = .next (t.cfgReadOp h p).closeEvent :=
  congrArg Host.Outcome.next (deliver_carries s t h _ _ c)

theorem cfgReadOp_some (s : State) (h : MgmtHeader) (p : Param) (v : CfgValue) (read : s.readParam p = some v) :
    s.cfgReadOp h p = s.hand h.link (.cfgData h.tag p .done (some v)) := by
  unfold State.cfgReadOp
  rw [read]

theorem cfgReadOp_none (s : State) (h : MgmtHeader) (p : Param) (read : s.readParam p = none) :
    s.cfgReadOp h p = s.hand h.link (.cfgData h.tag p (.refused .badIndex) none) := by
  unfold State.cfgReadOp
  rw [read]

theorem window_of (p : PolicyCopy) (i : Fin 16) : p.window i.val = p.windows[i] := by
  unfold PolicyCopy.window
  rw [List.getD_eq_getElem?_getD, List.getElem?_eq_getElem (by simp), Option.getD_some]
  simp

theorem readParam_window (s : State) (f : WindowField) (i : Fin 16) (c : Copy) :
    s.readParam (.window f i.val c) = some (.num (((s.policy c).windows[i]).field f)) := by
  rw [← window_of]
  exact if_pos i.isLt

theorem readParam_window_above (s : State) (f : WindowField) (n : Nat) (c : Copy) (above : 16 ≤ n) :
    s.readParam (.window f n c) = none := if_neg (Nat.not_lt.mpr above)

theorem readParam_classElement (s : State) (f : ElementField) (n : Nat) (c : Copy) (inside : n < 256) :
    s.readParam (.classElement f n c) = some (.num (((s.policy c).element n).field f)) := if_pos inside

theorem readParam_classElement_above (s : State) (f : ElementField) (n : Nat) (c : Copy) (above : 256 ≤ n) :
    s.readParam (.classElement f n c) = none := if_neg (Nat.not_lt.mpr above)

theorem readParam_nonMatch (s : State) (f : NonMatchField) (l : LinkId) (c : Copy) :
    s.readParam (.nonMatch f l.val c) = some (.num (((s.policy c).nonMatch[l]).field f)) :=
  congrArg (Option.map fun i : LinkId => CfgValue.num (((s.policy c).nonMatch[i]).field f)) (linkOf_link _ l rfl)

theorem readParam_nonMatch_above (s : State) (f : NonMatchField) (n : Nat) (c : Copy) (above : 4 ≤ n) :
    s.readParam (.nonMatch f n c) = none :=
  congrArg (Option.map fun i : LinkId => CfgValue.num (((s.policy c).nonMatch[i]).field f)) (linkOf_above n above)

theorem readParam_openChecks (s : State) (l : LinkId) : s.readParam (.openChecks l.val) =
    some (.num (s.openChecks.countP fun e => decide (e.link = l))) := by
  have same : (fun e : OpenCheck => e.link == l) = fun e => decide (e.link = l) := funext fun e => beq_eq_decide _ _
  refine (congrArg (Option.map fun i => CfgValue.num (s.openCount i)) (linkOf_link _ l rfl)).trans ?_
  unfold State.openCount
  rw [← same]
  rfl

theorem readParam_domainEntry (s : State) (d : DomainNo) (inside : d.toNat < 1024) :
    s.readParam (.domainEntry d.toNat) = some (.domain (s.domainEntry d)) := by
  refine (if_pos inside).trans ?_
  rw [BitVec.ofNat_toNat, BitVec.setWidth_eq]

theorem readParam_chainProgress (s : State) (c : ChannelId) :
    s.readParam (.chainProgress c.val) = some (.chain (s.chan c).progress) := dif_pos c.isLt

/-- A qualifier beyond its range (R193). -/
def BeyondRange (p : Param) (n : Nat) : Prop :=
  (4 ≤ n ∧ (p = .admission n ∨ p = .linkExpectRole n ∨ p = .linkMinRevision n ∨ p = .errorMode n ∨
      p = .faultMask n ∨ (∃ c, p = .errorCounter n c) ∨ p = .openChecks n ∨
      p = .flushOutstanding n ∨ p = .linkState n ∨ ∃ f c, p = .nonMatch f n c)) ∨
    (16 ≤ n ∧ ∃ f c, p = .window f n c) ∨ (256 ≤ n ∧ ∃ f c, p = .classElement f n c) ∨
    (1024 ≤ n ∧ (p = .domainEntry n ∨ p = .domainViolation n)) ∨
    (2 ≤ n ∧ (p = .chainProgress n ∨ p = .queueState n))

theorem queueOf_above (n : Nat) (above : 2 ≤ n) : queueOf n = none := by
  unfold queueOf
  rw [if_neg (by omega), if_neg (by omega)]

theorem readParam_beyond (s : State) (p : Param) (n : Nat) (beyond : BeyondRange p n) : s.readParam p = none := by
  rcases beyond with ⟨above, link⟩ | ⟨above, f, c, rfl⟩ | ⟨above, f, c, rfl⟩ | ⟨above, rfl | rfl⟩ | ⟨above, rfl | rfl⟩
  · have none_ (f : Link → CfgValue) := ofLink_above s n f above
    rcases link with rfl | rfl | rfl | rfl | rfl | ⟨c, rfl⟩ | rfl | rfl | rfl | ⟨f, c, rfl⟩
    case inr.inr.inr.inr.inr.inr.inl =>
      exact congrArg (Option.map fun i => CfgValue.num (s.openCount i)) (linkOf_above n above)
    case inr.inr.inr.inr.inr.inr.inr.inr.inr => exact readParam_nonMatch_above s f n c above
    all_goals
      unfold State.readParam
      exact none_ _
  · exact readParam_window_above s f n c above
  · exact readParam_classElement_above s f n c above
  · exact if_neg (Nat.not_lt.mpr above)
  · exact if_neg (Nat.not_lt.mpr above)
  · exact dif_neg (Nat.not_lt.mpr above)
  · exact congrArg (Option.map fun i => queueValue (s.queueView i)) (queueOf_above n above)

/-- The ways of the directory that hold an entry. -/
theorem directory_listed (s : State) (ok : s.TablesOk) : (s.directory.map Prod.fst).Nodup ∧
    ∀ w : Nat, w ∈ s.directory.map Prod.fst ↔ s.dirWay w ≠ none := by
  obtain ⟨-, -, sorted, listed⟩ := ok
  constructor
  · rw [List.Nodup, List.pairwise_map]
    exact sorted.imp fun lt => Nat.ne_of_lt lt
  · intro w
    rw [List.mem_map]
    constructor
    · rintro ⟨p, m, rfl⟩
      unfold State.dirWay
      rw [Table.get_listed none _ p sorted m]
      exact listed p m
    · intro some_
      exact ⟨(w, s.dirWay w), Table.listed_of_get none _ w _ rfl some_, rfl⟩

/-- The violation flag of lowest number (R167). -/
theorem violationFirst_lowest (s : State) (ok : s.TablesOk) :
    (s.violationFirst = none → ∀ d : Nat, (s.violation d).flag = false) ∧
    ∀ d : Nat, s.violationFirst = some d → (s.violation d).flag = true ∧
      ∀ e : Nat, e < d → (s.violation e).flag = false := by
  obtain ⟨⟨sorted, listed⟩, -, -⟩ := ok
  have entry (d : Nat) (flag : (s.violation d).flag = true) : (d, s.violation d) ∈ s.reports.violations := by
    refine Table.listed_of_get _ _ d _ rfl fun dflt => ?_
    rw [dflt] at flag
    exact absurd flag Bool.false_ne_true
  unfold State.violationFirst
  constructor
  · intro none_ d
    rw [Option.map_eq_none_iff, List.find?_eq_none] at none_
    exact Bool.eq_false_iff.mpr fun flag => none_ _ (entry d flag) flag
  · intro d first
    obtain ⟨p, found, rfl⟩ := Option.map_eq_some_iff.mp first
    obtain ⟨m, flag, lowest⟩ := find_rising _ _ _ sorted found
    have value : s.violation p.1 = p.2 := Table.get_listed _ _ p sorted m
    refine ⟨by rw [value]; exact flag, fun e below => Bool.eq_false_iff.mpr fun flag => ?_⟩
    exact Bool.eq_false_iff.mp (lowest _ (entry e flag) below) flag

/-! ### Writing (R194) -/

theorem exec_cfgWrite (s t : State) (h : MgmtHeader) (p : Param) (v : Quad) (c : s.Carries h (.cfgWrite h p v) t) :
    exec (.cfgWrite h p v) s = .next (replyWrite h p (t.writeParam p v)).closeEvent :=
  congrArg Host.Outcome.next (deliver_carries s t h _ _ c)

theorem refuseWrite_some (s : State) (p : Param) (v : CfgValue) (read : s.readParam p = some v) :
    s.refuseWrite p = (s, .refused .badAccess) := by
  unfold State.refuseWrite
  rw [read]
  rfl

theorem refuseWrite_none (s : State) (p : Param) (read : s.readParam p = none) :
    s.refuseWrite p = (s, .refused .badIndex) := by
  unfold State.refuseWrite
  rw [read]
  rfl

theorem writeGeometry_refused (s : State) (v : Quad) (r : CfgReason) (h : (s.writeGeometry v).2 = .refused r) :
    (s.writeGeometry v).1 = s := by
  unfold State.writeGeometry at *
  iterate 4 (split; rfl)
  simp_all

theorem linkWrite_refused (s : State) (n : Nat) (f : LinkId → State) (r : CfgReason)
    (h : (s.linkWrite n f).2 = .refused r) : (s.linkWrite n f).1 = s := by
  unfold State.linkWrite at *
  split at h
  · cases h
  · rfl

/-- A refused write leaves every parameter as it was. -/
theorem writeParam_refused (s : State) (p : Param) (v : Quad) (r : CfgReason) (h : (s.writeParam p v).2 = .refused r) :
    (s.writeParam p v).1 = s := by
  unfold State.writeParam at *
  split at h
  case h_1 => exact writeGeometry_refused s v r h
  case h_2 =>
    split at h
    · cases h
    · next out =>
      rw [dif_neg out]
  case h_4 =>
    split at h
    · cases h
    · next out =>
      rw [if_neg out]
  case h_5 | h_6 | h_7 | h_8 | h_10 | h_11 | h_12 => exact linkWrite_refused s _ _ r h
  case h_23 => rfl
  all_goals cases h

theorem writeParam_link (s : State) (l : LinkId) (p : Param) (v : Quad) (f : Link → Link)
    (h : s.writeParam p v = s.linkWrite l.val fun i => s.updLink i f) :
    s.writeParam p v = (s.setLink l (f (s.link l)), .done) := by
  rw [h, linkWrite_link s l l _ rfl]
  rfl

theorem writeWindow_windows (s : State) (f : WindowField) (w : Nat) (inside : w < 16) (v : Quad) (i : Fin 16) :
    (s.writeWindow f ⟨w, inside⟩ v).shadow.windows[i] =
      if i.val = w then (s.shadow.windows[i]).store f v else s.shadow.windows[i] := by
  show (s.shadow.windows.set w ((s.shadow.windows[w]).store f v) inside)[i.val] = _
  rw [Vector.getElem_set]
  by_cases own : w = i.val
  · subst own
    rw [if_pos rfl, if_pos rfl]
    rfl
  · rw [if_neg own, if_neg fun e => own e.symm]
    rfl

theorem writeNonMatch_nonMatch (s : State) (f : NonMatchField) (l m : LinkId) (v : Quad) :
    (s.writeNonMatch f l v).shadow.nonMatch[m] =
      if m = l then (s.shadow.nonMatch[m]).store f v else s.shadow.nonMatch[m] := by
  show (s.shadow.nonMatch.set l.val ((s.shadow.nonMatch[l]).store f v) l.isLt)[m.val] = _
  rw [Vector.getElem_set]
  by_cases own : m = l
  · subst own
    rw [if_pos rfl, if_pos rfl]
  · rw [if_neg own, if_neg fun e => own (Fin.ext e.symm)]
    rfl

theorem writeElement_element (s : State) (f : ElementField) (n m : Nat) (v : Quad) (ok : s.ElementsOk) :
    (s.writeElement f n v).shadow.element m =
      if m = n then (s.shadow.element n).store f v else s.shadow.element m :=
  Table.get_set Element.reset s.shadow.elements n m _ ok.1.1

/-- The parameters that are read only, whatever their qualifiers. -/
theorem writeParam_readOnly (s : State) (p : Param) (v : Quad)
    (h : p ∈ [.deviceMode, .leadLink, .timeBase, .tableValid, .tableInitProgress, .watchReport,
      .oldEpochOpen, .directoryInUse, .directoryMisses, .fenceInUse, .directQueueFill,
      .retireStatus, .policyEpoch, .commitPhase, .pacerState, .sweepSlips, .sweepPosition,
      .sweepPasses, .quarantineList, .errorCapture, .violationFirst, .notifyStatus]) :
    (s.writeParam p v).2 = .refused .badAccess := by
  simp only [List.mem_cons, List.not_mem_nil, or_false] at h
  rcases h with rfl | rfl | rfl | rfl | rfl | rfl | rfl | rfl | rfl | rfl | rfl | rfl | rfl | rfl | rfl | rfl | rfl |
    rfl | rfl | rfl | rfl | rfl
  all_goals rfl

theorem refuseWrite_within (s : State) (p : Param) (n m : Nat) (inside : n < m → ∃ v, s.readParam p = some v)
    (outside : ¬ n < m → s.readParam p = none) :
    (s.refuseWrite p).2 = .refused (if n < m then .badAccess else .badIndex) := by
  by_cases within : n < m
  · obtain ⟨v, read⟩ := inside within
    rw [refuseWrite_some s p v read, if_pos within]
  · rw [refuseWrite_none s p (outside within), if_neg within]

theorem writeParam_numbered (s : State) (p : Param) (v : Quad) (n : Nat) :
    (p = .openChecks n ∨ p = .flushOutstanding n ∨ p = .linkState n →
      (s.writeParam p v).2 = .refused (if n < 4 then .badAccess else .badIndex)) ∧
    (p = .domainEntry n ∨ p = .domainViolation n →
      (s.writeParam p v).2 = .refused (if n < 1024 then .badAccess else .badIndex)) ∧
    (p = .chainProgress n ∨ p = .queueState n →
      (s.writeParam p v).2 = .refused (if n < 2 then .badAccess else .badIndex)) := by
  have beyond (q : Param) (h : BeyondRange q n) := readParam_beyond s q n h
  refine ⟨?_, ?_, ?_⟩
  · rintro (rfl | rfl | rfl)
    · exact refuseWrite_within s _ n 4 (fun inside => ⟨_, readParam_openChecks s ⟨n, inside⟩⟩)
        fun out => beyond _ (by simp [BeyondRange]; omega)
    · exact refuseWrite_within s _ n 4 (fun inside => ⟨_, ofLink_link s ⟨n, inside⟩ fun k => .flag k.flushOutstanding⟩)
        fun out => beyond _ (by simp [BeyondRange]; omega)
    · exact refuseWrite_within s _ n 4 (fun inside => ⟨_, ofLink_link s ⟨n, inside⟩ fun k =>
        .link k.state k.announced k.lastReply k.lastFault k.sessionCount⟩)
        fun out => beyond _ (by simp [BeyondRange]; omega)
  · rintro (rfl | rfl)
    · exact refuseWrite_within s _ n 1024 (fun inside => ⟨_, if_pos inside⟩)
        fun out => beyond _ (by simp [BeyondRange]; omega)
    · exact refuseWrite_within s _ n 1024 (fun inside => ⟨_, if_pos inside⟩)
        fun out => beyond _ (by simp [BeyondRange]; omega)
  · rintro (rfl | rfl)
    · exact refuseWrite_within s _ n 2 (fun inside => ⟨_, dif_pos inside⟩)
        fun out => beyond _ (by simp [BeyondRange]; omega)
    · refine refuseWrite_within s _ n 2 (fun inside => ?_) fun out => beyond _ (by simp [BeyondRange]; omega)
      match n, inside with
      | 0, _ => exact ⟨_, rfl⟩
      | 1, _ => exact ⟨_, rfl⟩

/-! ### The fields as written (R22, R34) -/

theorem toNat_baseOfValue (v : Quad) : (baseOfValue v).toNat = v.toNat % 2 ^ 52 / 2 ^ 12 * 2 ^ 12 := by
  have shifted : baseOfValue v = (v.setWidth 52 >>> 12) <<< 12 := by
    have mask : 0xFFFFFFFFFF000#52 = (BitVec.allOnes 52 >>> 12) <<< 12 := by decide
    unfold baseOfValue
    rw [mask]
    ext i bit
    rw [BitVec.getElem_and, BitVec.getElem_shiftLeft, BitVec.getElem_shiftLeft]
    by_cases low : i < 12
    · simp [low]
    · have back : 12 + (i - 12) = i := by omega
      have bits : (BitVec.allOnes 52).getLsbD i = true := by
        rw [BitVec.getLsbD_allOnes]
        exact decide_eq_true bit
      simp only [low, BitVec.getElem_ushiftRight, back, bits, decide_false, Bool.not_false, Bool.true_and, Bool.and_true]
      exact (BitVec.getLsbD_eq_getElem bit).symm
  have bound : v.toNat % 2 ^ 52 / 2 ^ 12 * 2 ^ 12 < 2 ^ 52 := by omega
  rw [shifted, BitVec.toNat_shiftLeft, BitVec.toNat_ushiftRight, BitVec.toNat_setWidth, Nat.shiftRight_eq_div_pow,
    Nat.shiftLeft_eq, Nat.mod_eq_of_lt bound]

theorem decide_ne_zero (v : Quad) : (v != 0) = decide (v.toNat ≠ 0) := by
  rw [bne_zero]
  exact decide_eq_decide.mpr (not_congr BitVec.toNat_eq)

theorem elementStores (e : Element) (m : NonMatch) (v : Quad) :
    e.store .kind v = { e with kind := if v.toNat = 1 then .range else if v.toNat = 2 then .masked
      else .exact } ∧
    e.store .first v = { e with first := BitVec.ofNat 16 v.toNat } ∧
    e.store .second v = { e with second := BitVec.ofNat 16 v.toNat } ∧
    e.store .links v = { e with links := BitVec.ofNat 4 v.toNat } ∧
    e.store .action v = { e with action := if v.toNat = 1 then .domain else .block } ∧
    e.store .domain v = { e with domain := BitVec.ofNat 16 v.toNat } ∧
    e.store .watch v = { e with watch := decide (v.toNat ≠ 0) } ∧
    e.store .enable v = { e with enabled := decide (v.toNat ≠ 0) } ∧
    m.store .action v = { m with isDomain := decide (v.toNat = 1) } ∧
    m.store .domain v = { m with domain := BitVec.ofNat 16 v.toNat } := by
  have one : (v == 1) = decide (v.toNat = 1) := (beq_eq_decide _ _).trans (decide_eq_decide.mpr BitVec.toNat_eq)
  simp only [BitVec.ofNat_toNat, ← decide_ne_zero, ← one]
  exact ⟨rfl, rfl, rfl, rfl, rfl, rfl, rfl, rfl, rfl, rfl⟩

/-- A frame of its own that writes a parameter waits for the same places and is carried out as the CFG_WRITE is. -/
theorem cfgWrite_as (s : State) (h : MgmtHeader) (frame : Instr) (p : Param) (v : Quad) (f : State → State × CfgOutcome)
    (places : s.mustHold h.link (.cfgWrite h p v) = s.mustHold h.link frame)
    (writes : (fun u : State => u.writeParam p v) = f) (takes : s.Takes h.link (.cfgWrite h p v)) :
    exec (.cfgWrite h p v) s =
      .next (s.deliver h.link frame fun t => t.takeManaged h fun u => replyWrite h p (f u)) := by
  subst writes
  obtain ⟨session, held, room⟩ := takes
  refine congrArg Host.Outcome.next ?_
  rw [deliver_takes s h.link frame _ ⟨session, held, places.symm.trans room⟩]
  exact deliver_takes s h.link _ _ ⟨session, held, room⟩

/-- Settles O53: a CFG_WRITE is `writeParam` and a CFG_READ `readParam`, and each has its equation for each parameter. -/
theorem parameterAccess : Obligations.ParameterAccess := by
  unfold Obligations.ParameterAccess
  refine ⟨?_, ?_, ?_, ?_, ?_, elementStores, ?_⟩
  · intro s t h p v c read
    rw [exec_cfgRead s t h p c, cfgReadOp_some t h p v read]
  · intro s t h p c read
    rw [exec_cfgRead s t h p c, cfgReadOp_none t h p read]
  · intro s t h p v c
    refine ⟨(t.writeParam p v).1, (t.writeParam p v).2, exec_cfgWrite s t h p v c,
      writeParam_refused t p v, ?_, ?_, ?_, ?_, ?_, ?_, ?_, ?_, ?_, ?_, ?_, ?_, ?_, ?_, ?_, ?_, ?_, ?_, ?_, ?_, ?_, ?_,
      writeParam_readOnly t p v, writeParam_numbered t p v⟩
    iterate 4
      · rintro rfl
        exact ⟨rfl, rfl⟩
    · rintro f w rfl inside
      have writes : t.writeParam (.window f w .shadow) v = (t.writeWindow f ⟨w, inside⟩ v, .done) := dif_pos inside
      rw [writes]
      refine ⟨rfl, rfl, fun i other => ?_, fun i own => ?_⟩
      · rw [writeWindow_windows, if_neg other]
      · rw [writeWindow_windows, if_pos own]
    · rintro f w rfl inside
      exact congrArg Prod.snd (refuseWrite_some t _ _ (readParam_window t f ⟨w, inside⟩ .active))
    · rintro f w y rfl above
      cases y with
      | shadow => exact congrArg Prod.snd (dif_neg (Nat.not_lt.mpr above))
      | active => exact congrArg Prod.snd (refuseWrite_none t _ (readParam_window_above t f w .active above))
    · rintro f n rfl inside
      have writes : t.writeParam (.classElement f n .shadow) v = (t.writeElement f n v, .done) := if_pos inside
      rw [writes]
      refine ⟨rfl, rfl, fun ok => ⟨?_, fun m other => ?_⟩⟩
      · rw [writeElement_element t f n n v ok, if_pos rfl]
      · rw [writeElement_element t f n m v ok, if_neg other]
    · rintro f l rfl
      have writes : t.writeParam (.nonMatch f l.val .shadow) v = (t.writeNonMatch f l v, .done) :=
        linkWrite_link t l l _ rfl
      rw [writes]
      refine ⟨rfl, rfl, ?_, fun m other => ?_⟩
      · rw [writeNonMatch_nonMatch, if_pos rfl]
      · rw [writeNonMatch_nonMatch, if_neg other]
    · rintro rfl
      rfl
    · rintro f n rfl inside
      exact congrArg Prod.snd (refuseWrite_some t _ _ (readParam_classElement t f n .active inside))
    · rintro f n y rfl above
      cases y with
      | shadow => exact congrArg Prod.snd (if_neg (Nat.not_lt.mpr above))
      | active => exact congrArg Prod.snd (refuseWrite_none t _ (readParam_classElement_above t f n .active above))
    · rintro f n rfl inside
      exact congrArg Prod.snd (refuseWrite_some t _ _ (readParam_nonMatch t f ⟨n, inside⟩ .active))
    · rintro f n y rfl above
      cases y with
      | shadow => exact congrArg Prod.snd (linkWrite_above t n _ above)
      | active => exact congrArg Prod.snd (refuseWrite_none t _ (readParam_nonMatch_above t f n .active above))
    · intro l
      have writes (f : Link → Link) (h : t.writeParam p v = t.linkWrite l.val fun i => t.updLink i f) :
          (t.writeParam p v).2 = .done ∧ (t.writeParam p v).1 = t.setLink l (f (t.link l)) := by
        rw [writeParam_link t l p v f h]
        exact ⟨rfl, rfl⟩
      refine ⟨?_, ?_, ?_, ?_⟩
      all_goals
        rintro rfl
        exact writes _ rfl
    · intro n above
      rintro (rfl | rfl | rfl | rfl)
      all_goals exact congrArg Prod.snd (linkWrite_above t n _ above)
    iterate 5
      · rintro rfl
        exact ⟨rfl, rfl⟩
    · rintro rfl
      have one : (v == 1) = decide (v.toNat = 1) := (beq_eq_decide _ _).trans (decide_eq_decide.mpr BitVec.toNat_eq)
      rw [← one]
      exact ⟨rfl, rfl⟩
  · intro s num bit
    refine ⟨rfl, rfl, rfl, rfl, rfl, rfl, rfl, rfl, rfl, rfl, rfl, rfl, rfl, rfl, rfl, rfl, rfl, rfl, rfl, rfl, rfl, rfl,
      rfl, rfl, rfl, rfl, ?_, rfl, rfl, rfl, rfl, rfl, rfl, rfl, rfl, rfl, fun ok => ?_, fun ok => ?_, fun c => ?_,
      fun l => ?_, fun d inside => ?_, readParam_chainProgress s, rfl, rfl, fun n p => readParam_beyond s p n⟩
    · rfl
    · obtain ⟨nodup, listed⟩ := directory_listed s ok
      exact ⟨_, nodup, listed, congrArg (fun n => some (CfgValue.num n)) (List.length_map _).symm⟩
    · exact ⟨s.violationFirst, rfl, violationFirst_lowest s ok⟩
    · refine ⟨rfl, fun i => ?_, fun n inside => ?_, fun l => ?_⟩
      · have read (f : WindowField) := readParam_window s f i c
        exact ⟨read _, read _, read _, read _, read _, read _⟩
      · have read (f : ElementField) := readParam_classElement s f n c inside
        exact ⟨read _, read _, read _, read _, read _, read _, read _, read _⟩
      · exact ⟨readParam_nonMatch s _ l c, readParam_nonMatch s _ l c⟩
    · have read (f : Link → CfgValue) := ofLink_link s l f
      exact ⟨read fun k => .num (flagCode k.admission), read fun k => .num (roleCode k.expectRole),
        read fun k => .num k.minRevision, read fun k => .num k.errorMode.toNat, read fun k => .num k.faultMask.toNat,
        readParam_errorCounter s l _, readParam_errorCounter s l _, readParam_errorCounter s l _,
        readParam_openChecks s l, read fun k => .flag k.flushOutstanding,
        read fun k => .link k.state k.announced k.lastReply k.lastFault k.sessionCount⟩
    · exact ⟨readParam_domainEntry s d inside, if_pos inside⟩
  · intro s h v
    refine ⟨fun takes => ?_, fun n takes => ?_, fun n c takes => ?_, fun q takes => ?_, fun takes => ?_,
      fun r takes => ?_, fun takes => ?_⟩
    · exact cfgWrite_as s h (.storeGeometry h v) .storeGeometry v (fun u => u.writeGeometry v)
        rfl rfl takes
    · exact cfgWrite_as s h (.admission h n v) (.admission n) v (fun u => u.linkWrite n fun i => u.writeAdmission i v)
        rfl rfl takes
    · exact cfgWrite_as s h (.errorCounter h n c v) (.errorCounter n c) v (fun u => u.linkWrite n fun i => u.writeCounter i c)
        rfl rfl takes
    · exact cfgWrite_as s h (.queueSizeWrite h q v) (.queueSize q) v (fun u => (u.writeQueueSize q v, .done))
        rfl rfl takes
    · exact cfgWrite_as s h (.notifyEnable h v) .notifyEnable v (fun u => (u.writeEnable v, .done))
        rfl rfl takes
    · exact cfgWrite_as s h (.pacerParameterWrite h r v) (.pacer r) v (fun u => (u.writePacer r v, .done))
        rfl rfl takes
    · exact cfgWrite_as s h (.sweepEnable h v) .sweepEnable v (fun u => (u.writeSweepEnable v, .done))
        rfl rfl takes
  · intro w v
    exact ⟨decide_ne_zero v, toNat_baseOfValue v, rfl, rfl, rfl, rfl, rfl, rfl, rfl, rfl, rfl, rfl⟩

end Sys2Proof.Machine
end

section
/-! SUPPORT. The faults that the announce, flush and revoke timers raise (R79, R86, R175, R180), and what several
links leave that are faulted in one event. -/

namespace Sys2Proof.Machine

/-! ### What a fault leaves of the other links and of the directory -/

/-- A link that a revoke timer faulted. -/
def Link.expelled (k : Link) : Link :=
  { k with
    state := .faulted, lastFault := some .revokeTimeout, outbound := [], held := []
    announceTimer := none, flushOutstanding := false, flushTimer := none }

theorem linkLeaves_link_other (s : State) (l m : LinkId) (kept : List OutMsg) (other : m ≠ l) :
    (s.linkLeaves l kept).link m = s.link m := by
  obtain ⟨u, -, links, -, leaves⟩ := linkLeaves_eq s l kept
  dsimp only at leaves
  have before := links m
  rw [if_neg other] at before
  rw [leaves, State.link_setLink_ne _ _ other, ← before]
  exact congrArg (fun v : Vector Link 4 => v[m]) (chainsLinkLost_links u l)

theorem faultCore_link (s : State) (l m : LinkId) (granule : Option Nat) (session : (s.link l).state.inSession = true) :
    (s.faultCore l .revokeTimeout none granule).link m = if m = l then (s.link m).expelled else s.link m := by
  by_cases own : m = l
  · subst own
    rw [if_pos rfl]
    exact faultCore_own s m .revokeTimeout none granule session
  · rw [if_neg own, faultCore_session s l .revokeTimeout none granule session]
    unfold State.link
    rw [raise_links, storeEvent_links]
    exact (linkLeaves_link_other _ l m [] own).trans (State.link_updLink_ne s _ own)

theorem linkLeaves_directory (s : State) (l : LinkId) (kept : List OutMsg) :
    (s.linkLeaves l kept).directory = (s.dropAllHolders l).directory := by
  have checks : ((s.withdrawLink l).discardChecks l).directory = (s.withdrawLink l).directory := by
    rw [discardChecks_eq]
  generalize hd : (s.withdrawLink l).discardChecks l = d at checks
  have software : (d.dropSoftware l).directory = d.directory := by rw [dropSoftware_eq]
  generalize hu : d.dropSoftware l = u at software
  have chains : (u.chainsLinkLost l).directory = u.directory :=
    (State.OnlyChains.sameForm (chainsLinkLost_only u l).1).directory
  unfold State.linkLeaves
  rw [hd, hu]
  exact chains.trans (software.trans checks)

theorem faultCore_directory (s : State) (l : LinkId) (cause : FaultCause) (granule : Option Nat)
    (session : (s.link l).state.inSession = true) :
    (s.faultCore l cause none granule).directory = (s.dropAllHolders l).directory := by
  have left : (s.faultLeft l cause).directory = (s.dropAllHolders l).directory := linkLeaves_directory _ l []
  rw [faultCore_session s l cause none granule session]
  generalize s.faultLeft l cause = t at *
  rw [(onlyReports_raise _ _).sameForm.directory, (onlyReports_storeEvent t _).sameForm.directory, left]

/-- No listed entry of the directory holds a link. -/
def State.Unlisted (s : State) (l : LinkId) : Prop :=
  ∀ p ∈ s.directory, ∀ d : DirEntry, p.2 = some d → LinkSet.has d.holders l = false

theorem State.Unlisted.holders {s : State} {l : LinkId} (h : s.Unlisted l) (g : Nat) :
    LinkSet.has (s.holders g) l = false := by
  unfold State.holders
  split
  · next w found =>
    split
    · next d way => exact h (w, some d) (Table.listed_of_get none _ w (some d) way (by simp)) d rfl
    · exact LinkSet.has_zero l
  · exact LinkSet.has_zero l

theorem unlisted_dropAllHolders (s : State) (l m : LinkId) (h : m ≠ l → s.Unlisted m) :
    (s.dropAllHolders l).Unlisted m := by
  intro p listed d way
  obtain ⟨⟨w, v⟩, was, rfl, -⟩ := Table.mem_mapListed _ _ _ p listed
  obtain ⟨e, rfl, entry⟩ := Option.bind_eq_some_iff.mp way
  unfold dirEntryOf at entry
  split at entry
  · cases entry
  · cases entry
    show LinkSet.has (LinkSet.del e.holders l) m = false
    rw [LinkSet.has_del]
    by_cases own : m = l
    · subst own
      simp
    · rw [h own (w, some e) was e rfl, Bool.false_and]

/-! ### Sets of links -/

theorem LinkSet.without_zero (x : LinkSet) : x &&& ~~~(0 : LinkSet) = x := by
  revert x
  decide

theorem LinkSet.without_add (x gone : LinkSet) (l : LinkId) :
    x &&& ~~~(LinkSet.add gone l) = LinkSet.del (x &&& ~~~gone) l := by
  unfold LinkSet.del LinkSet.add
  rw [BitVec.not_or, BitVec.and_assoc]

theorem LinkSet.has_without (x gone : LinkSet) (l : LinkId) :
    LinkSet.has (x &&& ~~~gone) l = (LinkSet.has x l && !LinkSet.has gone l) := by
  revert x gone l
  decide

theorem LinkSet.del_eq_zero (x : LinkSet) (l : LinkId) (nonzero : x ≠ 0) (none_ : LinkSet.del x l = 0) :
    LinkSet.has x l = true := by
  revert x l
  decide

/-- The timer of an entry stops when the last link leaves that it waits for. -/
theorem stops_step {α : Type} (x gone : LinkSet) (l : LinkId) (a b : α) :
    (if LinkSet.has (x &&& ~~~gone) l = true ∧ LinkSet.del (x &&& ~~~gone) l = 0 then a
      else if x ≠ 0 ∧ x &&& ~~~gone = 0 then a else b) =
      if x ≠ 0 ∧ x &&& ~~~(LinkSet.add gone l) = 0 then a else b := by
  rw [LinkSet.without_add]
  by_cases zero : x &&& ~~~gone = 0
  · have none_ : LinkSet.del 0 l = 0 := BitVec.zero_and
    have out : ¬ (LinkSet.has 0 l = true ∧ LinkSet.del 0 l = 0) := by
      rw [LinkSet.has_zero]
      exact fun h => Bool.false_ne_true h.1
    rw [zero, if_neg out, none_]
  · have some_ : x ≠ 0 := fun e => zero (by rw [e]; exact BitVec.zero_and)
    rw [if_neg fun h : x ≠ 0 ∧ x &&& ~~~gone = 0 => zero h.2]
    by_cases last : LinkSet.del (x &&& ~~~gone) l = 0
    · rw [if_pos ⟨LinkSet.del_eq_zero _ l zero last, last⟩, if_pos ⟨some_, last⟩]
    · rw [if_neg fun h => last h.2, if_neg fun h => last h.2]

theorem countP_or_disjoint {α : Type} (p q r : α → Bool) (xs : List α) (joined : ∀ x, r x = (p x || q x))
    (apart : ∀ x, p x = true → q x = false) : xs.countP r = xs.countP p + xs.countP q := by
  induction xs with
  | nil => rfl
  | cons x xs ih =>
    have here := joined x
    have only := apart x
    rw [List.countP_cons, List.countP_cons, List.countP_cons, ih, here]
    cases px : p x
    · simp [Nat.add_assoc]
    · simp [only px]
      omega

/-! ### What several faults of one event leave -/

/-- A fence entry without its phase, as the loss of a link leaves it. -/
def FenceEntry.leftBy (e : FenceEntry) (l : LinkId) (checks : List OpenCheck) : FenceEntry :=
  { e with
    phase := .fencing, pending := LinkSet.del e.pending l
    timer := if LinkSet.has e.pending l = true ∧ LinkSet.del e.pending l = 0 then none else e.timer
    staleCount := e.staleCount - checks.countP
      (fun y => decide (y.link = l ∧ y.stale = true ∧ y.granule = some e.granule)) }

/-- A fence entry without its phase, as the loss of the links of a set leaves it. -/
def FenceEntry.without (e : FenceEntry) (gone : LinkSet) (checks : List OpenCheck) : FenceEntry :=
  { e with
    phase := .fencing, pending := e.pending &&& ~~~gone
    timer := if e.pending ≠ 0 ∧ e.pending &&& ~~~gone = 0 then none else e.timer
    staleCount := e.staleCount - checks.countP
      (fun y => LinkSet.has gone y.link && y.stale && decide (y.granule = some e.granule)) }

theorem FenceEntry.leftBy_phase (e : FenceEntry) (l : LinkId) (checks : List OpenCheck) :
    ({ e with phase := .fencing } : FenceEntry).leftBy l checks = e.leftBy l checks := rfl

theorem FenceEntry.without_leftBy (e : FenceEntry) (gone : LinkSet) (l : LinkId) (checks : List OpenCheck) :
    (e.without gone checks).leftBy l (checks.filter fun y => !LinkSet.has gone y.link) =
      e.without (LinkSet.add gone l) checks := by
  have pending := LinkSet.without_add e.pending gone l
  have timer := stops_step e.pending gone l none e.timer
  have stale : checks.countP
        (fun y => LinkSet.has (LinkSet.add gone l) y.link && y.stale && decide (y.granule = some e.granule)) =
      checks.countP (fun y => LinkSet.has gone y.link && y.stale && decide (y.granule = some e.granule)) +
        (checks.filter fun y => !LinkSet.has gone y.link).countP
          (fun y => decide (y.link = l ∧ y.stale = true ∧ y.granule = some e.granule)) := by
    rw [List.countP_filter]
    refine countP_or_disjoint _ _ _ _ (fun y => ?_) fun y => ?_
    · rw [LinkSet.has_add]
      by_cases out : LinkSet.has gone y.link = true <;> simp [out, Bool.and_assoc, beq_eq_decide]
    · cases LinkSet.has gone y.link <;> simp
  unfold FenceEntry.leftBy FenceEntry.without
  rw [← timer, pending, stale, Nat.sub_sub]

/-- `t` is `s` with the links of a set faulted by the revoke timer and out of every block. -/
structure State.Without (s t : State) (gone : LinkSet) : Prop where
  only : s.OnlyLoss t
  tables : s.TablesOk → t.TablesOk
  links : ∀ l : LinkId, t.link l = if LinkSet.has gone l then (s.link l).expelled else s.link l
  checks : t.openChecks = s.openChecks.filter fun x => !LinkSet.has gone x.link
  oldEpochs : t.oldEpochCount =
    s.oldEpochCount - s.openChecks.countP fun x => LinkSet.has gone x.link && x.oldEpoch
  verdicts : t.store.verdictQ = s.store.verdictQ.filter fun n => !LinkSet.has gone n.1
  requests : t.store.softQueue = s.store.softQueue.filter fun r => !LinkSet.has gone r.link
  commands : t.directQueue = s.directQueue.map fun x =>
    if LinkSet.has gone x.link then { x with inSession := false } else x
  flush : t.flushSet = s.flushSet &&& ~~~gone
  ways : s.TablesOk → s.DirectoryOk → ∀ w : Nat, t.dirWay w = (s.dirWay w).bind fun d =>
    if d.holders &&& ~~~gone = 0 then none else some { granule := d.granule, holders := d.holders &&& ~~~gone }
  unlisted : ∀ l : LinkId, LinkSet.has gone l = true → t.Unlisted l
  fence : t.fence.map (fun x => { x with phase := .fencing }) = s.fence.map fun x => x.without gone s.openChecks
  channels : ∀ c : ChannelId, LinkSet.has gone (s.chan c).fetchLink = false → t.chan c = s.chan c
  told : ∀ l : LinkId, LinkSet.has gone l = true → StatusSet.has t.reports.status .linkEvent = true

theorem without_nobody (s : State) (gone : LinkSet) (out : ∀ l : LinkId, LinkSet.has gone l = false)
    (same : ∀ x : LinkSet, x &&& ~~~gone = x) : s.Without s gone where
  only := State.OnlyLoss.refl s
  tables := id
  links l := by rw [out, if_neg Bool.false_ne_true]
  checks := by simp [out]
  oldEpochs := by simp [out]
  verdicts := by simp [out]
  requests := by simp [out]
  commands := by simp [out]
  flush := (same _).symm
  ways _ ok w := by
    cases way : s.dirWay w with
    | none => rfl
    | some d =>
      have holders : d.holders ≠ 0 := (ok.2.1 w d way).2.2.1
      rw [Option.bind_some, same, if_neg holders]
  unlisted l h := by
    rw [out] at h
    exact absurd h Bool.false_ne_true
  fence := by
    refine List.map_congr_left fun e _ => ?_
    have runs : ¬ (e.pending ≠ 0 ∧ e.pending = 0) := fun h => h.1 h.2
    unfold FenceEntry.without
    rw [same, if_neg runs]
    simp [out]
  channels _ _ := rfl
  told l h := by
    rw [out] at h
    exact absurd h Bool.false_ne_true

/-- A further link that is faulted in the event. -/
theorem State.Without.step {s t : State} {gone : LinkSet} (h : s.Without t gone) (l : LinkId) (granule : Option Nat)
    (session : (t.link l).state.inSession = true) (before : LinkSet.has gone l = false) :
    s.Without (t.faultCore l .revokeTimeout none granule) (LinkSet.add gone l) := by
  have own := faultCore_link t l
  have directory := faultCore_directory t l .revokeTimeout granule session
  have tables := (loosens_faultCore t l .revokeTimeout none granule).tables
  have told := faultCore_has t l .revokeTimeout none granule session
  obtain ⟨only, -, checks, oldEpochs, ways, -, -, flush, requests, commands, channels, verdicts, -, fence⟩ :=
    faultCore_cleared t l .revokeTimeout none granule session
  have links (m : LinkId) := own m granule session
  clear own
  generalize t.faultCore l .revokeTimeout none granule = u at *
  have stays (m : LinkId) : (!LinkSet.has (LinkSet.add gone l) m) = (m != l && !LinkSet.has gone m) := by
    rw [LinkSet.has_add, Bool.not_or, Bool.and_comm]
    rfl
  refine ⟨h.only.trans only, tables ∘ h.tables, fun m => ?_, ?_, ?_, ?_, ?_, ?_, ?_, fun ok whole w => ?_, fun m => ?_,
    ?_, fun c other => ?_, fun _ _ => told⟩
  · rw [links, h.links, LinkSet.has_add]
    by_cases own : m = l
    · subst own
      rw [before]
      simp
    · simp [own]
  · rw [checks, h.checks, List.filter_filter]
    exact List.filter_congr fun x _ => (stays x.link).symm
  · rw [oldEpochs, h.oldEpochs, h.checks, List.countP_filter, List.countP_filter, Nat.sub_sub]
    refine congrArg (s.oldEpochCount - ·) (countP_or_disjoint _ _ _ _ (fun x => ?_) fun x => ?_).symm
    · rw [LinkSet.has_add]
      cases LinkSet.has gone x.link <;> cases x.oldEpoch <;> simp
    · cases LinkSet.has gone x.link <;> simp
  · rw [verdicts, h.verdicts, List.filter_filter]
    exact List.filter_congr fun x _ => (stays x.1).symm
  · rw [requests, h.requests, List.filter_filter]
    exact List.filter_congr fun x _ => (stays x.link).symm
  · rw [commands, h.commands, List.map_map]
    refine List.map_congr_left fun x _ => ?_
    simp only [Function.comp, LinkSet.has_add]
    by_cases own : x.link = l
    · simp [own, before]
    · cases LinkSet.has gone x.link <;> simp [own]
  · rw [flush, h.flush, LinkSet.without_add]
  · rw [ways (h.tables ok), h.ways ok whole]
    cases s.dirWay w with
    | none => rfl
    | some d =>
      simp only [Option.bind_some, LinkSet.without_add]
      by_cases zero : d.holders &&& ~~~gone = 0
      · have none_ : LinkSet.del 0 l = 0 := BitVec.zero_and
        rw [zero, none_, if_pos rfl]
        rfl
      · rw [if_neg zero]
        rfl
  · intro leaves p listed d way
    rw [directory] at listed
    refine unlisted_dropAllHolders t l m (fun other => h.unlisted m ?_) p listed d way
    rw [LinkSet.has_add] at leaves
    simpa [other] using leaves
  · have through : t.fence.map (fun x => x.leftBy l t.openChecks) =
        (t.fence.map fun x => { x with phase := .fencing }).map fun x => x.leftBy l t.openChecks := by
      rw [List.map_map]
      rfl
    refine Eq.trans fence (through.trans ?_)
    rw [h.fence, h.checks, List.map_map]
    exact List.map_congr_left fun x _ => x.without_leftBy gone l s.openChecks
  · rw [LinkSet.has_add, Bool.or_eq_false_iff] at other
    have same := h.channels c other.1
    rw [channels c (by rw [same]; simpa using other.2), same]

/-! ### The faults of a revoke timer (R79) -/

/-- The links of a list are faulted for a granule's revocation, each when it is in a session. -/
def State.revokeFaults (s : State) (g : Nat) (ls : List LinkId) : State :=
  ls.foldl (fun u l => u.faultCore l .revokeTimeout none (some g)) s

theorem State.Without.faults {s t : State} {gone : LinkSet} (h : s.Without t gone) (g : Nat) (ls : List LinkId) :
    ∃ x : LinkSet, s.Without (t.revokeFaults g ls) x ∧
      ∀ m : LinkId, LinkSet.has x m = (LinkSet.has gone m || (decide (m ∈ ls) && (s.link m).state.inSession)) := by
  induction ls generalizing t gone with
  | nil => exact ⟨gone, h, fun m => by simp⟩
  | cons l ls ih =>
    have here := h.links l
    by_cases session : (t.link l).state.inSession = true
    · have before : LinkSet.has gone l = false := by
        rw [Bool.eq_false_iff]
        intro out
        rw [here, if_pos out] at session
        exact Bool.false_ne_true session
      rw [here, before, if_neg Bool.false_ne_true] at session
      obtain ⟨x, left, has⟩ := ih (h.step l (some g) (by rw [here, before]; exact session) before)
      refine ⟨x, left, fun m => ?_⟩
      rw [has, LinkSet.has_add]
      by_cases own : m = l
      · subst own
        simp [session]
      · have apart : (m == l) = false := beq_eq_false_iff_ne.mpr own
        simp [own, apart]
    · have out : (t.link l).state.inSession = false := Bool.not_eq_true _ ▸ session
      obtain ⟨x, left, has⟩ := ih h
      refine ⟨x, ?_, fun m => ?_⟩
      · show s.Without ((t.faultCore l .revokeTimeout none (some g)).revokeFaults g ls) x
        rw [faultCore_outside t l .revokeTimeout none (some g) out]
        exact left
      · rw [has]
        by_cases own : m = l
        · subst own
          cases gone_ : LinkSet.has gone m
          · rw [here, gone_, if_neg Bool.false_ne_true] at out
            simp [out]
          · simp
        · simp [own]

theorem drainsWait_faults (g : Nat) (ls : List LinkId) (s : State) : s.DrainsWait (s.revokeFaults g ls) := by
  induction ls generalizing s with
  | nil => exact State.DrainsWait.refl s
  | cons l ls ih => exact (drainsWait_faultCore s l .revokeTimeout none (some g)).trans (ih _)

theorem files_faults (g : Nat) (ls : List LinkId) (s : State) : State.Files (5 * ls.length) s (s.revokeFaults g ls) := by
  induction ls generalizing s with
  | nil => exact files_of_q1 0 rfl
  | cons l ls ih =>
    refine ((files_faultCore s l .revokeTimeout none (some g)).trans (ih _)).weaken ?_
    rw [List.length_cons]
    omega

theorem State.Files.kept {n : Nat} {s t : State} (a : State.Files n s t)
    (room : s.reports.q1.fill + n ≤ s.reports.q1.size) {r : EventRecord} (m : r ∈ s.reports.q1.records) :
    r ∈ t.reports.q1.records := by
  obtain ⟨rs, -, records⟩ := a.2 room
  rw [records]
  exact List.mem_append_left rs m

theorem State.Files.room {m n : Nat} {s t : State} (a : State.Files m s t)
    (room : s.reports.q1.fill + (m + n) ≤ s.reports.q1.size) : t.reports.q1.fill + n ≤ t.reports.q1.size := by
  obtain ⟨rs, few, records⟩ := a.2 (by omega)
  have fill : t.reports.q1.fill = s.reports.q1.fill + rs.length := by
    unfold ReportQueue.fill
    rw [records, List.length_append]
  rw [a.1, fill]
  omega

theorem faultCore_timeBase (s : State) (l : LinkId) (cause : FaultCause) (granule : Option Nat) :
    (s.faultCore l cause none granule).timeBase = s.timeBase := by
  by_cases session : (s.link l).state.inSession = true
  · have only := (faultCore_cleared s l cause none granule session).1
    generalize s.faultCore l cause none granule = t at *
    unfold State.OnlyLoss at only
    rw [only]
  · rw [faultCore_outside s l cause none granule (Bool.not_eq_true _ ▸ session)]

/-- Each link that is faulted has its record, when Q1 has room for what the event stores. -/
theorem faults_recorded (g : Nat) (ls : List LinkId) (s : State) (m : LinkId) (listed : m ∈ ls)
    (session : (s.link m).state.inSession = true)
    (room : s.reports.q1.fill + 5 * ls.length ≤ s.reports.q1.size) :
    s.faultRecord m .revokeTimeout none (some g) ∈ (s.revokeFaults g ls).reports.q1.records := by
  induction ls generalizing s with
  | nil => cases listed
  | cons l ls ih =>
    rw [List.length_cons] at room
    have stores := files_faultCore s l .revokeTimeout none (some g)
    have rest : (s.faultCore l .revokeTimeout none (some g)).reports.q1.fill + 5 * ls.length ≤
        (s.faultCore l .revokeTimeout none (some g)).reports.q1.size := stores.room (by omega)
    show _ ∈ ((s.faultCore l .revokeTimeout none (some g)).revokeFaults g ls).reports.q1.records
    by_cases own : m = l
    · subst own
      obtain ⟨rs, -, records⟩ := faultCore_records s m .revokeTimeout none (some g) session (by omega)
      refine (files_faults g ls _).kept rest ?_
      rw [records]
      exact List.mem_append_right _ List.mem_cons_self
    · have same : (s.faultCore l .revokeTimeout none (some g)).link m = s.link m := by
        by_cases live : (s.link l).state.inSession = true
        · rw [faultCore_link s l m (some g) live, if_neg own]
        · rw [faultCore_outside s l .revokeTimeout none (some g) (Bool.not_eq_true _ ▸ live)]
      have later := ih _ ((List.mem_cons.mp listed).resolve_left own) (by rw [same]; exact session) rest
      have time := faultCore_timeBase s l .revokeTimeout (some g)
      generalize s.faultCore l .revokeTimeout none (some g) = t at *
      unfold State.faultRecord at later ⊢
      rw [time] at later
      exact later

/-! ### The event of a revoke timer -/

/-- The revoke timer of a granule's entry stopped. -/
def State.timerStopped (s : State) (g : Nat) : State :=
  { s with fence := s.fence.map fun x => if x.granule = g then { x with timer := none } else x }

theorem exec_announceTimerExpiry (s : State) (l : LinkId) (state : (s.link l).state = .announcing)
    (reached : s.reached (s.link l).announceTimer = true) :
    exec (.announceTimerExpiry l) s = .next (s.faultEvent l .announceTimeout none) := if_pos ⟨state, reached⟩

theorem exec_flushTimerExpiry (s : State) (l : LinkId) (reached : s.reached (s.link l).flushTimer = true) :
    exec (.flushTimerExpiry l) s = .next (s.faultEvent l .flushTimeout none) := if_pos reached

theorem exec_revokeTimerExpiry (s : State) (g : Nat) (e : FenceEntry) (found : s.fenceOf g = some e)
    (reached : s.reached e.timer = true) : exec (.revokeTimerExpiry g) s =
      .next ((s.timerStopped g).revokeFaults g (LinkSet.links e.pending)).settle.closeEvent := by
  have names : e.granule = g := fenceOf_granule s g e found
  show execRevokeTimerExpiry g s = _
  unfold execRevokeTimerExpiry
  rw [found]
  refine (if_pos reached).trans ?_
  unfold State.revokeExpires
  rw [names]
  rfl

theorem settled_link (u : State) (l : LinkId) :
    u.settle.closeEvent.link l = { u.link l with outbound := (u.settle.closeEvent.link l).outbound } := by
  have settled : u.settle.link l = u.link l := by
    unfold State.link
    rw [settle_links]
  rw [linksSend_closeEvent u.settle l, settled]

theorem settled_phases (u : State) : u.settle.closeEvent.fence.map (fun x => { x with phase := .fencing }) =
    u.fence.map fun x => { x with phase := .fencing } := by
  rw [(settled_parts u).1, List.map_map]
  refine List.map_congr_left fun x _ => ?_
  simp only [Function.comp]
  split <;> rfl

/-- What the end of an event leaves of the blocks that the links of a set are out of. -/
theorem settled_blocks (u : State) :
    let t := u.settle.closeEvent
    t.openChecks = u.openChecks ∧ t.oldEpochCount = u.oldEpochCount ∧ t.store.verdictQ = u.store.verdictQ ∧
      t.store.softQueue = u.store.softQueue ∧ t.directQueue = u.directQueue ∧ t.flushSet = u.flushSet ∧
      t.directory = u.directory ∧ t.chains = u.chains ∧ t.reports.q1 = u.reports.q1 := by
  have whole := settled_eq u
  generalize u.settle.closeEvent = t at *
  dsimp only
  rw [whole]
  exact ⟨rfl, rfl, rfl, rfl, rfl, rfl, rfl, rfl, rfl⟩

theorem FenceEntry.without_granule (e : FenceEntry) (gone : LinkSet) (checks : List OpenCheck) :
    (e.without gone checks).granule = e.granule := rfl

/-- Nothing is left of a link that is out of every block when its event ends. -/
theorem State.Without.expelled {s u : State} {gone : LinkSet} (h : s.Without u gone) (l : LinkId)
    (out : LinkSet.has gone l = true) :
    u.settle.closeEvent.link l = (s.link l).expelled ∧ u.settle.closeEvent.Expelled l := by
  have link := h.links l
  rw [if_pos out] at link
  have own : u.settle.closeEvent.link l = (s.link l).expelled :=
    (settled_link_idle u l (by rw [link]; exact LinkState.noConfusion)).trans link
  obtain ⟨checks, -, -, requests, -, flush, directory, -, -⟩ := settled_blocks u
  have phases := settled_phases u
  generalize u.settle.closeEvent = t at *
  refine ⟨own, by rw [own]; rfl, by rw [own]; rfl, by rw [own]; rfl, by rw [own]; rfl, fun e listed => ?_,
    fun g => ?_, fun e listed => ?_, ?_, fun r listed => ?_⟩
  · rw [checks, h.checks, List.mem_filter] at listed
    rintro rfl
    rw [out] at listed
    exact Bool.false_ne_true listed.2
  · rw [holders_congr directory]
    exact (h.unlisted l out).holders g
  · have m : ({ e with phase := .fencing } : FenceEntry) ∈ s.fence.map fun x => x.without gone s.openChecks := by
      rw [← h.fence, ← phases]
      exact List.mem_map.mpr ⟨e, listed, rfl⟩
    obtain ⟨x, -, same⟩ := List.mem_map.mp m
    have pending : e.pending = x.pending &&& ~~~gone := (congrArg FenceEntry.pending same).symm
    rw [pending, LinkSet.has_without, out]
    exact Bool.and_false _
  · rw [flush, h.flush, LinkSet.has_without, out]
    exact Bool.and_false _
  · rw [requests, h.requests, List.mem_filter] at listed
    rintro rfl
    rw [out] at listed
    exact Bool.false_ne_true listed.2

/-- The fence entries at the end of the event, without their phases. -/
theorem State.Without.entries {s u : State} {gone : LinkSet} {g : Nat} (h : (s.timerStopped g).Without u gone) :
    u.settle.closeEvent.fence.map (fun x => { x with phase := .fencing }) = s.fence.map fun x => { x with
      phase := .fencing, pending := x.pending &&& ~~~gone
      timer := if x.granule = g ∨ (x.pending ≠ 0 ∧ x.pending &&& ~~~gone = 0) then none else x.timer
      staleCount := x.staleCount - s.openChecks.countP
        (fun y => LinkSet.has gone y.link && y.stale && decide (y.granule = some x.granule)) } := by
  rw [settled_phases u, h.fence]
  unfold State.timerStopped
  rw [List.map_map]
  refine List.map_congr_left fun x _ => ?_
  unfold FenceEntry.without
  by_cases own : x.granule = g
  · simp [own]
  · simp [own]

theorem State.Without.stopped {s u : State} {gone : LinkSet} {g : Nat} (h : (s.timerStopped g).Without u gone)
    (e : FenceEntry) (found : s.fenceOf g = some e) :
    ∃ f : FenceEntry, u.settle.closeEvent.fenceOf g = some f ∧ f.timer = none := by
  have names : e.granule = g := fenceOf_granule s g e found
  have before := find_fence_map u.settle.closeEvent.fence (fun x => { x with phase := .fencing }) g fun _ => rfl
  have entries := before.symm.trans ((congrArg (List.find? fun x : FenceEntry => x.granule == g) h.entries).trans
    (find_fence_map _ _ g fun _ => rfl))
  unfold State.fenceOf at found ⊢
  rw [found] at entries
  obtain ⟨f, here, same⟩ := Option.map_eq_some_iff.mp entries
  exact ⟨f, here, (congrArg FenceEntry.timer same).trans (if_pos (Or.inl names))⟩

theorem settles_of_stopped (s : State) (g : Nat) (ls : List LinkId) :
    s.Settles ((s.timerStopped g).revokeFaults g ls).settle.closeEvent := by
  have stops : s.DrainsWait (s.timerStopped g) :=
    drainsWait_fenceMap (fun x => if x.granule = g then { x with timer := none } else x) rfl rfl rfl fun x => by
      split <;> exact ⟨rfl, rfl⟩
  exact settles_of_drainsWait (stops.trans (drainsWait_faults g ls _))

theorem pending_room (s : State) (pending : LinkSet) (room : s.reports.q1.fill + 20 ≤ s.reports.q1.size) :
    s.reports.q1.fill + 5 * (LinkSet.links pending).length ≤ s.reports.q1.size := by
  have few : (LinkSet.links pending).length ≤ 4 := List.length_filter_le _ _
  omega

/-- What the event of a revoke timer leaves of the links and of Q1. -/
theorem revokeExpiry_links (s u : State) (g : Nat) (gone : LinkSet) (h : (s.timerStopped g).Without u gone) (l : LinkId) :
    let t := u.settle.closeEvent
    (LinkSet.has gone l = true → (t.link l).state = .faulted ∧ (t.link l).lastFault = some .revokeTimeout ∧
      t.Expelled l ∧ StatusSet.has t.reports.status .linkEvent = true) ∧
    (LinkSet.has gone l = false → t.link l = { s.link l with outbound := (t.link l).outbound }) := by
  have link := h.links l
  refine ⟨fun out => ?_, fun stays => ?_⟩
  · obtain ⟨own, expelled⟩ := h.expelled l out
    refine ⟨by rw [own]; rfl, by rw [own]; rfl, expelled, ?_⟩
    rw [(closeEvent_parts _).2.2.2.1]
    exact settle_has_of u _ (h.told l out)
  · have same : u.link l = s.link l := by
      rw [link, stays, if_neg Bool.false_ne_true]
      rfl
    rw [← same]
    exact settled_link u l

/-- What the event of a revoke timer leaves of the other blocks. -/
theorem revokeExpiry_blocks (s u : State) (g : Nat) (gone : LinkSet) (h : (s.timerStopped g).Without u gone) :
    let t := u.settle.closeEvent
    t.openChecks = s.openChecks.filter (fun x => !LinkSet.has gone x.link) ∧
    t.oldEpochCount = s.oldEpochCount - s.openChecks.countP (fun x => LinkSet.has gone x.link && x.oldEpoch) ∧
    t.store.verdictQ = s.store.verdictQ.filter (fun n => !LinkSet.has gone n.1) ∧
    t.store.softQueue = s.store.softQueue.filter (fun r => !LinkSet.has gone r.link) ∧
    t.directQueue = s.directQueue.map (fun x => if LinkSet.has gone x.link then { x with inSession := false } else x) ∧
    t.flushSet = s.flushSet &&& ~~~gone ∧
    (s.TablesOk → s.DirectoryOk → ∀ w : Nat, t.dirWay w = (s.dirWay w).bind fun d =>
      if d.holders &&& ~~~gone = 0 then none
      else some { granule := d.granule, holders := d.holders &&& ~~~gone }) ∧
    ∀ c : ChannelId, LinkSet.has gone (s.chan c).fetchLink = false → t.chan c = s.chan c := by
  obtain ⟨checks, oldEpochs, verdicts, requests, commands, flush, directory, chains, -⟩ := settled_blocks u
  generalize u.settle.closeEvent = t at *
  refine ⟨checks.trans h.checks, oldEpochs.trans h.oldEpochs, verdicts.trans h.verdicts, requests.trans h.requests,
    commands.trans h.commands, flush.trans h.flush, fun ok whole w => ?_, fun c stays => ?_⟩
  · exact (dirWay_congr directory w).trans (h.ways ok whole w)
  · have same : t.chan c = u.chan c := congrArg (fun v : Vector Channel 2 => v[c]) chains
    exact same.trans (h.channels c stays)

theorem onlyLoss_settled {s u : State} (h : s.OnlyLoss u) : s.OnlyLoss u.settle.closeEvent :=
  (h.trans (onlyLoss_settle u)).trans (onlyReports_closeEvent _).loss

/-- Settles O9: each fault is `faultCore`; the faults of a revoke timer by induction on the links still pending. -/
theorem timersFaultLinks : Obligations.TimersFaultLinks := by
  unfold Obligations.TimersFaultLinks
  refine ⟨fun s l state reached => ?_, fun s l session reached => ?_, fun s g e found reached => ?_,
    fun s l cause counter granule => faultCore_eq s l cause counter granule⟩
  · obtain ⟨cleared, own, told, newest, settles⟩ :=
      faultEvent_effect s l .announceTimeout none (announcing_session s l state)
    exact ⟨_, exec_announceTimerExpiry s l state reached, cleared, own, told, newest, settles, rfl⟩
  · obtain ⟨cleared, own, told, newest, settles⟩ := faultEvent_effect s l .flushTimeout none session
    exact ⟨_, exec_flushTimerExpiry s l reached, cleared, own, told, newest, settles, rfl⟩
  · obtain ⟨gone, h, has⟩ := (without_nobody (s.timerStopped g) 0 LinkSet.has_zero LinkSet.without_zero).faults g
      (LinkSet.links e.pending)
    have listed (l : LinkId) : l ∈ LinkSet.links e.pending ↔ LinkSet.has e.pending l = true := by
      unfold LinkSet.links
      rw [List.mem_filter]
      exact and_iff_right (mem_allLinks l)
    have left (l : LinkId) : LinkSet.has gone l = (LinkSet.has e.pending l && (s.link l).state.inSession) := by
      rw [has, LinkSet.has_zero, Bool.false_or]
      refine congrArg (· && (s.link l).state.inSession) ?_
      rw [Bool.eq_iff_iff, decide_eq_true_eq, listed]
    have recorded (room : s.reports.q1.fill + 20 ≤ s.reports.q1.size) (l : LinkId)
        (pending : LinkSet.has e.pending l = true) (session : (s.link l).state.inSession = true) :=
      faults_recorded g (LinkSet.links e.pending) (s.timerStopped g) l ((listed l).mpr pending) session
        (pending_room s e.pending room)
    have settles := settles_of_stopped s g (LinkSet.links e.pending)
    refine ⟨_, exec_revokeTimerExpiry s g e found reached, settles, ?_, ?_, ?_, ?_, ?_, ⟨gone, left, ?_⟩, rfl⟩
    all_goals generalize (s.timerStopped g).revokeFaults g (LinkSet.links e.pending) = u at *
    · intro l pending session
      exact (revokeExpiry_links s u g gone h l).1 (by rw [left, pending, session]; rfl)
    · intro room l pending session
      obtain ⟨-, -, -, -, -, -, -, -, queue⟩ := settled_blocks u
      rw [queue]
      exact recorded room l pending session
    · intro l stays
      refine (revokeExpiry_links s u g gone h l).2 ?_
      rw [left, Bool.and_eq_false_iff]
      exact stays
    · exact onlyLoss_settled (State.OnlyLoss.trans (t := s.timerStopped g) rfl h.only)
    · exact h.stopped e found
    · obtain ⟨checks, oldEpochs, verdicts, requests, commands, flush, ways, channels⟩ :=
        revokeExpiry_blocks s u g gone h
      exact ⟨checks, oldEpochs, verdicts, requests, commands, flush, ways, h.entries, channels⟩

end Sys2Proof.Machine
end
